-- ==== Sys2Proof/Word.lean ====
section
/-! DEFINITION. The word types of the FZ960 and their plainest arithmetic (spec/00_scope.md R3, R6). -/

namespace Sys2Proof

abbrev Byte := BitVec 8
abbrev Half := BitVec 16
abbrev Word := BitVec 32
abbrev DWord := BitVec 64

/-- One bit per virtual lane (R94). -/
abbrev Mask := BitVec 32

/-- One value per virtual lane, by vlane 0 to 31. -/
abbrev Lanes (α : Type) := Vector α 32

/-- `[hi:lo]` of R3 with `w = hi - lo + 1`. -/
def bits {n : Nat} (x : BitVec n) (lo w : Nat) : BitVec w := x.extractLsb' lo w

def bit {n : Nat} (x : BitVec n) (i : Nat) : Bool := x.getLsbD i

def b2n (b : Bool) : Nat := if b then 1 else 0

def maskOf (p : Nat → Bool) : Mask :=
  (List.range 32).foldl (fun m i => if p i then m ||| (1#32 <<< i) else m) 0#32

/-- The vlanes of a mask in ascending order. -/
def Mask.lanes (m : Mask) : List Nat := (List.range 32).filter (fun i => m.getLsbD i)

/-- The lowest vlane of a mask, 0 when it is empty. -/
def Mask.lowest (m : Mask) : Nat := (Mask.lanes m).headD 0

def Mask.count (m : Mask) : Nat := (Mask.lanes m).length

/-- Little-endian bytes of a value (R3). -/
def bytesOf {n : Nat} (x : BitVec n) (k : Nat) : List Byte :=
  (List.range k).map (fun i => x.extractLsb' (8 * i) 8)

/-- The value of little-endian bytes. -/
def natOfBytes (bs : List Byte) : Nat := bs.foldr (fun b acc => b.toNat + 256 * acc) 0

def ofBytes (n : Nat) (bs : List Byte) : BitVec n := BitVec.ofNat n (natOfBytes bs)

/-- Rounded-up division. -/
def ceilDiv (a b : Nat) : Nat := (a + b - 1) / b

end Sys2Proof
end

