-- ==== Sys2Proof/Config.lean ====
section
/-! DEFINITION. What an FZ960 part fixes and the manual does not give, and the free values: opaque
constants, so that no proof can see a value of them. -/

namespace Sys2Proof.Config

/-- The n-th free value: every value the manual leaves open is drawn from it by the counter
`State.oracle` (log 4). -/
opaque free : Nat → Nat

/-- REQ flits that the engines may have under way to a device, less 5, the most that one packet takes (R299). -/
opaque engineLimit : BitVec 11 → Nat

/-- PAGE flits that the sluice engine may have under way to a device, less 5 (R210, R299). -/
opaque pageLimit : BitVec 11 → Nat

/-- This device's number in the form of %device (R65). -/
opaque deviceId : BitVec 14

/-- The key hash fused into the device (R368). -/
opaque keyHash : BitVec 256

/-- The fused minimum security version (R368). -/
opaque minSvn : BitVec 32

/-- The device serial number (R369). -/
opaque serial : BitVec 64

/-- The signature under the device identity key (R369), whose private part never leaves the device. -/
opaque signQuote : List Byte → BitVec 3072

/-- The energy that firmware sets for one dispatch to a pipe, by pipe number (R113). -/
opaque energy : Nat → Nat

/-- The refill rate that the power governor sets at its n-th period (R113, R363). -/
opaque refill : Nat → Nat

/-- The foreground power asked for in the n-th period of the governor, in tenths of a watt (R363, R364). -/
opaque foregroundPower : Nat → Nat

/-- Whether a special function of R30 rounds as the upper end of its enclosure, where that does not decide the rounding at the
working precision (log 12), by function number and operand. -/
opaque sfuUndecided : Nat → BitVec 32 → Bool

/-- The hosts on firmware's admission list (R44). -/
opaque admitted : Nat → Bool

end Sys2Proof.Config
end

