-- ==== Sys2Proof/Syntax.lean ====
section
/-! DEFINITION. The operations and events of the FZ960: one constructor of `Instr` per row of
spec/opcode_table.json. The first 136 are instructions a fragment fetches (R79 to R84); the others
are the steps of the device's other agents and of its surroundings (95_what_each_step_holds.md). -/

namespace Sys2Proof

/-- The chain bit and the guard of a base word (R79, R81). -/
structure Head where
  chain : Bool
  g : BitVec 3
  neg : Bool
deriving DecidableEq, Repr

/-- The spaces of R83 and R169, in code order. -/
inductive Space where
  | g | a | w | c | l | t | cw | ca
deriving DecidableEq, Repr

/-- The signedness pair of IMULH (R118). -/
inductive MulSign where
  | ii | nn | ni
deriving DecidableEq, Repr

/-- The comparisons of ICMP and SCMP (R123). -/
inductive Cmp where
  | eq | ne | lt | le | gt | ge
deriving DecidableEq, Repr

/-- The operations of FSGN (R130). -/
inductive SgnOp where
  | abs | neg | negabs
deriving DecidableEq, Repr

/-- The operations of SSHF (R144). -/
inductive ShfOp where
  | shl | shr | sar
deriving DecidableEq, Repr

/-- Edge handling of SHFL (R162). -/
inductive Edge where
  | keep | zero | wrap
deriving DecidableEq, Repr

/-- The modes of SHFL (R162). -/
inductive ShflMode where
  | idx | xor | up | down | tid
deriving DecidableEq, Repr

/-- The modes of VOTE (R164). -/
inductive VoteMode where
  | any | all | eq | ballot
deriving DecidableEq, Repr

/-- The operators of REDW and SCANW (R165), in code order. -/
inductive RedOp where
  | addI32 | addF32 | maxI | maxN | minI | minN | maxF32 | minF32 | and | or | xor
deriving DecidableEq, Repr

/-- The completion kinds of engine instructions (R234). -/
inductive Ck where
  | none | bar | cnt | cnta
deriving DecidableEq, Repr

/-- The sources of operand B of MMA (R243). -/
inductive BSrc where
  | tile | w | cw | tlr
deriving DecidableEq, Repr

/-- The forms of RETT (R329). -/
inductive RettForm where
  | retry | skip | subst
deriving DecidableEq, Repr

/-- The register fields and extension fields that R82 gives the memory instructions; D is the
instruction's own operand. -/
structure MemOp where
  a : BitVec 6
  b : BitVec 6
  ix : Bool
  e : BitVec 6
  sp : Space
  col : BitVec 3
  wd : BitVec 3
  sg : Bool
  os : BitVec 2
  q : BitVec 2
  imm : BitVec 12
deriving DecidableEq, Repr

/-- A grid by its queue and sequence number, the value of %grid (R65). -/
structure GridId where
  queue : BitVec 12
  seq : BitVec 52
deriving DecidableEq, Repr

/-- The parts of a packet's header that its class does not fix (R290): the port it arrives at, its
sender, its job key, the flits it returns, HOP and LEN. `bad` says that a reserved field of it is not zero, that its KIND
is reserved for its class (R291), or that its CLASS cannot stand at the port. -/
structure Arrival where
  port : BitVec 5
  src : BitVec 11
  key : BitVec 32
  aret : BitVec 16
  /-- The index of the link crossed last, and the data flits. -/
  hop : BitVec 2
  len : BitVec 3
  bad : Bool
deriving DecidableEq, Repr

/-- Whether the words of an ATOM or RED block are 64 bits wide, and the scope code of BLOCK [0x02] (R291). -/
structure AtomForm where
  wide : Bool
  scope : BitVec 3
deriving DecidableEq, Repr

/-- A 64-bit write, with the port it comes in on. -/
structure PortWrite where
  port : BitVec 3
  value : DWord
deriving DecidableEq, Repr

/-- A write of a host to the device window, with the host (R44). -/
structure HostWrite (α : Type) where
  host : Nat
  value : α
deriving DecidableEq, Repr

/-- The page block of R208 with the granules its data flits carry. -/
structure PageMsg where
  src : BitVec 6
  sgid : BitVec 12
  gen : BitVec 16
  opn : BitVec 16
  va : DWord
  sz : BitVec 2
  status : BitVec 8
  gran : Word
  ngran : BitVec 8
  data : List (BitVec 128)
  /-- Granules of `data`, by place, that carry the check pattern of a poisoned line (R355). -/
  poison : BitVec 16
deriving DecidableEq, Repr

/-- A collective step packet (R292). -/
structure CStep where
  stype : BitVec 8
  srcRank : BitVec 6
  sgid : BitVec 12
  pair : Word
  chunk : DWord
  offset : Word
  step : BitVec 8
  flags : BitVec 5
  bytes : List Byte
deriving DecidableEq, Repr

/-- The matching tuple of a collective (R309). -/
structure CTuple where
  op : BitVec 8
  dtype : BitVec 8
  rop : BitVec 8
  innet : Bool
  count : DWord
  chunk : Word
  root : BitVec 8
  digest : DWord
deriving DecidableEq, Repr

/-- One entry of a ROUTE_LOAD request (R45): ports of REQ, RSP, PAGE and MGT, and ALIM. -/
structure RouteEntry where
  req : BitVec 8
  rsp : BitVec 8
  page : BitVec 8
  mgt : BitVec 8
  alim : BitVec 16
deriving DecidableEq, Repr

/-- Whom a PREEMPT request names (R45). -/
inductive PreemptTarget where
  | grid (g : GridId) (block : Option Word)
  | job (j : BitVec 16) (block : Option Word)
deriving DecidableEq, Repr

/-- What a DEBUG request does (R45, R340). -/
inductive DebugAct where
  | dctl (v : BitVec 3)
  | retry
  | skip
deriving DecidableEq, Repr

/-- The units of the error record (R359). -/
inductive Unit9 where
  | lane | regFile | buffer | l2 | matrix | hbm | roswald | bridge | sfu
deriving DecidableEq, Repr

/-- The links that are trained after a reset (R372). -/
inductive LinkKind where
  | baseDie | roswald | ultraEthernet
deriving DecidableEq, Repr

inductive Instr where
  -- vector integer, logic, moves and immediates (R118 to R126)
  | nop (c : Bool)
  | iadd (h : Head) (d a b : BitVec 6)
  | isub (h : Head) (d a b : BitVec 6)
  | imul (h : Head) (d a b : BitVec 6)
  | imulh (h : Head) (d a b : BitVec 6) (m : MulSign)
  | imin (h : Head) (d a b : BitVec 6) (sg : Bool)
  | imax (h : Head) (d a b : BitVec 6) (sg : Bool)
  | iabs (h : Head) (d a : BitVec 6)
  | ishl (h : Head) (d a b : BitVec 6)
  | ishr (h : Head) (d a b : BitVec 6)
  | isar (h : Head) (d a b : BitVec 6)
  | and (h : Head) (d a b : BitVec 6)
  | or (h : Head) (d a b : BitVec 6)
  | xor (h : Head) (d a b : BitVec 6)
  | andn (h : Head) (d a b : BitVec 6)
  | popc (h : Head) (d a : BitVec 6)
  | clz (h : Head) (d a : BitVec 6)
  | brev (h : Head) (d a : BitVec 6)
  | mov (h : Head) (d a : BitVec 6)
  | movi (h : Head) (d : BitVec 6) (i : BitVec 8)
  | iaddi (h : Head) (d a : BitVec 6) (i : BitVec 8)
  | limm (h : Head) (d : BitVec 6) (i : Word)
  | fmovi (h : Head) (d : BitVec 6) (i : BitVec 8)
  | plog (h : Head) (d a b : BitVec 3) (m : BitVec 2)
  | vsrr (h : Head) (d : BitVec 6) (sel : BitVec 12)
  | vsrw (h : Head) (d : BitVec 6) (sel : BitVec 12)
  | imad (h : Head) (d a b e : BitVec 6)
  | lea (h : Head) (d a b : BitVec 6) (sh : BitVec 5)
  | bfx (h : Head) (d a : BitVec 6) (pos : BitVec 5) (len : BitVec 6) (sg : Bool)
  | bfi (h : Head) (d a b : BitVec 6) (pos : BitVec 5) (len : BitVec 6)
  | sel (h : Head) (d a b : BitVec 6) (pc : BitVec 3)
  | icmp (h : Head) (d : BitVec 3) (a b : BitVec 6) (sg : Bool) (cond : Cmp)
  | dot4i (h : Head) (d a b e : BitVec 6) (sa sb : Bool)
  | dot2h (h : Head) (d a b e : BitVec 6) (rm : BitVec 2) (f16 : Bool)
  -- vector floating point (R128 to R134)
  | fadd (h : Head) (d a b : BitVec 6) (rm : BitVec 2)
  | fsub (h : Head) (d a b : BitVec 6) (rm : BitVec 2)
  | fmul (h : Head) (d a b : BitVec 6) (rm : BitVec 2)
  | fmac (h : Head) (d a b : BitVec 6) (rm : BitVec 2)
  | ffma (h : Head) (d a b e : BitVec 6) (rm : BitVec 2) (np nc : Bool)
  | fmin (h : Head) (d a b : BitVec 6)
  | fmax (h : Head) (d a b : BitVec 6)
  | fsgn (h : Head) (d a : BitVec 6) (m : SgnOp)
  | fcmp (h : Head) (d : BitVec 3) (a b : BitVec 6) (cond : BitVec 3)
  | fclass (h : Head) (d : BitVec 3) (a : BitVec 6) (mask : BitVec 10)
  | frnd (h : Head) (d a : BitVec 6) (rm : BitVec 2)
  | fscl (h : Head) (d a b : BitVec 6) (rm : BitVec 2)
  | hadd2 (h : Head) (d a b : BitVec 6) (f16 : Bool)
  | hmul2 (h : Head) (d a b : BitVec 6) (f16 : Bool)
  | hmin2 (h : Head) (d a b : BitVec 6) (f16 : Bool)
  | hmax2 (h : Head) (d a b : BitVec 6) (f16 : Bool)
  | hfma2 (h : Head) (d a b e : BitVec 6) (rm : BitVec 2) (f16 : Bool)
  -- conversion and special functions (R135 to R141)
  | cvt (h : Head) (d a : BitVec 6) (src dst : BitVec 4) (mode : BitVec 3) (sat : Bool)
  | cvtp (h : Head) (d a b : BitVec 6) (dst : BitVec 4) (mode : BitVec 3) (sat hi : Bool)
  | cvtu (h : Head) (d a : BitVec 6) (src : BitVec 4) (idx : BitVec 3)
  | qdec (h : Head) (d a b : BitVec 6) (idx : BitVec 3)
  | qenc (h : Head) (d a : BitVec 6) (type : BitVec 2) (q16 : Bool)
  | rcp (h : Head) (d a : BitVec 6)
  | rsq (h : Head) (d a : BitVec 6)
  | sqrt (h : Head) (d a : BitVec 6)
  | exp2 (h : Head) (d a : BitVec 6)
  | log2 (h : Head) (d a : BitVec 6)
  | sinp (h : Head) (d a : BitVec 6)
  | cosp (h : Head) (d a : BitVec 6)
  | tanh (h : Head) (d a : BitVec 6)
  -- uniform (R144 to R147)
  | sadd (c : Bool) (d a b : BitVec 6)
  | ssub (c : Bool) (d a b : BitVec 6)
  | smul (c : Bool) (d a b : BitVec 6)
  | sshf (c : Bool) (d a b : BitVec 6) (m : ShfOp)
  | slog (c : Bool) (d a b : BitVec 6) (m : BitVec 2)
  | sminmax (c : Bool) (d a b : BitVec 6) (m : BitVec 2)
  | smov (c : Bool) (d a : BitVec 6)
  | smovi (c : Bool) (d : BitVec 6) (i : BitVec 8)
  | smad (c : Bool) (d a b e : BitVec 6)
  | slea (c : Bool) (d a b : BitVec 6) (sh : BitVec 6) (disp : BitVec 20)
  | slimm (c : Bool) (d : BitVec 6) (hi : Bool) (i : Word)
  | scmp (c : Bool) (d : BitVec 3) (a b : BitVec 6) (sg : Bool) (cond : Cmp)
  | srr (c : Bool) (d : BitVec 6) (sel : BitVec 12)
  | srw (c : Bool) (a : BitVec 6) (sel : BitVec 12)
  -- control transfer, filing, cross-lane (R150 to R168, R289, R332)
  | bra (h : Head) (o : BitVec 20)
  | bru (h : Head) (o : BitVec 20)
  | call (h : Head) (o : BitVec 20)
  | calli (h : Head) (a b : BitVec 6) (ix : Bool)
  | jmpi (h : Head) (a b : BitVec 6) (ix : Bool)
  | ret (h : Head)
  | reform (h : Head) (n : BitVec 5) (m : BitVec 4)
  | spawn (h : Head) (d : BitVec 3) (o : BitVec 20)
  | exit (h : Head)
  | yield (h : Head) (n : BitVec 5) (m : BitVec 4)
  | balw (c : Bool) (a b : BitVec 6) (o : BitVec 20)
  | shfl (h : Head) (d a b e : BitVec 6) (seg : BitVec 3) (edge : Edge) (ln mm : Bool) (imm : BitVec 10) (im : Bool) (mode : ShflMode)
  | vote (h : Head) (d : BitVec 6) (a : BitVec 3) (e : BitVec 6) (mode : VoteMode) (mm ln : Bool)
  | redw (h : Head) (d a e : BitVec 6) (op : RedOp) (mm ln : Bool)
  | scanw (h : Head) (d a b e : BitVec 6) (op : RedOp) (ex mm ln : Bool)
  | elect (h : Head) (d : BitVec 3)
  | rdlane (h : Head) (d a : BitVec 6) (lane : BitVec 5)
  | bcast (h : Head) (d a : BitVec 6) (lane : BitVec 5)
  -- memory (R222 to R232)
  | ld (h : Head) (d : BitVec 6) (m : MemOp)
  | st (h : Head) (d : BitVec 6) (m : MemOp)
  | sld (c : Bool) (d : BitVec 6) (m : MemOp)
  | sst (c : Bool) (d : BitVec 6) (m : MemOp)
  | ldf (h : Head) (d : BitVec 6) (m : MemOp)
  | stf (h : Head) (d : BitVec 6) (m : MemOp)
  | lde (h : Head) (d : BitVec 6) (m : MemOp)
  | atom (h : Head) (d : BitVec 6) (m : MemOp)
  | red (h : Head) (d : BitVec 6) (m : MemOp)
  | redm (h : Head) (d : BitVec 6) (m : MemOp)
  | mst (h : Head) (d : BitVec 6) (m : MemOp)
  | touch (h : Head) (m : MemOp)
  | evict (h : Head) (m : MemOp)
  | pref (h : Head) (m : MemOp)
  -- engines, tiles and matrix (R236 to R248)
  | cpy (c : Bool) (d a b e : BitVec 6) (dsp ssp : Space) (queue : BitVec 3) (ck : Ck)
  | cpyt (c : Bool) (d a b e : BitVec 6) (st w : Bool) (queue : BitVec 3) (ck : Ck) (box1 : BitVec 5) (box0 : BitVec 10)
  | qfence (c : Bool) (e : BitVec 6) (queue : BitVec 3) (ck : Ck) (mask : BitVec 8)
  | ldt (h : Head) (d : BitVec 2) (a : BitVec 6) (sp : Space) (pitch : BitVec 11) (imm : BitVec 12)
  | stt (h : Head) (d : BitVec 2) (a : BitVec 6) (pitch : BitVec 11) (imm : BitVec 12)
  | mma (h : Head) (d a : BitVec 2) (b e : BitVec 6) (mc : Bool) (bsrc : BSrc) (bf af : BitVec 4)
  | mmaz (h : Head) (d a : BitVec 2) (b e : BitVec 6) (mc : Bool) (bsrc : BSrc) (bf af : BitVec 4)
  | accrd (h : Head) (d : BitVec 6) (a : BitVec 2) (b : BitVec 6) (cv : Bool)
  | accwr (h : Head) (d : BitVec 2) (a b : BitVec 6) (cv : Bool)
  | accld (h : Head) (d : BitVec 2) (a : BitVec 6) (imm : BitVec 12)
  | accst (h : Head) (d : BitVec 2) (a : BitVec 6) (imm : BitVec 12)
  | accz (h : Head) (d : BitVec 2)
  | txp (h : Head) (d a : BitVec 2) (b16 : Bool)
  -- synchronisation (R270 to R288, R308, R312)
  | fence (h : Head) (full : Bool) (scope : BitVec 3) (cmask : BitVec 8)
  | acq (h : Head) (d a : BitVec 6) (imm : BitVec 12)
  | rel (h : Head) (a b : BitVec 6) (scope : BitVec 3) (add : Bool) (imm : BitVec 12)
  | bind (c : Bool) (d a b : BitVec 6) (entry : BitVec 6)
  | bar (h : Head) (b : BitVec 6) (id : BitVec 4)
  | gbar (h : Head) (b : BitVec 6) (id : BitVec 2)
  | barm (c : Bool) (a b : BitVec 6) (imm : BitVec 12)
  | bara (c : Bool) (a b : BitVec 6) (imm : BitVec 12)
  | barw (c : Bool) (a b : BitVec 6) (imm : BitVec 12)
  | bart (c : Bool) (d : BitVec 3) (a b : BitVec 6) (imm : BitVec 12)
  | waitc (c : Bool) (a b : BitVec 6) (inA : Bool) (imm : BitVec 12)
  | waitcPoll (frag : Nat)
  | pin (c : Bool) (k : BitVec 3) (a : BitVec 6)
  | unpin (c : Bool) (k : BitVec 3)
  | reclaim (c : Bool) (d a : BitVec 6)
  | reclaimd (c : Bool) (d : BitVec 6)
  | alw (c : Bool) (d a : BitVec 6)
  | coll (c : Bool) (a : BitVec 6)
  | collw (c : Bool) (d a : BitVec 6)
  -- traps and pre-emption (R329, R333, R326)
  | trap (h : Head) (imm : Half)
  | brk (h : Head) (imm : Half)
  | rett (c : Bool) (form : RettForm)
  | preq (c : Bool) (d : BitVec 6)
  | trapEntry (frag : Nat)
  -- queues, grids and placement (R42 to R64, R335)
  | tailWrite (queue : BitVec 12) (write : HostWrite DWord)
  | queueSlotWrite (queue : BitVec 12) (slot : Nat) (write : HostWrite (BitVec 2048))
  | recordAccept (queue : BitVec 12)
  | gridComplete (grid : GridId)
  | blockPlace (grid : GridId) (core : Nat) (parts : List Nat)
  | gangPlace (grid : GridId) (cores : List Nat)
  | gangHold (grid : GridId) (cluster : Nat)
  | blockResume (block : Nat) (cores : List Nat)
  | panTimerExpire (pan : Nat)
  | panYield (pan : Nat) (ctx : Nat)
  -- buffers and engines (R252, R265, R235, R179)
  | fsbRelease (frag : Nat)
  | bsbDrain (block : Nat) (index : Nat)
  | enginePerform (block : Nat) (queue : BitVec 3)
  | engineRemoteTimeout (block : Nat) (queue : BitVec 3)
  | emptyTimeout (frag : Nat)
  -- page walks and sharded pages (R188, R205 to R217)
  | pageWalkDone (job : BitVec 16) (va : DWord)
  | memoryPressureEvict (job : BitVec 16) (va : DWord)
  | deferredFill (job : BitVec 16)
  | greq (p : Arrival) (m : PageMsg)
  | gather (p : Arrival) (m : PageMsg)
  | gdata (p : Arrival) (m : PageMsg)
  | gdone (p : Arrival) (m : PageMsg)
  | dreq (p : Arrival) (m : PageMsg)
  | drain (p : Arrival) (m : PageMsg)
  | dsum (p : Arrival) (m : PageMsg)
  | ddone (p : Arrival) (m : PageMsg)
  | pageEnd (p : Arrival) (m : PageMsg)
  | fetch (p : Arrival) (m : PageMsg)
  | fdata (p : Arrival) (m : PageMsg)
  | busy (p : Arrival) (m : PageMsg)
  | busyRetry (index : Nat)
  | fail (p : Arrival) (m : PageMsg)
  | pageTimeout (job : BitVec 16) (va : DWord) (rank : BitVec 6)
  -- fabric packets (R291 to R300, R304, R309)
  | read (p : Arrival) (tag : BitVec 12) (addr : BitVec 52) (lines : BitVec 4)
  | write (p : Arrival) (tag : BitVec 12) (addr : BitVec 52) (bytes : List (Nat × Byte)) (mstVa : Option DWord)
  | atomReq (p : Arrival) (tag : BitVec 12) (addr : BitVec 52) (aop : BitVec 4) (form : AtomForm) (x y : DWord)
  | redReq (p : Arrival) (tag : BitVec 12) (addr : BitVec 52) (aop : BitVec 4) (form : AtomForm) (x : DWord)
  | redmReq (p : Arrival) (tag : BitVec 12) (addr : BitVec 52) (aop : BitVec 4) (words : List (Nat × Word))
  | eread (p : Arrival) (tag : BitVec 12) (addr : BitVec 52) (count : Nat)
  | ewrite (p : Arrival) (tag : BitVec 12) (addr : BitVec 52) (bytes : List Byte)
  | cstep (p : Arrival) (tag : BitVec 12) (m : CStep)
  | cmatch (p : Arrival) (tag : BitVec 12) (sgid : BitVec 12) (pair : Word) (srcRank : BitVec 6) (t : CTuple)
  | collTimeout (sgid : BitVec 12) (pair : Word)
  | rdata (p : Arrival) (tag : BitVec 12) (status : BitVec 8) (bytes : List Byte)
  | areply (p : Arrival) (tag : BitVec 12) (status : BitVec 8) (old : DWord)
  | ack (p : Arrival) (tag : BitVec 12)
  | nack (p : Arrival) (tag : BitVec 12) (status : BitVec 8)
  | remoteLoadTimeout (frag : Nat)
  | storeAckTimeout (tag : BitVec 12)
  | aret (p : Arrival) (retReq retPage : Half) (delReq delRsp delPage : Word)
  | allowanceReturnTimer (peer : BitVec 11)
  -- slices, TIDE and time (R293, R313, R314, R365)
  | ready (p : Arrival) (sgid : BitVec 12) (start : DWord)
  | sabort (p : Arrival) (sgid : BitVec 12) (reason : BitVec 8) (start : DWord) (late : DWord)
  | tide (p : Arrival) (sgid : BitVec 12) (pair : Word) (t0 : DWord)
  | timeq (p : Arrival) (t1 : DWord)
  | timer (p : Arrival) (t1 t2 t3 : DWord)
  | sliceStart (sgid : BitVec 12)
  | sliceGraceExpire (sgid : BitVec 12)
  | routeHoldTimeout (dst : BitVec 11) (cls : BitVec 2)
  | linkRestrict (port : BitVec 5) (missing : List Nat)
  | tideFallback (sgid : BitVec 12) (pair : Word)
  | tideHoldEnd (job : BitVec 16)
  -- saves, ends, errors and repair (R334, R346, R348, R356, R357, R195, R358)
  | cooperativeSave (block : Nat)
  | forcedSave (block : Nat)
  | blockEnd (block : Nat)
  | errorConsume (frag : Nat) (addr : DWord)
  | selfTest (cls : Unit9) (unit : BitVec 32) (pass : Bool)
  | coreRetire (core : Nat)
  | laneRemap (core : Nat) (part : BitVec 2) (lane : BitVec 6)
  | channelRetire (channel : BitVec 8)
  -- base-die packets (R192, R197)
  | read64 (tag : BitVec 12) (channel : BitVec 8) (offset : BitVec 31)
  | read256 (tag : BitVec 12) (channel : BitVec 8) (offset : BitVec 31)
  | hbmWrite (tag : BitVec 12) (channel : BitVec 8) (offset : BitVec 31) (bytes : List (Nat × Byte))
  | hbmAtom (tag : BitVec 12) (channel : BitVec 8) (offset : BitVec 31) (aop : BitVec 4) (wide : Bool) (x y : DWord)
  | hbmRedm (tag : BitVec 12) (channel : BitVec 8) (offset : BitVec 31) (aop : BitVec 4) (words : List (Nat × Word))
  -- power, host window, boot (R363, R44, R367, R368)
  | apertureRead (host : Nat) (loc : BitVec 40) (count : Nat)
  | apertureWrite (host : Nat) (loc : BitVec 40) (bytes : List Byte)
  | stagingWrite (port : BitVec 3) (off : BitVec 24) (bytes : List Byte)
  | bootgo (write : PortWrite)
  | registerWrite (off : BitVec 40) (write : HostWrite DWord)
  -- firmware requests (R45)
  | jobOpen (job : BitVec 16) (root : BitVec 52) (key : BitVec 32)
  | jobClose (job : BitVec 16)
  | queueConfig (queue : BitVec 16) (size : Nat) (job : BitVec 16) (preempt : Bool) (pdl : Nat) (enable : Bool)
  | queueReset (queue : BitVec 12)
  | keyLoad (job : BitVec 16) (handle : BitVec 16) (key : Option (BitVec 512))
  | groupWrite (sgid : BitVec 12) (entry : BitVec 2048)
  | map (job : BitVec 16) (va : DWord) (leaf : BitVec 128)
  | grant (host : Nat) (frame : Nat) (count : Nat) (give : Bool)
  | routeLoad (first : BitVec 11) (entries : List RouteEntry) (commit : Bool)
  | admitKeys (port : BitVec 5) (keys : List (BitVec 32))
  | slice (sgid : BitVec 12) (start : DWord) (grace : Word)
  | preempt (who : PreemptTarget)
  | pgovWrite (value : DWord)
  | quote (nonce : BitVec 256)
  | debug (warp : Nat) (act : DebugAct)
  | saveArea (job : BitVec 16) (va : DWord) (len : DWord)
  | reservedRequest (code : BitVec 16)
  -- patrol, links, time and requests of system software (R293, R350, R358, R372)
  | scrub (line : Nat) (wrong : BitVec 72)
  | linkTraining (link : LinkKind) (ok : Bool)
  | timeqSend (peer : BitVec 11)
  | sliceAbortRequest (sgid : BitVec 12)
  | gridEndRequest (grid : GridId)
  -- no operands (R119, R363, R45, R371 to R373)
  | governorPeriod
  | pgovRead
  | reset
  | warmReset
  | coldReset
  | resetPin
deriving DecidableEq, Repr

end Sys2Proof
end

