-- ==== Sys2Proof/WellFormed.lean ====
section
/-! DEFINITION. Which instructions the encodings allow (R81, R85 and the entries): what decode must
refuse apart from the register numbers, which are checked against the kernel at issue. -/

namespace Sys2Proof

/-- R81: G = 111 with GN = 1 is not a guard. -/
def Head.wf (h : Head) : Bool := !(h.g == 7#3 && h.neg)

/-- A predicate destination (R81). -/
def predDst (d : BitVec 3) : Bool := d != 7#3

/-- The instructions that use the layout of R82. -/
inductive MemKind where
  | ld | st | sld | sst | ldf | stf | lde | atom | red | redm | mst | touch | evict | pref
deriving DecidableEq, Repr

/-- The spaces of R171. -/
def MemKind.spaces : MemKind → List Space
  | .ld => [.g, .a, .w, .c, .l, .t, .cw, .ca]
  | .st => [.g, .a, .w, .l, .t, .cw, .ca]
  | .ldf | .stf => [.a, .w]
  | .atom | .red => [.g, .a, .t]
  | .redm | .mst => [.g]
  | .lde | .touch | .evict | .pref => [.g, .t]
  | .sld => [.g, .a, .w, .c, .t]
  | .sst => [.g, .a, .w, .t]

/-- The widths of R219, R225, R228, R230 to R232. -/
def MemKind.widths : MemKind → List (BitVec 3)
  | .ld | .st | .ldf | .stf | .mst => [0, 1, 2, 3, 4]
  | .sld | .sst => [0, 1, 2, 3]
  | .atom | .red => [2, 3]
  | .redm => [2, 3, 4]
  | .lde => [2]
  | .touch | .evict | .pref => [0]

/-- The qualifiers of R220. -/
def MemKind.quals (k : MemKind) (sp : Space) : List (BitVec 2) :=
  match k with
  | .ld | .st => if sp == .g || sp == .t then [0, 1] else [0]
  | .ldf | .touch => [0, 1]
  | .atom | .red => [0, 1, 2, 3]
  | _ => [0]

def MemKind.writes : MemKind → Bool
  | .st | .sst | .stf | .atom | .red | .redm | .mst => true
  | _ => false

/-- The 32-bit registers of a datum of width WD (R219). -/
def regsOfWd (wd : BitVec 3) : Nat := if wd == 3#3 then 2 else if wd == 4#3 then 4 else 1

/-- The bytes of a datum of width WD (R83). -/
def bytesOfWd (wd : BitVec 3) : Nat := 2 ^ wd.toNat

def MemOp.aop (m : MemOp) : BitVec 4 := bits m.imm 8 4

/-- R219, R226, R228: alignment of register groups. -/
def MemKind.dstOk (k : MemKind) (d : BitVec 6) (m : MemOp) : Bool :=
  match k with
  | .sld | .sst => true
  | .touch | .evict | .pref => d == 0#6
  | _ => d.toNat % regsOfWd m.wd == 0

/-- The operation codes of R226 and R228. -/
def MemKind.aopOk (k : MemKind) (m : MemOp) : Bool :=
  match k with
  | .atom => m.aop.toNat ≤ 12 && (m.aop.toNat < 10 || m.wd == 2#3)
  | .red => m.aop.toNat ≤ 12 && (m.aop.toNat < 10 || m.wd == 2#3) && m.aop != 8#4 && m.aop != 9#4
  | .redm => m.aop.toNat ≤ 8
  | _ => true

/-- The use of E: the operand group of ATOM (R226), the group register of MST (R229). -/
def MemKind.eOk (k : MemKind) (m : MemOp) : Bool :=
  match k with
  | .mst => true
  | .atom => m.e.toNat % (regsOfWd m.wd * (if m.aop == 9#4 then 2 else 1)) == 0
  | _ => m.e == 0#6

def MemKind.ok (k : MemKind) (d : BitVec 6) (m : MemOp) : Bool :=
  k.spaces.contains m.sp && k.widths.contains m.wd && (k.quals m.sp).contains m.q
    && (!m.sg || ((k == .ld || k == .ldf || k == .sld) && m.wd.toNat ≤ 1))
    && (k.writes || m.col == 0#3)
    && (m.ix || (m.b == 0#6 && m.os == 0#2))
    && (!m.ix || !(k == .sld || k == .sst)) && (k != .pref || m.ix)
    && k.dstOk d m && k.aopOk m && k.eOk m

/-- Formats of CVT (R135). -/
def cvtFmt (f : BitVec 4) : Bool := 1 ≤ f.toNat && f.toNat ≤ 9

/-- Elements of a source of CVTU in one lane (R138), 0 for a format it does not accept. -/
def cvtuCount (f : BitVec 4) : Nat :=
  if f == 2#4 || f == 3#4 then 2 else if 4 ≤ f.toNat && f.toNat ≤ 7 then 4 else if f == 10#4 then 8 else 0

/-- Element width of an MMA format code in bits (R241), 0 for a reserved code. -/
def mmaWidth (f : BitVec 4) : Nat :=
  if f == 2#4 || f == 3#4 then 16 else if 4 ≤ f.toNat && f.toNat ≤ 7 then 8 else if f == 9#4 || f == 10#4 then 4 else 0

def mmaInt (f : BitVec 4) : Bool := f == 6#4 || f == 7#4

/-- R241: a pairing of a resolved B format with an A format. -/
def mmaPair (af bf : BitVec 4) : Bool := mmaWidth af == mmaWidth bf && mmaInt af == mmaInt bf

/-- R241 to R243 at decode. -/
def mmaOk (b e : BitVec 6) (mc : Bool) (bsrc : BSrc) (bf af : BitVec 4) : Bool :=
  mmaWidth af != 0 && af != 9#4
    && (match bsrc with
        | .tile => bf != 9#4 && mmaPair af bf && b.toNat < 4
        | _ => bf == 0#4 || (mmaPair af bf && mmaWidth bf != 0))
    && (!mc || bsrc == .cw) && (bsrc == .tlr || e == 0#6)

/-- R162. -/
def shflOk (b e : BitVec 6) (seg : BitVec 3) (edge : Edge) (mm : Bool) (imm : BitVec 10) (im : Bool)
    (mode : ShflMode) : Bool :=
  seg.toNat ≤ 4 && (mm || e == 0#6) && (if im then b == 0#6 else imm == 0#10)
    && (match mode with
        | .tid => seg == 0#3 && edge == .keep
        | .idx | .xor => edge == .keep && imm.toNat ≤ 31
        | _ => imm.toNat ≤ 31)

/-- The scopes of REL (R271). -/
def relScope (s : BitVec 3) : Bool := 2 ≤ s.toNat && s.toNat ≤ 6

/-- The head of an instruction that may carry a guard. -/
def Instr.head? : Instr → Option Head
  | .iadd h .. | .isub h .. | .imul h .. | .imulh h .. | .imin h .. | .imax h .. | .iabs h ..
  | .ishl h .. | .ishr h .. | .isar h .. | .and h .. | .or h .. | .xor h .. | .andn h .. | .popc h ..
  | .clz h .. | .brev h .. | .mov h .. | .movi h .. | .iaddi h .. | .limm h .. | .fmovi h ..
  | .plog h .. | .vsrr h .. | .vsrw h .. | .imad h .. | .lea h .. | .bfx h .. | .bfi h .. | .sel h ..
  | .icmp h .. | .dot4i h .. | .dot2h h .. | .fadd h .. | .fsub h .. | .fmul h .. | .fmac h ..
  | .ffma h .. | .fmin h .. | .fmax h .. | .fsgn h .. | .fcmp h .. | .fclass h .. | .frnd h ..
  | .fscl h .. | .hadd2 h .. | .hmul2 h .. | .hmin2 h .. | .hmax2 h .. | .hfma2 h .. | .cvt h ..
  | .cvtp h .. | .cvtu h .. | .qdec h .. | .qenc h .. | .rcp h .. | .rsq h .. | .sqrt h .. | .exp2 h ..
  | .log2 h .. | .sinp h .. | .cosp h .. | .tanh h .. | .bra h .. | .bru h .. | .call h .. | .calli h ..
  | .jmpi h .. | .ret h | .reform h .. | .spawn h .. | .exit h | .yield h .. | .shfl h .. | .vote h ..
  | .redw h .. | .scanw h .. | .elect h .. | .rdlane h .. | .bcast h .. | .ld h .. | .st h .. | .ldf h ..
  | .stf h .. | .lde h .. | .atom h .. | .red h .. | .redm h .. | .mst h .. | .touch h .. | .evict h ..
  | .pref h .. | .ldt h .. | .stt h .. | .mma h .. | .mmaz h .. | .accrd h .. | .accwr h .. | .accld h ..
  | .accst h .. | .accz h .. | .txp h .. | .fence h .. | .acq h .. | .rel h .. | .bar h .. | .gbar h ..
  | .trap h .. | .brk h .. => some h
  | _ => none

/-- The operand limits of each instruction, the guard apart. -/
def Instr.operandsOk : Instr → Bool
  | .plog _ d .. | .icmp _ d .. | .fcmp _ d .. | .fclass _ d .. | .spawn _ d .. | .elect _ d => predDst d
  | .scmp _ d .. | .bart _ d .. => predDst d
  | .bfx _ _ _ _ len _ | .bfi _ _ _ _ _ len => 1 ≤ len.toNat && len.toNat ≤ 32
  | .cvt _ _ _ src dst mode _ => cvtFmt src && cvtFmt dst && mode.toNat ≤ 4
  | .cvtp _ _ _ _ dst mode _ hi => 2 ≤ dst.toNat && dst.toNat ≤ 7 && mode.toNat ≤ 4 && (!hi || 4 ≤ dst.toNat)
  | .cvtu _ _ _ src idx => idx.toNat < cvtuCount src
  | .calli _ _ b ix | .jmpi _ _ b ix => ix || b == 0#6
  | .reform _ n m | .yield _ n m => n.toNat ≤ 16 && m.toNat ≤ 8
  | .shfl _ _ _ b e seg edge _ mm imm im mode => shflOk b e seg edge mm imm im mode
  | .vote _ d _ e mode mm _ => (mm || e == 0#6) && (mode == .ballot || d.toNat < 7)
  | .redw _ _ _ e _ mm _ => mm || e == 0#6
  | .scanw _ _ _ _ e _ _ mm _ => mm || e == 0#6
  | .ld _ d m => MemKind.ok .ld d m
  | .st _ d m => MemKind.ok .st d m
  | .sld _ d m => MemKind.ok .sld d m
  | .sst _ d m => MemKind.ok .sst d m
  | .ldf _ d m => MemKind.ok .ldf d m
  | .stf _ d m => MemKind.ok .stf d m
  | .lde _ d m => MemKind.ok .lde d m
  | .atom _ d m => MemKind.ok .atom d m
  | .red _ d m => MemKind.ok .red d m
  | .redm _ d m => MemKind.ok .redm d m
  | .mst _ d m => MemKind.ok .mst d m
  | .touch _ m => MemKind.ok .touch 0 m
  | .evict _ m => MemKind.ok .evict 0 m
  | .pref _ m => MemKind.ok .pref 0 m
  | .cpy _ _ _ _ e dsp ssp _ ck =>
      !([Space.l, Space.t].contains dsp) && !([Space.l, Space.t].contains ssp) && (ck != .none || e == 0#6)
  | .cpyt _ _ _ b e _ _ _ ck _ _ => b.toNat % 2 == 0 && (ck != .none || e == 0#6)
  | .qfence _ e _ ck _ => ck != .none || e == 0#6
  | .ldt _ _ _ sp _ _ => sp == .a || sp == .w
  | .mma _ _ _ b e mc bsrc bf af | .mmaz _ _ _ b e mc bsrc bf af => mmaOk b e mc bsrc bf af
  | .accrd _ _ _ b cv | .accwr _ _ _ b cv => cv || b.toNat < 32
  | .fence _ _ scope _ => scope != 7#3
  | .rel _ _ _ scope _ _ => relScope scope
  | _ => true

/-- Decode refuses an instruction that breaks this. -/
def Instr.wf (i : Instr) : Bool :=
  (match i.head? with
   | some h => h.wf
   | none => true) && i.operandsOk

end Sys2Proof
end

