-- ==== Sys2Proof/Decode.lean ====
section
/-! DEFINITION. Decoding words to instructions and encoding them back (R77, R79 to R85, and the
encodings of the entries). A word is split into the fields of R79 and R80, the fields are read as an
instruction, and the reading is accepted only if it is well-formed and its own encoding is the very
word read: so every unused or reserved bit must be zero (R81, R85). -/

namespace Sys2Proof

/-- The fields of a base word (R79) and, for an X format, of its extension word (R80). -/
structure Enc where
  op : BitVec 7
  h : Head
  d : BitVec 6
  a : BitVec 6
  b : BitVec 6
  m : BitVec 2
  e : BitVec 6
  f : BitVec 26
deriving DecidableEq, Repr

/-- Why a word is not an instruction. -/
inductive DecodeError where
  | reservedOpcode
  | reservedCode
  | illFormed
  | unusedField
  | extensionPastPacket
deriving DecidableEq, Repr

/-- The X-format opcodes of R84. -/
def isX (op : BitVec 7) : Bool :=
  [0x05, 0x13, 0x14, 0x15, 0x16, 0x17, 0x1A, 0x1D, 0x1E, 0x23, 0x28, 0x29, 0x2D, 0x30, 0x31, 0x32, 0x3B,
   0x3C, 0x43, 0x49, 0x4A, 0x4B, 0x4C, 0x4D, 0x4E, 0x4F, 0x56, 0x57, 0x59, 0x5A, 0x5B, 0x5C, 0x5D, 0x5E,
   0x60, 0x61, 0x62, 0x63, 0x64, 0x65, 0x66, 0x67, 0x68, 0x69, 0x6A, 0x6B, 0x6C, 0x6D, 0x6E, 0x6F, 0x70,
   0x71, 0x74, 0x75, 0x78, 0x79, 0x7A, 0x7D, 0x7E].contains op.toNat

/-- The base word of R79. -/
def Enc.base (x : Enc) : Word :=
  BitVec.ofBool x.h.chain ++ x.op ++ x.h.g ++ BitVec.ofBool x.h.neg ++ x.d ++ x.a ++ x.b ++ x.m

/-- The extension word of R80. -/
def Enc.ext (x : Enc) : Word := x.e ++ x.f

def Enc.words (x : Enc) : List Word := if isX x.op then [x.base, x.ext] else [x.base]

/-- The fields of a base word and its extension word. -/
def Enc.ofWords (w e : Word) : Enc :=
  let op := bits w 24 7
  { op, h := { chain := bit w 31, g := bits w 21 3, neg := bit w 20 },
    d := bits w 14 6, a := bits w 8 6, b := bits w 2 6, m := bits w 0 2,
    e := if isX op then bits e 26 6 else 0, f := if isX op then bits e 0 26 else 0 }

/-! Codes of the enumerated operands. -/

def Space.code : Space → BitVec 3
  | .g => 0 | .a => 1 | .w => 2 | .c => 3 | .l => 4 | .t => 5 | .cw => 6 | .ca => 7

def Space.ofCode (c : BitVec 3) : Space :=
  match c.toNat with
  | 0 => .g | 1 => .a | 2 => .w | 3 => .c | 4 => .l | 5 => .t | 6 => .cw | _ => .ca

def MulSign.code : MulSign → BitVec 2
  | .ii => 0 | .nn => 1 | .ni => 2

def MulSign.ofCode (c : BitVec 2) : Option MulSign :=
  match c.toNat with
  | 0 => some .ii | 1 => some .nn | 2 => some .ni | _ => none

def Cmp.code : Cmp → BitVec 3
  | .eq => 0 | .ne => 1 | .lt => 2 | .le => 3 | .gt => 4 | .ge => 5

def Cmp.ofCode (c : BitVec 3) : Option Cmp :=
  match c.toNat with
  | 0 => some .eq | 1 => some .ne | 2 => some .lt | 3 => some .le | 4 => some .gt | 5 => some .ge | _ => none

def SgnOp.code : SgnOp → BitVec 2
  | .abs => 0 | .neg => 1 | .negabs => 2

def SgnOp.ofCode (c : BitVec 2) : Option SgnOp :=
  match c.toNat with
  | 0 => some .abs | 1 => some .neg | 2 => some .negabs | _ => none

def ShfOp.code : ShfOp → BitVec 2
  | .shl => 0 | .shr => 1 | .sar => 2

def ShfOp.ofCode (c : BitVec 2) : Option ShfOp :=
  match c.toNat with
  | 0 => some .shl | 1 => some .shr | 2 => some .sar | _ => none

def Edge.code : Edge → BitVec 2
  | .keep => 0 | .zero => 1 | .wrap => 2

def Edge.ofCode (c : BitVec 2) : Option Edge :=
  match c.toNat with
  | 0 => some .keep | 1 => some .zero | 2 => some .wrap | _ => none

def ShflMode.code : ShflMode → BitVec 3
  | .idx => 0 | .xor => 1 | .up => 2 | .down => 3 | .tid => 4

def ShflMode.ofCode (c : BitVec 3) : Option ShflMode :=
  match c.toNat with
  | 0 => some .idx | 1 => some .xor | 2 => some .up | 3 => some .down | 4 => some .tid | _ => none

def VoteMode.code : VoteMode → BitVec 2
  | .any => 0 | .all => 1 | .eq => 2 | .ballot => 3

def VoteMode.ofCode (c : BitVec 2) : VoteMode :=
  match c.toNat with
  | 0 => .any | 1 => .all | 2 => .eq | _ => .ballot

def RedOp.code : RedOp → BitVec 4
  | .addI32 => 0 | .addF32 => 1 | .maxI => 2 | .maxN => 3 | .minI => 4 | .minN => 5 | .maxF32 => 6
  | .minF32 => 7 | .and => 8 | .or => 9 | .xor => 10

def RedOp.ofCode (c : BitVec 4) : Option RedOp :=
  match c.toNat with
  | 0 => some .addI32 | 1 => some .addF32 | 2 => some .maxI | 3 => some .maxN | 4 => some .minI
  | 5 => some .minN | 6 => some .maxF32 | 7 => some .minF32 | 8 => some .and | 9 => some .or
  | 10 => some .xor | _ => none

def Ck.code : Ck → BitVec 2
  | .none => 0 | .bar => 1 | .cnt => 2 | .cnta => 3

def Ck.ofCode (c : BitVec 2) : Ck :=
  match c.toNat with
  | 0 => .none | 1 => .bar | 2 => .cnt | _ => .cnta

def BSrc.code : BSrc → BitVec 2
  | .tile => 0 | .w => 1 | .cw => 2 | .tlr => 3

def BSrc.ofCode (c : BitVec 2) : BSrc :=
  match c.toNat with
  | 0 => .tile | 1 => .w | 2 => .cw | _ => .tlr

def RettForm.code : RettForm → BitVec 2
  | .retry => 0 | .skip => 1 | .subst => 2

def RettForm.ofCode (c : BitVec 2) : Option RettForm :=
  match c.toNat with
  | 0 => some .retry | 1 => some .skip | 2 => some .subst | _ => none

/-- The extension fields of R82. -/
def MemOp.f (m : MemOp) : BitVec 26 :=
  m.sp.code ++ m.col ++ m.wd ++ BitVec.ofBool m.sg ++ m.os ++ m.q ++ m.imm

/-- The memory operand read from the fields (R82). -/
def Enc.mem (x : Enc) : MemOp :=
  { a := x.a, b := x.b, ix := bit x.m 0, e := x.e, sp := Space.ofCode (bits x.f 23 3), col := bits x.f 20 3,
    wd := bits x.f 17 3, sg := bit x.f 16, os := bits x.f 14 2, q := bits x.f 12 2, imm := bits x.f 0 12 }

def bool2 (b : Bool) : BitVec 2 := 0#1 ++ BitVec.ofBool b

/-- The head of a uniform-class instruction: G = 111 (R81). -/
def uni (c : Bool) : Head := { chain := c, g := 7, neg := false }

/-- VR format. -/
def encVR (op : BitVec 7) (h : Head) (d a b : BitVec 6) (m : BitVec 2) : Option Enc :=
  some { op, h, d, a, b, m, e := 0, f := 0 }

/-- VI format: I8 is B:M. -/
def encVI (op : BitVec 7) (h : Head) (d a : BitVec 6) (i : BitVec 8) : Option Enc :=
  some { op, h, d, a, b := bits i 2 6, m := bits i 0 2, e := 0, f := 0 }

/-- BR format: OFS is D:A:B:M. -/
def encBR (op : BitVec 7) (h : Head) (o : BitVec 20) : Option Enc :=
  some { op, h, d := bits o 14 6, a := bits o 8 6, b := bits o 2 6, m := bits o 0 2, e := 0, f := 0 }

/-- X format. -/
def encX (op : BitVec 7) (h : Head) (d a b : BitVec 6) (m : BitVec 2) (e : BitVec 6) (f : BitVec 26) : Option Enc :=
  some { op, h, d, a, b, m, e, f }

/-- An immediate extension word, E:F (R80). -/
def encImm (op : BitVec 7) (h : Head) (d : BitVec 6) (m : BitVec 2) (i : Word) : Option Enc :=
  some { op, h, d, a := 0, b := 0, m, e := bits i 26 6, f := bits i 0 26 }

/-- The memory layout of R82. -/
def encMem (op : BitVec 7) (h : Head) (d : BitVec 6) (m : MemOp) : Option Enc :=
  some { op, h, d, a := m.a, b := m.b, m := bool2 m.ix, e := m.e, f := m.f }

/-- OP 0x7A (R276). -/
def enc7A (h : Head) (d a b : BitVec 6) (sub sp : BitVec 3) (id : BitVec 4) (imm : BitVec 12) : Option Enc :=
  encX 0x7A h d a b 0 0 (sub ++ sp ++ id ++ 0#4 ++ imm)

def accF (imm : BitVec 12) : BitVec 26 :=
  MemOp.f { a := 0, b := 0, ix := false, e := 0, sp := .c, col := 0, wd := 2, sg := false, os := 0, q := 0, imm }

def p6 (p : BitVec 3) : BitVec 6 := 0#3 ++ p

def t6 (t : BitVec 2) : BitVec 6 := 0#4 ++ t

def selA (s : BitVec 12) : BitVec 6 := bits s 6 6

def selB (s : BitVec 12) : BitVec 6 := bits s 0 6

def cmpF (sg : Bool) (c : Cmp) : BitVec 26 := 0#22 ++ BitVec.ofBool sg ++ c.code

def rmF (rm : BitVec 2) (x : BitVec 2) : BitVec 26 := 0#21 ++ x ++ 0#1 ++ rm

def mmF (pre : BitVec 20) (op : RedOp) : BitVec 26 := 0#2 ++ pre ++ op.code

def mmaF (mc : Bool) (bsrc : BSrc) (bf af : BitVec 4) : BitVec 26 :=
  0#15 ++ BitVec.ofBool mc ++ bsrc.code ++ bf ++ af

/-- The fields of an instruction's encoding, from the tables of the entries; a step of another agent
has none. -/
def Instr.enc : Instr → Option Enc
  | .nop c => some { op := 0, h := { chain := c, g := 0, neg := false }, d := 0, a := 0, b := 0, m := 0, e := 0, f := 0 }
  | .iadd h d a b => encVR 0x01 h d a b 0
  | .isub h d a b => encVR 0x02 h d a b 0
  | .imul h d a b => encVR 0x03 h d a b 0
  | .imulh h d a b m => encVR 0x04 h d a b m.code
  | .imad h d a b e => encX 0x05 h d a b 0 e 0
  | .imin h d a b sg => encVR 0x06 h d a b (bool2 sg)
  | .imax h d a b sg => encVR 0x07 h d a b (bool2 sg)
  | .iabs h d a => encVR 0x08 h d a 0 0
  | .ishl h d a b => encVR 0x09 h d a b 0
  | .ishr h d a b => encVR 0x0A h d a b 0
  | .isar h d a b => encVR 0x0B h d a b 0
  | .and h d a b => encVR 0x0C h d a b 0
  | .or h d a b => encVR 0x0D h d a b 0
  | .xor h d a b => encVR 0x0E h d a b 0
  | .andn h d a b => encVR 0x0F h d a b 0
  | .popc h d a => encVR 0x10 h d a 0 0
  | .clz h d a => encVR 0x11 h d a 0 0
  | .brev h d a => encVR 0x12 h d a 0 0
  | .bfx h d a pos len sg => encX 0x13 h d a 0 0 0 (0#14 ++ BitVec.ofBool sg ++ len ++ pos)
  | .bfi h d a b pos len => encX 0x14 h d a b 0 0 (0#15 ++ len ++ pos)
  | .lea h d a b sh => encX 0x15 h d a b 0 0 (0#21 ++ sh)
  | .sel h d a b pc => encX 0x16 h d a b 0 (p6 pc) 0
  | .icmp h d a b sg cond => encX 0x17 h (p6 d) a b 0 0 (cmpF sg cond)
  | .mov h d a => encVR 0x18 h d a 0 0
  | .movi h d i => encVI 0x19 h d 0 i
  | .limm h d i => encImm 0x1A h d 0 i
  | .plog h d a b m => encVR 0x1B h (p6 d) (p6 a) (p6 b) m
  | .vsrr h d sl => encVR 0x1C h d (selA sl) (selB sl) 0
  | .vsrw h d sl => encVR 0x1C h d (selA sl) (selB sl) 1
  | .dot4i h d a b e sa sb => encX 0x1D h d a b (BitVec.ofBool sa ++ BitVec.ofBool sb) e 0
  | .dot2h h d a b e rm f16 => encX 0x1E h d a b 0 e (rmF rm (bool2 f16))
  | .iaddi h d a i => encVI 0x1F h d a i
  | .fadd h d a b rm => encVR 0x20 h d a b rm
  | .fsub h d a b rm => encVR 0x21 h d a b rm
  | .fmul h d a b rm => encVR 0x22 h d a b rm
  | .ffma h d a b e rm np nc => encX 0x23 h d a b 0 e (rmF rm (BitVec.ofBool nc ++ BitVec.ofBool np))
  | .fmac h d a b rm => encVR 0x24 h d a b rm
  | .fmin h d a b => encVR 0x25 h d a b 0
  | .fmax h d a b => encVR 0x26 h d a b 0
  | .fsgn h d a m => encVR 0x27 h d a 0 m.code
  | .fcmp h d a b cond => encX 0x28 h (p6 d) a b 0 0 (0#23 ++ cond)
  | .fclass h d a mask => encX 0x29 h (p6 d) a 0 0 0 (0#16 ++ mask)
  | .frnd h d a rm => encVR 0x2A h d a 0 rm
  | .hadd2 h d a b f16 => encVR 0x2B h d a b (bool2 f16)
  | .hmul2 h d a b f16 => encVR 0x2C h d a b (bool2 f16)
  | .hfma2 h d a b e rm f16 => encX 0x2D h d a b 0 e (rmF rm (bool2 f16))
  | .hmin2 h d a b f16 => encVR 0x2E h d a b (bool2 f16)
  | .hmax2 h d a b f16 => encVR 0x2F h d a b (bool2 f16)
  | .cvt h d a src dst mode sat => encX 0x30 h d a 0 0 0 (0#14 ++ BitVec.ofBool sat ++ mode ++ dst ++ src)
  | .cvtp h d a b dst mode sat hi =>
      encX 0x31 h d a b 0 0 (0#13 ++ BitVec.ofBool hi ++ BitVec.ofBool sat ++ mode ++ 0#4 ++ dst)
  | .cvtu h d a src idx => encX 0x32 h d a 0 0 0 (0#19 ++ idx ++ src)
  | .rcp h d a => encVR 0x33 h d a 0 0
  | .rsq h d a => encVR 0x34 h d a 0 0
  | .sqrt h d a => encVR 0x35 h d a 0 0
  | .exp2 h d a => encVR 0x36 h d a 0 0
  | .log2 h d a => encVR 0x37 h d a 0 0
  | .sinp h d a => encVR 0x38 h d a 0 0
  | .cosp h d a => encVR 0x39 h d a 0 0
  | .tanh h d a => encVR 0x3A h d a 0 0
  | .qdec h d a b idx => encX 0x3B h d a b 0 0 (0#23 ++ idx)
  | .qenc h d a type q16 => encX 0x3C h d a 0 0 0 (0#22 ++ (if q16 then 2#2 else 1#2) ++ type)
  | .fscl h d a b rm => encVR 0x3D h d a b rm
  | .fmovi h d i => encVI 0x3E h d 0 i
  | .sadd c d a b => encVR 0x40 (uni c) d a b 0
  | .ssub c d a b => encVR 0x41 (uni c) d a b 0
  | .smul c d a b => encVR 0x42 (uni c) d a b 0
  | .smad c d a b e => encX 0x43 (uni c) d a b 0 e 0
  | .sshf c d a b m => encVR 0x44 (uni c) d a b m.code
  | .slog c d a b m => encVR 0x45 (uni c) d a b m
  | .sminmax c d a b m => encVR 0x46 (uni c) d a b m
  | .smov c d a => encVR 0x47 (uni c) d a 0 0
  | .smovi c d i => encVI 0x48 (uni c) d 0 i
  | .slimm c d hi i => encImm 0x49 (uni c) d (bool2 hi) i
  | .scmp c d a b sg cond => encX 0x4A (uni c) (p6 d) a b 0 0 (cmpF sg cond)
  | .slea c d a b sh disp => encX 0x4B (uni c) d a b 0 0 (disp ++ sh)
  | .srr c d sl => encX 0x4C (uni c) d 0 0 0 0 (0#14 ++ sl)
  | .srw c a sl => encX 0x4D (uni c) 0 a 0 0 0 (0#14 ++ sl)
  | .sld c d m => encMem 0x4E (uni c) d m
  | .sst c d m => encMem 0x4F (uni c) d m
  | .bra h o => encBR 0x50 h o
  | .bru h o => encBR 0x51 h o
  | .call h o => encBR 0x52 h o
  | .calli h a b ix => encVR 0x53 h 0 a b (bool2 ix)
  | .jmpi h a b ix => encVR 0x54 h 0 a b (bool2 ix)
  | .ret h => encVR 0x55 h 0 0 0 0
  | .reform h n m => encX 0x56 h 0 0 0 0 0 (n ++ m ++ 0#17)
  | .spawn h d o => encX 0x57 h (p6 d) 0 0 0 0 (0#6 ++ o)
  | .exit h => encVR 0x58 h 0 0 0 0
  | .yield h n m => encX 0x59 h 0 0 0 0 0 (n ++ m ++ 0#17)
  | .balw c a b o => encX 0x5A (uni c) 0 a b 0 0 (0#6 ++ o)
  | .shfl h d a b e seg edge ln mm imm im mode =>
      encX 0x5B h d a b 0 e (0#5 ++ seg ++ edge.code ++ BitVec.ofBool ln ++ BitVec.ofBool mm ++ imm ++ BitVec.ofBool im ++ mode.code)
  | .vote h d a e mode mm ln => encX 0x5C h d (p6 a) 0 0 e (0#22 ++ BitVec.ofBool ln ++ BitVec.ofBool mm ++ mode.code)
  | .redw h d a e op mm ln =>
      encX 0x5D h d a 0 0 e (mmF (0#17 ++ BitVec.ofBool ln ++ BitVec.ofBool mm ++ 0#1) op)
  | .scanw h d a b e op ex mm ln =>
      encX 0x5E h d a b 0 e (mmF (0#17 ++ BitVec.ofBool ln ++ BitVec.ofBool mm ++ BitVec.ofBool ex) op)
  | .elect h d => encVR 0x5F h (p6 d) 0 0 0
  | .rdlane h d a lane => encVR 0x5F h d a (0#1 ++ lane) 1
  | .bcast h d a lane => encVR 0x5F h d a (0#1 ++ lane) 2
  | .ld h d m => encMem 0x60 h d m
  | .st h d m => encMem 0x61 h d m
  | .ldf h d m => encMem 0x62 h d m
  | .stf h d m => encMem 0x63 h d m
  | .atom h d m => encMem 0x64 h d m
  | .red h d m => encMem 0x65 h d m
  | .redm h d m => encMem 0x66 h d m
  | .mst h d m => encMem 0x67 h d m
  | .lde h d m => encMem 0x68 h d m
  | .touch h m => encMem 0x69 h 0 m
  | .evict h m => encMem 0x6A h 0 m
  | .cpy c d a b e dsp ssp queue ck => encX 0x6B (uni c) d a b 0 e (dsp.code ++ ssp.code ++ queue ++ ck.code ++ 0#15)
  | .cpyt c d a b e str w queue ck box1 box0 =>
      encX 0x6C (uni c) d a b 0 e (BitVec.ofBool str ++ BitVec.ofBool w ++ 0#4 ++ queue ++ ck.code ++ box1 ++ box0)
  | .qfence c e queue ck mask => encX 0x6D (uni c) 0 0 0 0 e (0#6 ++ queue ++ ck.code ++ 0#7 ++ mask)
  | .ldt h d a sp pitch imm => encX 0x6E h (t6 d) a 0 0 0 (sp.code ++ pitch ++ imm)
  | .stt h d a pitch imm => encX 0x6F h (t6 d) a 0 0 0 (Space.a.code ++ pitch ++ imm)
  | .mma h d a b e mc bsrc bf af => encX 0x70 h (t6 d) (t6 a) b 0 e (mmaF mc bsrc bf af)
  | .mmaz h d a b e mc bsrc bf af => encX 0x71 h (t6 d) (t6 a) b 0 e (mmaF mc bsrc bf af)
  | .accrd h d a b cv => encVR 0x72 h d (t6 a) b (bool2 cv)
  | .accwr h d a b cv => encVR 0x73 h (t6 d) a b (bool2 cv)
  | .accld h d a imm => encX 0x74 h (t6 d) a 0 0 0 (accF imm)
  | .accst h d a imm => encX 0x75 h (t6 d) a 0 0 0 (accF imm)
  | .accz h d => encVR 0x76 h (t6 d) 0 0 0
  | .txp h d a b16 => encVR 0x77 h (t6 d) (t6 a) 0 (bool2 b16)
  | .fence h full scope cmask => encX 0x78 h 0 0 0 0 0 (bool2 full ++ scope ++ 0#13 ++ cmask)
  | .acq h d a imm => encX 0x79 h d a 0 0 0 (0#14 ++ imm)
  | .rel h a b scope add imm => encX 0x79 h 0 a b 1 0 (0#2 ++ scope ++ 0#7 ++ bool2 add ++ imm)
  | .bind c d a b entry => encX 0x79 (uni c) d a b 2 0 (0#20 ++ entry)
  | .bar h b id => enc7A h 0 0 b 0 0 id 0
  | .gbar h b id => enc7A h 0 0 b 1 0 (0#2 ++ id) 0
  | .barm c a b imm => enc7A (uni c) 0 a b 2 Space.a.code 0 imm
  | .bara c a b imm => enc7A (uni c) 0 a b 3 Space.a.code 0 imm
  | .barw c a b imm => enc7A (uni c) 0 a b 4 Space.a.code 0 imm
  | .bart c d a b imm => enc7A (uni c) (p6 d) a b 5 Space.a.code 0 imm
  | .waitc c a b inA imm => enc7A (uni c) 0 a b 6 (if inA then Space.a.code else Space.g.code) 0 imm
  | .pin c k a => encVR 0x7B (uni c) (p6 k) a 0 0
  | .unpin c k => encVR 0x7B (uni c) (p6 k) 0 0 1
  | .reclaim c d a => encVR 0x7B (uni c) d a 0 2
  | .reclaimd c d => encVR 0x7B (uni c) d 0 0 3
  | .coll c a => encVR 0x7C (uni c) 0 a 0 0
  | .collw c d a => encVR 0x7C (uni c) d a 0 1
  | .alw c d a => encVR 0x7C (uni c) d a 0 2
  | .trap h imm => encX 0x7D h 0 0 0 0 0 (0#10 ++ imm)
  | .rett c form => encX 0x7D (uni c) 0 0 0 1 0 (0#24 ++ form.code)
  | .brk h imm => encX 0x7D h 0 0 0 2 0 (0#10 ++ imm)
  | .preq c d => encX 0x7E (uni c) d 0 0 0 0 0
  | .pref h m => encMem 0x7E h 0 m
  | _ => none

/-- The instruction the fields stand for, by the opcode map of R84 and the entries. Fields that the
instruction does not use are checked afterwards. -/
def Enc.read (x : Enc) : Option Instr :=
  let h := x.h
  let c := x.h.chain
  let d := x.d
  let a := x.a
  let b := x.b
  let m := x.m
  let e := x.e
  let f := x.f
  let i8 := b ++ m
  let ofs : BitVec 20 := d ++ a ++ b ++ m
  let d3 := bits d 0 3
  let d2 := bits d 0 2
  let a2 := bits a 0 2
  let sel : BitVec 12 := a ++ b
  let m0 := bit m 0
  let imm12 := bits f 0 12
  match x.op.toNat with
  | 0x00 => some (.nop c)
  | 0x01 => some (.iadd h d a b)
  | 0x02 => some (.isub h d a b)
  | 0x03 => some (.imul h d a b)
  | 0x04 => (MulSign.ofCode m).map (.imulh h d a b ·)
  | 0x05 => some (.imad h d a b e)
  | 0x06 => some (.imin h d a b m0)
  | 0x07 => some (.imax h d a b m0)
  | 0x08 => some (.iabs h d a)
  | 0x09 => some (.ishl h d a b)
  | 0x0A => some (.ishr h d a b)
  | 0x0B => some (.isar h d a b)
  | 0x0C => some (.and h d a b)
  | 0x0D => some (.or h d a b)
  | 0x0E => some (.xor h d a b)
  | 0x0F => some (.andn h d a b)
  | 0x10 => some (.popc h d a)
  | 0x11 => some (.clz h d a)
  | 0x12 => some (.brev h d a)
  | 0x13 => some (.bfx h d a (bits f 0 5) (bits f 5 6) (bit f 11))
  | 0x14 => some (.bfi h d a b (bits f 0 5) (bits f 5 6))
  | 0x15 => some (.lea h d a b (bits f 0 5))
  | 0x16 => some (.sel h d a b (bits e 0 3))
  | 0x17 => (Cmp.ofCode (bits f 0 3)).map (.icmp h d3 a b (bit f 3) ·)
  | 0x18 => some (.mov h d a)
  | 0x19 => some (.movi h d i8)
  | 0x1A => some (.limm h d (e ++ f))
  | 0x1B => some (.plog h d3 (bits a 0 3) (bits b 0 3) m)
  | 0x1C => if m == 0#2 then some (.vsrr h d sel) else if m == 1#2 then some (.vsrw h d sel) else none
  | 0x1D => some (.dot4i h d a b e (bit m 1) (bit m 0))
  | 0x1E => some (.dot2h h d a b e (bits f 0 2) (bit f 3))
  | 0x1F => some (.iaddi h d a i8)
  | 0x20 => some (.fadd h d a b m)
  | 0x21 => some (.fsub h d a b m)
  | 0x22 => some (.fmul h d a b m)
  | 0x23 => some (.ffma h d a b e (bits f 0 2) (bit f 3) (bit f 4))
  | 0x24 => some (.fmac h d a b m)
  | 0x25 => some (.fmin h d a b)
  | 0x26 => some (.fmax h d a b)
  | 0x27 => (SgnOp.ofCode m).map (.fsgn h d a ·)
  | 0x28 => some (.fcmp h d3 a b (bits f 0 3))
  | 0x29 => some (.fclass h d3 a (bits f 0 10))
  | 0x2A => some (.frnd h d a m)
  | 0x2B => some (.hadd2 h d a b m0)
  | 0x2C => some (.hmul2 h d a b m0)
  | 0x2D => some (.hfma2 h d a b e (bits f 0 2) (bit f 3))
  | 0x2E => some (.hmin2 h d a b m0)
  | 0x2F => some (.hmax2 h d a b m0)
  | 0x30 => some (.cvt h d a (bits f 0 4) (bits f 4 4) (bits f 8 3) (bit f 11))
  | 0x31 => some (.cvtp h d a b (bits f 0 4) (bits f 8 3) (bit f 11) (bit f 12))
  | 0x32 => some (.cvtu h d a (bits f 0 4) (bits f 4 3))
  | 0x33 => some (.rcp h d a)
  | 0x34 => some (.rsq h d a)
  | 0x35 => some (.sqrt h d a)
  | 0x36 => some (.exp2 h d a)
  | 0x37 => some (.log2 h d a)
  | 0x38 => some (.sinp h d a)
  | 0x39 => some (.cosp h d a)
  | 0x3A => some (.tanh h d a)
  | 0x3B => some (.qdec h d a b (bits f 0 3))
  | 0x3C =>
      if bits f 2 2 == 1#2 then some (.qenc h d a (bits f 0 2) false)
      else if bits f 2 2 == 2#2 then some (.qenc h d a (bits f 0 2) true) else none
  | 0x3D => some (.fscl h d a b m)
  | 0x3E => some (.fmovi h d i8)
  | 0x40 => some (.sadd c d a b)
  | 0x41 => some (.ssub c d a b)
  | 0x42 => some (.smul c d a b)
  | 0x43 => some (.smad c d a b e)
  | 0x44 => (ShfOp.ofCode m).map (.sshf c d a b ·)
  | 0x45 => some (.slog c d a b m)
  | 0x46 => some (.sminmax c d a b m)
  | 0x47 => some (.smov c d a)
  | 0x48 => some (.smovi c d i8)
  | 0x49 => some (.slimm c d m0 (e ++ f))
  | 0x4A => (Cmp.ofCode (bits f 0 3)).map (.scmp c d3 a b (bit f 3) ·)
  | 0x4B => some (.slea c d a b (bits f 0 6) (bits f 6 20))
  | 0x4C => some (.srr c d imm12)
  | 0x4D => some (.srw c a imm12)
  | 0x4E => some (.sld c d x.mem)
  | 0x4F => some (.sst c d x.mem)
  | 0x50 => some (.bra h ofs)
  | 0x51 => some (.bru h ofs)
  | 0x52 => some (.call h ofs)
  | 0x53 => some (.calli h a b m0)
  | 0x54 => some (.jmpi h a b m0)
  | 0x55 => some (.ret h)
  | 0x56 => some (.reform h (bits f 21 5) (bits f 17 4))
  | 0x57 => some (.spawn h d3 (bits f 0 20))
  | 0x58 => some (.exit h)
  | 0x59 => some (.yield h (bits f 21 5) (bits f 17 4))
  | 0x5A => some (.balw c a b (bits f 0 20))
  | 0x5B =>
      match Edge.ofCode (bits f 16 2), ShflMode.ofCode (bits f 0 3) with
      | some edge, some mode =>
          some (.shfl h d a b e (bits f 18 3) edge (bit f 15) (bit f 14) (bits f 4 10) (bit f 3) mode)
      | _, _ => none
  | 0x5C => some (.vote h d (bits a 0 3) e (VoteMode.ofCode (bits f 0 2)) (bit f 2) (bit f 3))
  | 0x5D => (RedOp.ofCode (bits f 0 4)).map (.redw h d a e · (bit f 5) (bit f 6))
  | 0x5E => (RedOp.ofCode (bits f 0 4)).map (.scanw h d a b e · (bit f 4) (bit f 5) (bit f 6))
  | 0x5F =>
      if m == 0#2 then some (.elect h d3) else if m == 1#2 then some (.rdlane h d a (bits b 0 5))
      else if m == 2#2 then some (.bcast h d a (bits b 0 5)) else none
  | 0x60 => some (.ld h d x.mem)
  | 0x61 => some (.st h d x.mem)
  | 0x62 => some (.ldf h d x.mem)
  | 0x63 => some (.stf h d x.mem)
  | 0x64 => some (.atom h d x.mem)
  | 0x65 => some (.red h d x.mem)
  | 0x66 => some (.redm h d x.mem)
  | 0x67 => some (.mst h d x.mem)
  | 0x68 => some (.lde h d x.mem)
  | 0x69 => some (.touch h x.mem)
  | 0x6A => some (.evict h x.mem)
  | 0x6B =>
      some (.cpy c d a b e (Space.ofCode (bits f 23 3)) (Space.ofCode (bits f 20 3)) (bits f 17 3) (Ck.ofCode (bits f 15 2)))
  | 0x6C =>
      some (.cpyt c d a b e (bit f 25) (bit f 24) (bits f 17 3) (Ck.ofCode (bits f 15 2)) (bits f 10 5) (bits f 0 10))
  | 0x6D => some (.qfence c e (bits f 17 3) (Ck.ofCode (bits f 15 2)) (bits f 0 8))
  | 0x6E => some (.ldt h d2 a (Space.ofCode (bits f 23 3)) (bits f 12 11) imm12)
  | 0x6F => some (.stt h d2 a (bits f 12 11) imm12)
  | 0x70 => some (.mma h d2 a2 b e (bit f 10) (BSrc.ofCode (bits f 8 2)) (bits f 4 4) (bits f 0 4))
  | 0x71 => some (.mmaz h d2 a2 b e (bit f 10) (BSrc.ofCode (bits f 8 2)) (bits f 4 4) (bits f 0 4))
  | 0x72 => some (.accrd h d a2 b m0)
  | 0x73 => some (.accwr h d2 a b m0)
  | 0x74 => some (.accld h d2 a imm12)
  | 0x75 => some (.accst h d2 a imm12)
  | 0x76 => some (.accz h d2)
  | 0x77 => some (.txp h d2 a2 m0)
  | 0x78 => some (.fence h (bit f 24) (bits f 21 3) (bits f 0 8))
  | 0x79 =>
      if m == 0#2 then some (.acq h d a imm12)
      else if m == 1#2 then some (.rel h a b (bits f 21 3) (bit f 12) imm12)
      else if m == 2#2 then some (.bind c d a b (bits f 0 6)) else none
  | 0x7A =>
      match (bits f 23 3).toNat with
      | 0 => some (.bar h b (bits f 16 4))
      | 1 => some (.gbar h b (bits f 16 2))
      | 2 => some (.barm c a b imm12)
      | 3 => some (.bara c a b imm12)
      | 4 => some (.barw c a b imm12)
      | 5 => some (.bart c d3 a b imm12)
      | 6 => some (.waitc c a b (bit f 20) imm12)
      | _ => none
  | 0x7B =>
      match m.toNat with
      | 0 => some (.pin c d3 a)
      | 1 => some (.unpin c d3)
      | 2 => some (.reclaim c d a)
      | _ => some (.reclaimd c d)
  | 0x7C =>
      if m == 0#2 then some (.coll c a) else if m == 1#2 then some (.collw c d a)
      else if m == 2#2 then some (.alw c d a) else none
  | 0x7D =>
      if m == 0#2 then some (.trap h (bits f 0 16))
      else if m == 1#2 then (RettForm.ofCode (bits f 0 2)).map (.rett c ·)
      else if m == 2#2 then some (.brk h (bits f 0 16)) else none
  | 0x7E => if m == 0#2 then some (.preq c d) else if m == 1#2 then some (.pref h x.mem) else none
  | _ => none

/-- R85: the reading must be well-formed and leave no bit of the words unexplained. -/
def Enc.decode (x : Enc) : Except DecodeError Instr :=
  if x.op == 0x3F#7 || x.op == 0x7F#7 then .error .reservedOpcode
  else
    match x.read with
    | none => .error .reservedCode
    | some i => if !i.wf then .error .illFormed else if i.enc != some x then .error .unusedField else .ok i

/-- Decode a base word and the word after it. -/
def decodeWords (w e : Word) : Except DecodeError Instr := (Enc.ofWords w e).decode

/-- Decode the base word in slot `k` of a packet (R77). -/
def decodeSlot (packet : Vector Word 3) (k : Nat) : Except DecodeError Instr :=
  let w := packet.toList.getD k 0
  if isX (bits w 24 7) && 2 ≤ k then .error .extensionPastPacket else decodeWords w (packet.toList.getD (k + 1) 0)

/-- The slots of a packet that hold base words (R73, R77). -/
def boundarySlots (packet : Vector Word 3) : List Nat :=
  let x := fun k => isX (bits (packet.toList.getD k 0) 24 7)
  if x 0 then [0, 2] else if x 1 then [0, 1] else [0, 1, 2]

/-- The words of an instruction. -/
def Instr.encode (i : Instr) : List Word :=
  match i.enc with
  | some x => x.words
  | none => []

/-- The number of words of a fetched instruction. -/
def Instr.size (i : Instr) : Nat := i.encode.length

/-- The packet that holds the words of an instruction from slot 0 on, the rest NOP. -/
def packetOf (ws : List Word) : Vector Word 3 := #v[ws.getD 0 0, ws.getD 1 0, ws.getD 2 0]

/-- The instruction that the decoder reads from an instruction whose bits are `w`, bit 0 the least
significant bit of the first word; every bit above `nbits` is 0. -/
def decodeTableWord (nbits w : Nat) : Option Instr :=
  let v := w % 2 ^ nbits
  match decodeSlot (packetOf [BitVec.ofNat 32 v, BitVec.ofNat 32 (v / 2 ^ 32)]) 0 with
  | .ok i => some i
  | .error _ => none

end Sys2Proof
end

