-- ==== Sys2Proof/Machine/State.lean ====
section
/-! DEFINITION. The state of one FZ960 device: every register, buffer, queue and table the manual
names, as plain data, and its value after reset. Numbers the model gives to fragments, warps, blocks,
pans and grids are names only; no program sees them. -/

namespace Sys2Proof.Machine

open Sys2Proof

/-- Why a run stops. -/
inductive Fault where
  /-- Raised by the meaning of a fetched instruction when no fragment issues it. `step` always names the
  fragment first, so no run raises it. Safe: the hardware has no such case. -/
  | noFragment
deriving DecidableEq, Repr

/-- Why an instruction has no meaning. -/
inductive Refusal where
  /-- Raised by an arm of `exec` whose instruction the model does not cover. Safe. -/
  | notModelled (mnemonic : String)
deriving DecidableEq, Repr

/-! ## Memory -/

/-- Bytes by address, addresses strictly rising, no entry equal to 0, which every unlisted address
reads as (log 2). -/
abbrev Memory := List Host.Cell

/-! ## Traps and parks (18 R323 to R325, 06 R112) -/

/-- The trap causes of R323. -/
inductive Cause where
  | illegalOp | illegalChain | privilege | nonuniform | memberAbsent | uniformMismatch | retstack
  | fpInvalid | fpDivzero | fpOverflow | fpUnderflow | fpInexact | misaligned | noMapping | permission
  | shardLost | rangeBusy | countRange | keyRefused | fabricDelivery | bufferBounds | emptyTimeout
  | breakpoint | step | software | collMismatch | poison | doubleTrap
deriving DecidableEq, Repr

/-- What a trap writes into %tcause, %tmask, %taddr and %tinfo. -/
structure TrapInfo where
  cause : Cause
  lanes : Mask
  addr : DWord
  info : DWord
deriving DecidableEq, Repr

/-- The park reasons of R112. -/
inductive Park where
  | remoteReply | allowance | fullEmpty | barrier | page | pan | reclaim
deriving DecidableEq, Repr

/-- Whether a fragment is a candidate. -/
inductive Run where
  | ready
  /-- Parked since the given cycle. -/
  | parked (why : Park) (since : Nat)
  /-- Waits at trap entry (R326). -/
  | atEntry (t : TrapInfo)
  /-- Held by a debug stop (R340). -/
  | stopped
deriving DecidableEq, Repr

/-! ## Where a byte lies -/

/-- The storage of a core that a block's quota names. -/
inductive Buf where
  | a | w | c
deriving DecidableEq, Repr

/-- Where the bytes of one access lie, after the checks of R191. -/
inductive Place where
  /-- Local HBM, by physical address. -/
  | hbm (addr : Nat)
  /-- The full frame of a sharded page, by job, page VA and offset. -/
  | frame (job : BitVec 16) (page : DWord) (off : Nat)
  /-- The HBM of another device of the domain. -/
  | far (dev : BitVec 11) (addr : Nat)
  /-- A block's own buffer. -/
  | buf (block : Nat) (b : Buf) (addr : Nat)
  /-- A lane's L window. -/
  | lwin (warp : Nat) (lane : Nat) (addr : Nat)
  /-- A multicast copy at the member of the given rank and device (R229). -/
  | member (sgid : BitVec 12) (rank : Nat) (dev : BitVec 11) (va : DWord)
deriving DecidableEq, Repr

/-- A sync object: the place of its 64-bit word. -/
abbrev SyncId := Place

/-! ## Store buffers (12 R249 to R255) -/

/-- One access of a store: a lane's share, or that of a whole fragment (SST), which is a store of every thread named. -/
structure Piece where
  threads : List Nat
  va : DWord
  place : Place
  bytes : List Byte
  /-- The sync object the bytes were bound to when the store retired (R260). -/
  sync : Option DWord
deriving DecidableEq, Repr

/-- An entry of a fragment or block store buffer. -/
structure Entry where
  id : Nat
  /-- The order of retirement: parts into which a fence cuts an entry keep it. -/
  age : Nat
  frags : List Nat
  /-- The warp that made it. -/
  warp : Nat
  colour : BitVec 3
  pieces : List Piece
  draining : Bool
  /-- Set the full bits of the granules written (STF, R177). -/
  setFull : Bool
  /-- Its bound stores have joined the published set of their sync object (R261, R264). -/
  published : Bool
deriving DecidableEq, Repr

/-- A remote store that failed or was sent and has no answer yet (R259). -/
structure Delivery where
  tag : BitVec 12
  block : Nat
  warp : Nat
  threads : List Nat
  colour : BitVec 3
  va : DWord
  /-- The member's rank, for a multicast copy. -/
  rank : Option Nat
  sent : Nat
  failed : Bool
  /-- The widest fence scope that covers it: its own for a RED (R256), .sys for the others. -/
  scope : BitVec 3
  /-- The narrowest fence scope that covers it: .thr for a RED, .dom for the others (R256). -/
  least : BitVec 3
  /-- The sync objects to which its bytes are bound (R261). -/
  syncs : List DWord
  /-- The age of the block store buffer's entry that it was. -/
  entry : Option Nat
deriving DecidableEq, Repr

/-- A store to a byte in a bound region that some reader may not see (R260 to R263). -/
structure HistStore where
  serial : Nat
  value : Byte
  block : Nat
  sync : DWord
  job : BitVec 16
  /-- The RELs that published it: the releases of the sync object counted then, and the scope (R272). -/
  tags : List (Nat × BitVec 3)
  threads : List Nat
deriving DecidableEq, Repr

/-- The coherence order of a byte from the last store that every reader sees. -/
structure History where
  place : Place
  base : Byte
  stores : List HistStore
deriving DecidableEq, Repr

/-- A REDM that is on its way to its home (R197, R254). -/
structure Redm where
  id : Nat
  block : Nat
  threads : List Nat
  colour : BitVec 3
  place : Place
  aop : BitVec 4
  word : Word
  /-- The threads of its fragment, which do not see it until a FENCE .full has covered it. -/
  readers : List Nat
deriving DecidableEq, Repr

/-- What has been done to a word since the oldest REDM that some fragment does not see yet (R254). -/
inductive WordOp where
  | redm (x : Redm)
  | put (offset : Nat) (b : Byte)
deriving DecidableEq, Repr

/-- A word of this device with a REDM that no FENCE .full of its fragment has covered: its bytes from before that, and
what has been done to it since, oldest first (R254). -/
structure Hidden where
  place : Place
  base : List Byte
  ops : List WordOp
deriving DecidableEq, Repr

/-- Bytes that a thread has read early, for loads it has not yet come to (R103, R252): each with the serial of the
bound store it came from. -/
structure Early where
  thread : Nat
  place : Place
  bytes : List (Byte × Nat)
deriving DecidableEq, Repr

/-- A region binding (R274). -/
structure Binding where
  entry : Nat
  base : DWord
  length : Nat
  sync : DWord
deriving DecidableEq, Repr

/-! ## Threads, fragments, warps -/

/-- What belongs to a thread and travels with it (R65, R96, R106, R152). -/
structure Thread where
  serial : Nat
  tid : Nat
  vtid : Word
  xen : Word
  tsub : Word
  tlsbase : DWord
  depth : Nat
  /-- The newest entries of the return stack, at most eight, newest first. -/
  stack : List DWord
  /-- Releases of sync objects that this thread has acquired (R262). -/
  acquired : List (BitVec 16 × DWord × Nat)
  /-- The serial of the newest bound store each byte has shown this thread (R253). -/
  seen : List (Place × Nat)
deriving DecidableEq, Repr

/-- A reply kept by the fragment that waits for it (R112, R298). -/
structure Reply where
  dev : BitVec 11
  addr : Nat
  lane : Nat
  status : BitVec 8
  bytes : List Byte
deriving DecidableEq, Repr

/-- Thread barriers (R277). -/
inductive BarKey where
  | bar (id : Nat)
  | gbar (id : Nat)
deriving DecidableEq, Repr

/-- A warp fragment with its own view of the registers (R99, R100). -/
structure Frag where
  id : Nat
  warp : Nat
  pc : DWord
  mask : Mask
  v : Vector (Lanes Word) 64
  u : Vector DWord 64
  p : Vector Mask 7
  t : Vector (Lanes (BitVec 512)) 4
  acc : Vector (Lanes (Lanes Word)) 4
  fflags : BitVec 6
  mflags : BitVec 6
  run : Run
  handler : Bool
  isSplit : Bool
  splitFrom : BitVec 5
  /-- The cycle of the last dispatch, from which the age of R111 counts. -/
  dispatched : Nat
  /-- The lanes that RETT .subst supplies at the reissue (R330). -/
  subst : Option Mask
  /-- The barrier this fragment has arrived at and not yet passed (R277). -/
  arrived : Option BarKey
  replies : List Reply
  /-- Own buffered bytes of the remote lines asked for, as they stood when the READ was sent (R253). -/
  kept : List (Place × Byte)
  /-- The REL whose write has been sent and not yet acknowledged (R334). -/
  relSent : Bool
  /-- The flits that its REL has paid for the write it has yet to send (R299). -/
  relPaid : List (BitVec 11 × Nat)
  /-- Cycles that its LDF has waited for full granules before the present wait (R179). -/
  emptyWait : Nat
deriving DecidableEq, Repr

/-- The trap frame (R324). -/
structure TrapFrame where
  tpc : DWord
  tcause : DWord
  tmask : DWord
  taddr : DWord
  tinfo : DWord
  tparent : DWord
  tsib : DWord
deriving DecidableEq, Repr

/-- A warp (R94, R96). -/
structure Warp where
  id : Nat
  block : Nat
  /-- %warp: partition × 8 + context. -/
  ctx : BitVec 5
  threads : Lanes (Option Thread)
  tvec : DWord
  frame : TrapFrame
  dctl : BitVec 3
  mstfail : DWord
  /-- Bits of it that a failure has set, and the cycle in which it did (R148). -/
  mstNew : DWord × Nat
  pins : Vector DWord 8
  /-- What a k register reads as that a yielded warp has not written yet: free, and published on no board (R109). -/
  raw : Vector DWord 8
  /-- The L windows, the byte `a` of lane `l` at `2048 × l + a`. -/
  lwin : Memory
deriving DecidableEq, Repr

/-! ## Pans (06 R106) -/

structure Filed where
  thread : Thread
  v : List Word
  p : BitVec 7
  /-- Filed by SPAWN: its other registers hold the values of R36 (R68). -/
  fresh : Bool
deriving DecidableEq, Repr

structure Pan where
  id : Nat
  block : Nat
  key : DWord
  n : Nat
  m : Nat
  u : List DWord
  tvec : DWord
  timer : Nat
  opened : Nat
  expired : Bool
  fflags : BitVec 6
  mflags : BitVec 6
  threads : List Filed
deriving DecidableEq, Repr

/-! ## Engines (11 R233 to R239) -/

/-- A completion (R234): the byte barrier or counter that is told. -/
inductive Done where
  | none
  | bar (addr : Nat)
  | cnt (place : Place)
  | cnta (addr : Nat)
deriving DecidableEq, Repr

/-- A contiguous run of bytes of an engine operation, within one page or buffer. -/
structure Span where
  place : Place
  len : Nat
  /-- The FMT tag the bytes carry (R175). -/
  tag : BitVec 6
  /-- The VA of the first byte, for g. -/
  va : DWord
  /-- A source in w, whose tag is that of the segment when it is read. -/
  inW : Bool
deriving DecidableEq, Repr

/-- What an engine operation moves: a source and a destination of equal length for CPY; for CPYT rows
with zeros where the source has none. -/
structure Move where
  /-- `none` is a zero fill. -/
  src : Option Span
  dst : Option Span
  len : Nat
deriving DecidableEq, Repr

structure EngOp where
  id : Nat
  warp : Nat
  /-- The issuing fragment's stores that are older and overlap must be performed first (R265). -/
  frag : Nat
  after : Nat
  moves : List Move
  /-- AES-256-XTS key handle, 0 for none, and whether data is decrypted on its way (R198). -/
  key : BitVec 16
  decrypt : Bool
  /-- Set the FMT tag of written W segments to this (CPYT), or by the sources (CPY). -/
  segTag : Option (BitVec 6)
  fence : Option (BitVec 8)
  done : Done
  barBytes : Nat
  /-- The queue entries a QFENCE waits for, by operation number. -/
  waits : List Nat
  /-- Its remote reads are sent. -/
  started : Bool
  /-- Its writes are performed or sent. -/
  wrote : Bool
  /-- Bytes of remote sources, by device × 2^52 + address. -/
  fetched : List (Nat × List Byte)
  outstanding : Nat
deriving DecidableEq, Repr

/-! ## Blocks, gangs, grids (03, 04) -/

/-- The fields of a kernel object header (R34) that a block keeps. -/
structure Kernel where
  va : DWord
  npkt : Nat
  tvec : Word
  vreg : Nat
  sreg : Nat
  treg : Nat
  areg : Nat
deriving DecidableEq, Repr

/-- The effective quotas of R47: A and C in 4 KiB units, W in segments, L in bytes. -/
structure Quota where
  qa : Nat
  qc : Nat
  ql : Nat
  qw : Nat
  qpan : Nat
  qthr : Nat
deriving DecidableEq, Repr

/-- A barrier phase: arrivals, and the count of its first arrival, 0 for live threads (R277). -/
structure Phase where
  arrivals : Nat
  n : Nat
deriving DecidableEq, Repr

/-- A segment of W: its FMT tag (BG and FMT) and the key handle it is sealed under (R175, R176). -/
structure Segment where
  tag : BitVec 6
  sealedBy : Option (BitVec 16)
deriving DecidableEq, Repr

/-- Where a block stands in its life. -/
inductive BlockRun where
  | placed
  /-- Every warp has ended; the steps of R346 go on. -/
  | ending
  | saved
deriving DecidableEq, Repr

structure Block where
  id : Nat
  /-- The cause of a kill (R350). -/
  killed : Option (BitVec 8)
  grid : Nat
  index : Nat
  gang : Nat
  /-- The core, 192 while the block is saved. -/
  core : Nat
  run : BlockRun
  kernel : Kernel
  quota : Quota
  a : Memory
  w : Memory
  c : Memory
  /-- Full granules of A and W, ascending (R177). -/
  fullA : List Nat
  fullW : List Nat
  segs : List Segment
  /-- 64-byte lines of A, W and C written with poisoned data (R355). -/
  poison : List (Buf × Nat)
  bars : Vector Phase 16
  binds : List Binding
  queues : Vector (List EngOp) 8
  fsb : List Entry
  bsb : List Entry
  /-- Stores in cw and ca that are released and on their way to their target cores (R252). -/
  wire : List Entry
  pantimer : BitVec 16
  /-- The cycle at which %preq was set (R331) and the resident cycles counted before. -/
  preq : Option Nat
  pdl : Nat
  /-- A forced save has begun: nothing of the block is dispatched (R334). -/
  saving : Bool
  /-- A resume has begun: pins and pans come back once the job's deferred fills are done (R335). -/
  restoring : Bool
  /-- The VA of the save area of the last save (R336). -/
  area : DWord
  areaLen : Nat
  clean : Bool
  relaunches : Nat
  placedAt : Nat
  /-- The warp contexts reserved (R58), by %warp, and those of the shadow warps. -/
  slots : List (BitVec 5)
  shadows : List (BitVec 5)
deriving DecidableEq, Repr

structure Gang where
  grid : Nat
  number : Nat
  phases : Vector Phase 4
deriving DecidableEq, Repr

/-- The launch record of R46 with the defaults of R47 not yet applied. -/
structure Launch where
  kva : DWord
  gx : Nat
  gy : Nat
  gz : Nat
  bx : Nat
  byy : Nat
  bz : Nat
  gang : Nat
  prio : Nat
  shadow : Bool
  pva : DWord
  cva : DWord
  deps : List DWord
  tlsva : DWord
  tlsb : Nat
  maxb : Nat
deriving DecidableEq, Repr

/-- Completion status of R55. -/
inductive GridEnd where
  | success | killed | rejected | depFailed | aborted
deriving DecidableEq, Repr

inductive GridRun where
  | held
  | released
deriving DecidableEq, Repr

structure Grid where
  key : Nat
  gid : GridId
  /-- Accepted before the last reset of its queue (R374). -/
  detached : Bool
  job : BitVec 16
  launch : Launch
  kernel : Kernel
  quota : Quota
  run : GridRun
  /-- Order of release (R52). -/
  order : Nat
  /-- The blocks or gangs from this index on are not yet placed. -/
  nextUnit : Nat
  /-- Blocks rolled back and not yet placed again. -/
  again : List (Nat × Nat × Option Nat)
  nkill : Nat
  fblk : Nat
  cause : BitVec 8
  nrelaunch : Nat
  tstart : Nat
  tend : Nat
  aborted : Bool
deriving DecidableEq, Repr

/-- A completion record on another device whose writes are not answered yet (R55). -/
structure RecordWrite where
  id : Nat
  queue : BitVec 12
  seq : Nat
  ok : Bool
  /-- Its queue has been reset since (R374). -/
  detached : Bool
  job : BitVec 16
  place : Place
  /-- SEQ has been sent; before that, the rest. -/
  seqSent : Bool
  left : Nat
deriving DecidableEq, Repr

/-- A gang hold (R63). -/
structure Hold where
  grid : Nat
  gang : Nat
  cluster : Nat
  prio : Nat
deriving DecidableEq, Repr

/-- The first unplaced gang of a priority class, and since when it is that (R63). -/
structure FirstGang where
  prio : Nat
  grid : Nat
  gang : Nat
  since : Nat
deriving DecidableEq, Repr

/-! ## Queues, jobs, groups -/

inductive QueueStatus where
  | running | error | faulted
deriving DecidableEq, Repr

/-- A host work queue: configuration, control block, ring (R40, R41). -/
structure Queue where
  num : BitVec 12
  size : Nat
  job : BitVec 16
  preempt : Bool
  pdl : Nat
  enable : Bool
  tail : Nat
  head : Nat
  retired : Nat
  errseq : Nat
  status : QueueStatus
  ring : List (Nat × BitVec 2048)
  /-- Sequence numbers above RETIRED whose completion records are written. -/
  doneSeqs : List Nat
deriving DecidableEq, Repr

structure Job where
  num : BitVec 16
  root : Nat
  key : BitVec 32
  swapped : Bool
  keys : List (BitVec 16 × BitVec 512)
  bittern : List DWord
  /-- Deferred fills (R214). -/
  deferred : List DWord
  saveArea : Option (DWord × DWord)
deriving DecidableEq, Repr

/-- A valid entry of the group table (R200). -/
structure Group where
  sgid : BitVec 12
  flags : BitVec 8
  n : Nat
  rank : Nat
  job : BitVec 16
  tmo : Nat
  members : List (BitVec 16)
deriving DecidableEq, Repr

/-! ## Translation and sharded pages (09, 10) -/

/-- The group under which the shard frame of a page was laid out when its leaf was installed (R201, R202). The model's own
record: values of a page laid out under another group are undefined. -/
structure Laid where
  job : BitVec 16
  page : DWord
  group : Group
deriving DecidableEq, Repr

/-- A translation that a core's L1 TLB or a cluster's L2 TLB holds (R188). -/
structure Translation where
  holder : Nat
  job : BitVec 16
  page : DWord
deriving DecidableEq, Repr

/-- A walk that is under way, with the cores whose accesses wait for it (R188, R189). -/
structure Walk where
  job : BitVec 16
  page : DWord
  cores : List Nat
deriving DecidableEq, Repr

/-- The full frame of a GATHERING, GATHERED or PARTIAL page (R203). -/
structure FullFrame where
  job : BitVec 16
  page : DWord
  size : Nat
  mem : Memory
  poison : List Nat
  /-- Its frames count against those of the device (R206). -/
  charged : Bool
deriving DecidableEq, Repr

inductive OpKind where
  | gather | drain | fill
deriving DecidableEq, Repr

/-- An entry of the transition table (R211): one open operation on a page. -/
structure Transition where
  job : BitVec 16
  page : DWord
  kind : OpKind
  gen : BitVec 16
  opn : BitVec 16
  /-- This device coordinates the operation. -/
  coordinator : Bool
  /-- The GREQ or DREQ was sent and the operation has not begun. -/
  requested : Bool
  /-- Ranks whose GDONE or DDONE the coordinator has. -/
  dones : List Nat
  sentDone : Bool
  /-- Foreign granules landed, as counts by rank. -/
  got : List (Nat × Nat)
  /-- The first granules of the messages acted on (R212). -/
  seen : List Nat
  /-- Own granules whose drain sums are written. -/
  written : List Nat
  /-- When each awaited rank was heard last, in nanoseconds. -/
  heard : List (Nat × Nat)
deriving DecidableEq, Repr

/-! ## Collectives (14 R302 to R311) -/

/-- The fields of a parameter block (R302). -/
structure CollParams where
  op : BitVec 8
  dtype : BitVec 8
  rop : BitVec 8
  innet : Bool
  bar : Bool
  sgid : BitVec 12
  root : Nat
  barspan : Nat
  count : Nat
  src : DWord
  dst : DWord
  chunk : Nat
  barblk : Nat
  baroff : Nat
  crva : DWord
  digest : DWord
deriving DecidableEq, Repr

structure Coll where
  sgid : BitVec 12
  pair : Nat
  job : BitVec 16
  block : Nat
  grid : Nat
  gang : Nat
  n : Nat
  rank : Nat
  par : CollParams
  src : List Span
  dst : List Span
  record : Place
  /-- Ranks whose tuples arrived equal, and whose differ. -/
  equal : List Nat
  differ : List Nat
  /-- The stores of the block, by age, that must be performed before a source byte is read (R308). -/
  older : List Nat
  started : Bool
  /-- The source bytes, read when the member starts. -/
  data : List Byte
  /-- Bytes of sources on other devices that have come, and the reads still out, once they were sent. -/
  fetched : List (Nat × List Byte)
  reading : Option Nat
  /-- The landing that waits to be performed on another device: its chunk, its bytes, and the writes still out. -/
  landing : Option (Nat × Nat × Nat)
  /-- Another device has refused such a read or write. -/
  refused : Bool
  /-- The STATUS and FAILED with which it ends, once the writes of a landing on another device that are out are over (R307). -/
  closing : Option (Nat × DWord)
  /-- Steps that arrived and are not yet taken. -/
  inbox : List CStep
  /-- Results that arrived or were formed, waiting for their turn to land: chunk, bytes, flags. -/
  ready : List (Nat × List Byte × BitVec 5)
  /-- Bytes of a chunk received so far: chunk, bytes received, the bytes by offset, flags. -/
  partials : List (Nat × Nat × List Byte × BitVec 5)
  /-- Chunk steps received whole, by chunk and STYPE. -/
  got : List (Nat × BitVec 8)
  landed : Nat
  flags : BitVec 5
  /-- The t0 of a TIDE message that came before the own record was written (R365). -/
  tide : Option Nat
  /-- When each rank was heard last, in nanoseconds. -/
  heard : List (Nat × Nat)
  retiredAt : Nat
deriving DecidableEq, Repr

/-- A tuple or step that arrived before the COLL of its pairing index. -/
inductive EarlyColl where
  | tuple (sgid : BitVec 12) (pair : Nat) (rank : Nat) (t : CTuple)
  | step (m : CStep)
deriving DecidableEq, Repr

/-- A range held on the device (R305, R216). -/
structure Range where
  job : BitVec 16
  base : DWord
  len : Nat
  /-- `none` is a page entry of a drain. -/
  coll : Option (BitVec 12 × Nat)
  spans : List Span
deriving DecidableEq, Repr

/-! ## Fabric (14) -/

/-- What an outstanding request is for. -/
inductive Purpose where
  | load (frag : Nat)
  | atomic (frag : Nat) (lane : Nat)
  | engine (block : Nat) (queue : Nat) (op : Nat)
  | posted
  | coll (sgid : BitVec 12) (pair : Nat)
  /-- A source or a landing of a collective on another device. -/
  | collRead (sgid : BitVec 12) (pair : Nat)
  | collWrite (sgid : BitVec 12) (pair : Nat)
  /-- A part of a completion record (R55). -/
  | record (id : Nat)
deriving DecidableEq, Repr

structure Request where
  tag : BitVec 12
  dst : BitVec 11
  addr : Nat
  /-- The 64-byte lines that a READ asks for (R291). -/
  lines : BitVec 4
  purpose : Purpose
  sent : Nat
deriving DecidableEq, Repr

/-- REQ flits of a packet on its way, until the destination returns them (R297, R299). -/
structure Flight where
  flits : Nat
  /-- Sent by an engine, whose flits the program's register does not count. -/
  engine : Bool
  /-- Sent before the last route table. -/
  old : Bool
deriving DecidableEq, Repr

/-- The allowance register for a destination, with its reservation and waiters (R299 to R301). -/
structure Allowance where
  dev : BitVec 11
  free : Nat
  limit : Nat
  reserved : Nat
  /-- Waiting fragments, oldest first, with the cost each needs. -/
  waiters : List (Nat × Nat)
  /-- Sent and not returned, oldest first. -/
  flight : List Flight
deriving DecidableEq, Repr

/-- Flits and arrivals to be reported to a peer (R293, R300), and when the last report left. -/
structure Returns where
  dev : BitVec 11
  req : Nat
  page : Nat
  delReq : Word
  delRsp : Word
  delPage : Word
  since : Option Nat
deriving DecidableEq, Repr

structure Route where
  dev : BitVec 11
  entry : RouteEntry
deriving DecidableEq, Repr

/-- An injection hold of R294: the count of sent packets that must be seen delivered. -/
structure InjectHold where
  dev : BitVec 11
  cls : BitVec 2
  target : Word
  since : Nat
deriving DecidableEq, Repr

/-- Packets sent, by destination: REQ, RSP and PAGE. -/
structure Sent where
  dev : BitVec 11
  req : Word
  rsp : Word
  page : Word
deriving DecidableEq, Repr

/-- A packet sent, as it arrives at its destination. -/
structure Packet where
  dst : BitVec 11
  cls : BitVec 2
  body : Instr
deriving DecidableEq, Repr

/-- An engine's request that waits for the engines' allowance (R299), with the flits it costs. -/
structure Waiting where
  packet : Packet
  cost : Nat
  request : Request
deriving DecidableEq, Repr

/-- A slice record and its start (R313). -/
structure Slice where
  sgid : BitVec 12
  start : Nat
  grace : Nat
  begun : Bool
  readyRanks : List Nat
  aborted : Bool
deriving DecidableEq, Repr

/-- A hold on MMA dispatch (R365). -/
structure TideHold where
  sgid : BitVec 12
  pair : Nat
  job : BitVec 16
  rank : Nat
  fallback : Nat
  ends : Option Nat
deriving DecidableEq, Repr

/-! ## Synchronisation tables (12, 13) -/

/-- A watch of WAITC or COLLW (R283); an unwatched waiter polls. -/
structure Watch where
  place : Place
  frags : List Nat
deriving DecidableEq, Repr

/-! ## Firmware, boot, power, repair (21, 22, 03) -/

/-- DSTAT (R370). -/
structure Dstat where
  err : BitVec 8
  warm : Bool
  fabReady : Bool
  memReady : Bool
  fwRun : Bool
  fwOk : Bool
  rom : Bool
deriving DecidableEq, Repr

/-- PGOV (R361). -/
structure Pgov where
  floor : BitVec 11
  ramp : BitVec 12
  step : BitVec 12
  tlead : BitVec 4
  tideEn : Bool
  rakeEn : Bool
deriving DecidableEq, Repr

structure Grant where
  host : Nat
  frame : Nat
  count : Nat
deriving DecidableEq, Repr

/-- The links of R372. -/
structure Links where
  baseDie : Bool
  roswald : Bool
  ultraEthernet : Bool
deriving DecidableEq, Repr

/-- The error record of R359, by field. -/
structure ErrorRecord where
  time : DWord
  cls : BitVec 8
  kind : BitVec 8
  action : BitVec 8
  unit : BitVec 32
  grid : DWord
  block : Word
  job : BitVec 16
deriving DecidableEq, Repr

/-- What the next step does. -/
inductive Todo where
  /-- The fragment fetches and executes its next instruction. -/
  | issue (frag : Nat)
  /-- A step of another agent or of the surroundings (log 61, DEDUCED). -/
  | event (i : Instr)
  /-- A thread of the fragment reads something early (R103). -/
  | early (frag : Nat)
  /-- A store in cw or ca of the block reaches its target core (R252). -/
  | arrive (block index : Nat)
  /-- A REDM reaches its home (R254). -/
  | redm (id : Nat)
  /-- The pins and pans of a resumed block come back (R335). -/
  | restore (block : Nat)
  /-- The next part of a completion record on another device (R55). -/
  | record (id : Nat)
  /-- A retirement or a remap that has been decided goes on (R195, R357). -/
  | mend
  /-- A host reads the device window, by a port (R44, R367). -/
  | hostRead (port host offset count : Nat)
  /-- An error is corrected, the replay of an MMA among them (R353, R356). -/
  | corrected
  /-- Firmware extends M (R369). -/
  | extend
  /-- The shadow of a leading warp retires its next instruction, or cannot issue in this cycle (R351). -/
  | shadow (warp : Nat) (stall : Bool)
  /-- A granule of a buffer of the block fails its check code (R348). -/
  | spoiled (block : Nat) (buf : Buf) (granule : Nat)
  /-- A core takes a translation of its cluster into its own TLB (R188). -/
  | translation
deriving DecidableEq, Repr

/-- A fragment whose next instruction may consume an uncorrectable error (R348): whether that is an MMA or MMAZ (R353), and
whether a shadow is compared with it (R352). -/
structure Consuming where
  frag : Nat
  mma : Bool
  shadow : Bool
deriving DecidableEq, Repr

/-- The model's own fields (log 1): what the next step does, which fragment executes, what fetch tells
the meaning, what the meaning tells the step, and the counters of free values and of names. -/
structure Ctl where
  agenda : List Todo
  cur : Option Nat
  chainFault : Bool
  retired : Bool
  /-- The error that the next instruction of a fragment consumes where it can (R348). -/
  consuming : Option Consuming
  /-- Fragments that have begun the packet at their program counter and not parked in it, with that program
  counter (R340). -/
  inPacket : List (Nat × DWord)
  /-- Those of them whose instruction there has been dispatched and waits unretired. -/
  waiting : List Nat
  oracle : Nat
  nextId : Nat
deriving DecidableEq, Repr

/-- Main memory and translation (09, 10, 21). -/
structure MemSys where
  hbm : Memory
  /-- 64-byte lines that carry the check pattern of R355, by address / 64, ascending. -/
  poisoned : List Nat
  /-- The TLBs of the cores and of the clusters (R188). -/
  l1 : List Translation
  l2 : List Translation
  walks : List Walk
  frames : List FullFrame
  framePool : Nat
  transitions : List Transition
  /-- The layouts of the shard frames; the model's own (R201). -/
  laid : List Laid
  /-- The coordinator's counter of operations (R212). -/
  opn : BitVec 16
  /-- Page messages to be resent after BUSY, with the cycle of the answer (R211). -/
  busyRetries : List (Nat × Packet)
  drainFlags : List (BitVec 16 × DWord × BitVec 5)
deriving DecidableEq, Repr

/-- A retired instruction of a leading warp that its shadow has yet to retire: the warp and its fragments from before it, and
whether its result waits in the load-value queue (R351, R352). -/
structure Unmatched where
  warp : Warp
  frags : List Frag
  queued : Bool
deriving DecidableEq, Repr

/-- Jobs, queues, grids and the work placed (03, 04, 06). -/
structure Work where
  jobs : List Job
  groups : List Group
  queues : List Queue
  grids : List Grid
  records : List RecordWrite
  blocks : List Block
  warps : List Warp
  frags : List Frag
  pans : List Pan
  gangs : List Gang
  holds : List Hold
  firstGangs : List FirstGang
  liveCores : List Nat
  /-- What the shadows of leading warps have yet to retire, oldest first (R351). -/
  unmatched : List Unmatched
  /-- Leading warps whose shadows cannot issue in this cycle (log 82, DESIGN CHOICE). -/
  stalled : List Nat
deriving DecidableEq, Repr

/-- The ordering machine outside the blocks (12, 13). -/
structure Sync where
  histories : List History
  /-- Releases counted by sync object, its job and VA (R261). -/
  releases : List (BitVec 16 × DWord × Nat)
  deliveries : List Delivery
  redms : List Redm
  hidden : List Hidden
  early : List Early
  /-- Pins of saved warps, in the swapped-pin table and beyond it (R269). -/
  swappedPins : List (Nat × DWord)
  pinOverflow : List (Nat × DWord)
  watches : List Watch
  polls : List Nat
deriving DecidableEq, Repr

/-- The fabric endpoint (14). -/
structure Fabric where
  outbox : List Packet
  /-- Packets formed that an injection hold or a missing route keeps back (R294). -/
  held : List Packet
  /-- Requests of engines, and page messages, that wait for their own allowances (R210, R299). -/
  engineWait : List Waiting
  pageWait : List Packet
  requests : List Request
  tagNext : BitVec 12
  routes : List Route
  /-- The last port of each destination and class (R294). -/
  paths : List (BitVec 11 × BitVec 2 × BitVec 8)
  staged : List Route
  injectHolds : List InjectHold
  allowances : List Allowance
  returns : List Returns
  /-- PAGE flits sent and not returned, by destination (R210, R293). -/
  pageFlits : List (BitVec 11 × Nat)
  sent : List Sent
  delivered : List Sent
  members : List (Nat × List (BitVec 32))
  restricted : List (Nat × List Nat)
  dropped : Nat
deriving DecidableEq, Repr

/-- Collectives, the range table, slices and TIDE holds (14, 22). -/
structure Collectives where
  colls : List Coll
  counts : List (BitVec 12 × Nat)
  early : List EarlyColl
  ranges : List Range
  slices : List Slice
  tideHolds : List TideHold
deriving DecidableEq, Repr

/-- Budgets and the power governor (06 R113, 22). -/
structure Power where
  budgets : List (Nat × Int)
  pgov : Pgov
  pgovNext : Option Pgov
  /-- P in the last period, in tenths of a watt. -/
  now : Nat
  /-- The rake filled up to the floor in the last period (R363, R364). -/
  raking : Bool
  period : Nat
deriving DecidableEq, Repr

/-- Boot, firmware and the device window (22, 03 R44, R45). -/
structure Firmware where
  dstat : Dstat
  links : Links
  staging : Memory
  measure : BitVec 256
  resetCount : Nat
  rqTail : DWord
  rqHead : DWord
  rpHead : DWord
  request : Memory
  grants : List Grant
  hostReads : List (Option (List Byte))
  elog : List ErrorRecord
  elogCount : Nat
  /-- Aborted slices and debug stops that firmware reports to the host (R314, R340). -/
  aborts : List (BitVec 12)
  stops : List Nat
  /-- Restricted links that firmware has reported to the fabric manager, with their missing channels (R296). -/
  linkReports : List (Nat × List Nat)
  /-- A warm reset that the host asked for (R373). -/
  resetPending : Bool
deriving DecidableEq, Repr

/-- A remap or a retirement that has been decided and waits for its saves (R195, R357). -/
inductive Mend where
  | lane (core part lane : Nat)
  | core (core : Nat)
  | channel (channel : Nat)
deriving DecidableEq, Repr

/-- Base dies and repair (09, 21). -/
structure Repair where
  hbmReplies : List (BitVec 12 × List Byte × List Bool)
  retiredChannels : List Nat
  erasures : List (Nat × Nat)
  /-- Failed lanes steered onto the spare: core, partition, lane. -/
  remaps : List (Nat × Nat × Nat)
  softErrors : List (Unit9 × BitVec 32 × Nat)
  /-- Units under a targeted self-test (R356). -/
  tests : List (Unit9 × BitVec 32)
  /-- L2 banks whose lines are not cached, and bridges at reduced width (R356). -/
  degraded : List (Unit9 × BitVec 32)
  mends : List Mend
deriving DecidableEq, Repr

/-- The state of the device. -/
structure State where
  ctl : Ctl
  /-- Cycles and nanoseconds of fabric time (06 R96). -/
  cycle : Nat
  time : Nat
  mem : MemSys
  work : Work
  sync : Sync
  fab : Fabric
  coll : Collectives
  power : Power
  fw : Firmware
  repair : Repair
deriving DecidableEq, Repr

/-! ## Reset -/

/-- The reset values of R361. -/
def Pgov.reset : Pgov := { floor := 0, ramp := 50, step := 20, tlead := 2, tideEn := true, rakeEn := true }

/-- The reset values of R370; RESET_KIND has none (log 3). -/
def Dstat.reset : Dstat :=
  { err := 0, warm := false, fabReady := false, memReady := false, fwRun := false, fwOk := false, rom := true }

/-- The device after reset (22 R371; log 1, log 2 and log 3 for what the manual does not state). -/
def State.reset : State :=
  { ctl := { agenda := [], cur := none, chainFault := false, retired := false, consuming := none, inPacket := [], waiting := [], oracle := 0, nextId := 1 }
    cycle := 0
    time := 0
    mem := { hbm := [], poisoned := [], l1 := [], l2 := [], walks := [], frames := [], framePool := 8388608,
             transitions := [], laid := [], opn := 0, busyRetries := [], drainFlags := [] }
    work := { jobs := [], groups := [], queues := [], grids := [], records := [], blocks := [], warps := [], frags := [],
              pans := [], gangs := [], holds := [], firstGangs := [], liveCores := List.range 192, unmatched := [], stalled := [] }
    sync := { histories := [], releases := [], deliveries := [], redms := [], hidden := [], early := [], swappedPins := [], pinOverflow := [],
              watches := [], polls := [] }
    fab := { outbox := [], held := [], engineWait := [], pageWait := [], requests := [], tagNext := 0, routes := [], paths := [], staged := [], injectHolds := [],
             allowances := [], returns := [], pageFlits := [], sent := [], delivered := [], members := [], restricted := [],
             dropped := 0 }
    coll := { colls := [], counts := [], early := [], ranges := [], slices := [], tideHolds := [] }
    power := { budgets := [], pgov := Pgov.reset, pgovNext := none, now := 0, raking := false,
               period := 0 }
    fw := { dstat := Dstat.reset, links := { baseDie := false, roswald := false, ultraEthernet := false },
            staging := [], measure := 0, resetCount := 0, rqTail := 0, rqHead := 0, rpHead := 0, request := [],
            grants := [], hostReads := [], elog := [], elogCount := 0, aborts := [], stops := [], linkReports := [], resetPending := false }
    repair := { hbmReplies := [], retiredChannels := [], erasures := [], remaps := [], softErrors := [], tests := [], degraded := [], mends := [] } }

end Sys2Proof.Machine
end

