-- ==== Sys2Proof/Machine/Ops.lean ====
section
/-! DEFINITION. The named operations on the state: memory, tables, places, taking a trap and killing a
block, issuing and retiring an instruction. -/

namespace Sys2Proof.Machine

open Sys2Proof

abbrev Out := Host.Outcome State Fault Refusal

/-! ## Memory (canonical form: log 2) -/

/-- Every unlisted address reads as this byte. -/
def Memory.default : Byte := 0

def Memory.get (m : Memory) (a : Nat) : Byte :=
  match m with
  | [] => Memory.default
  | c :: m => if c.1 = a then c.2 else Memory.get m a

/-- Write one byte and keep the canonical form. -/
def Memory.put (m : Memory) (a : Nat) (b : Byte) : Memory :=
  match m with
  | [] => if b = Memory.default then [] else [(a, b)]
  | c :: m =>
      if a < c.1 then (if b = Memory.default then c :: m else (a, b) :: c :: m)
      else if a = c.1 then (if b = Memory.default then m else (a, b) :: m)
      else c :: Memory.put m a b

def Memory.getN (m : Memory) (a : Nat) : Nat → List Byte
  | 0 => []
  | n + 1 => Memory.get m a :: Memory.getN m (a + 1) n

def Memory.putN (m : Memory) (a : Nat) : List Byte → Memory
  | [] => m
  | b :: bs => Memory.putN (Memory.put m a b) (a + 1) bs

/-- Every address of the memory lies above `lo`, rising, and no entry is the default. -/
def Memory.wfFrom (lo : Nat) : Memory → Bool
  | [] => true
  | c :: m => decide (lo ≤ c.1) && decide (c.2 ≠ Memory.default) && Memory.wfFrom (c.1 + 1) m

/-- The canonical form. -/
def Memory.wf (m : Memory) : Bool := Memory.wfFrom 0 m

/-! ## Ascending sets of numbers -/

def insertNat (x : Nat) : List Nat → List Nat
  | [] => [x]
  | y :: ys => if x < y then x :: y :: ys else if x = y then y :: ys else y :: insertNat x ys

def insertAll (xs : List Nat) (s : List Nat) : List Nat := xs.foldl (fun s x => insertNat x s) s

/-- A list without its repeats. -/
def distinct {α : Type} [BEq α] (xs : List α) : List α := xs.foldl (fun acc x => if acc.contains x then acc else acc ++ [x]) []

/-! ## Tables -/

/-- Apply `g` to every row that `p` selects. -/
def updWhere {α : Type} (p : α → Bool) (g : α → α) (l : List α) : List α := l.map (fun x => if p x then g x else x)

/-- Replace the value of a key, or add it. -/
def setKey {κ ν : Type} [BEq κ] (k : κ) (v : ν) : List (κ × ν) → List (κ × ν)
  | [] => [(k, v)]
  | x :: xs => if x.1 == k then (k, v) :: xs else x :: setKey k v xs

def getKey {κ ν : Type} [BEq κ] (k : κ) (l : List (κ × ν)) : Option ν := (l.find? (fun x => x.1 == k)).map (·.2)

def State.frag? (s : State) (id : Nat) : Option Frag := s.work.frags.find? (fun f => f.id == id)
def State.warp? (s : State) (id : Nat) : Option Warp := s.work.warps.find? (fun w => w.id == id)
def State.block? (s : State) (id : Nat) : Option Block := s.work.blocks.find? (fun b => b.id == id)
def State.grid? (s : State) (key : Nat) : Option Grid := s.work.grids.find? (fun g => g.key == key)
def State.job? (s : State) (j : BitVec 16) : Option Job := s.work.jobs.find? (fun x => x.num == j)
def State.queue? (s : State) (q : BitVec 12) : Option Queue := s.work.queues.find? (fun x => x.num == q)
def State.group? (s : State) (g : BitVec 12) : Option Group := s.work.groups.find? (fun x => x.sgid == g)
def State.pan? (s : State) (id : Nat) : Option Pan := s.work.pans.find? (fun p => p.id == id)
def State.frame? (s : State) (job : BitVec 16) (page : DWord) : Option FullFrame :=
  s.mem.frames.find? (fun x => x.job == job && x.page == page)

def newQueue (num : BitVec 12) (size : Nat) (job : BitVec 16) (preempt : Bool) (pdl : Nat) (enable : Bool) : Queue :=
  { num, size, job, preempt, pdl, enable, tail := 0, head := 0, retired := 0, errseq := 0, status := .running, ring := [], doneSeqs := [] }

/-- A queue before its first QUEUE_CONFIG: PDL 20,000 (R40), a control block of zeros (R41), not enabled; no SIZE and no job
are stated, and the model takes 16 and 0 (log 3, DESIGN CHOICE). -/
def blankQueue (num : BitVec 12) : Queue := newQueue num 16 0 false 20000 false

/-- Every queue has a configuration and a control block. -/
def State.queueOf (s : State) (num : BitVec 12) : Queue := (s.queue? num).getD (blankQueue num)

def State.setFrag (s : State) (f : Frag) : State :=
  { s with work := { s.work with frags := updWhere (fun x => x.id == f.id) (fun _ => f) s.work.frags } }
def State.setWarp (s : State) (w : Warp) : State :=
  { s with work := { s.work with warps := updWhere (fun x => x.id == w.id) (fun _ => w) s.work.warps } }
def State.setBlock (s : State) (b : Block) : State :=
  { s with work := { s.work with blocks := updWhere (fun x => x.id == b.id) (fun _ => b) s.work.blocks } }
def State.setGrid (s : State) (g : Grid) : State :=
  { s with work := { s.work with grids := updWhere (fun x => x.key == g.key) (fun _ => g) s.work.grids } }
def State.setJob (s : State) (j : Job) : State :=
  { s with work := { s.work with jobs := updWhere (fun x => x.num == j.num) (fun _ => j) s.work.jobs } }
def State.setQueue (s : State) (q : Queue) : State :=
  { s with work := { s.work with queues := updWhere (fun x => x.num == q.num) (fun _ => q) s.work.queues } }
def State.setPan (s : State) (p : Pan) : State :=
  { s with work := { s.work with pans := updWhere (fun x => x.id == p.id) (fun _ => p) s.work.pans } }
def State.setFrame (s : State) (x : FullFrame) : State :=
  { s with mem := { s.mem with frames := updWhere (fun y => y.job == x.job && y.page == x.page) (fun _ => x) s.mem.frames } }

def State.modBlock (s : State) (id : Nat) (g : Block → Block) : State :=
  { s with work := { s.work with blocks := updWhere (fun x => x.id == id) g s.work.blocks } }
def State.modWarp (s : State) (id : Nat) (g : Warp → Warp) : State :=
  { s with work := { s.work with warps := updWhere (fun x => x.id == id) g s.work.warps } }
def State.modFrag (s : State) (id : Nat) (g : Frag → Frag) : State :=
  { s with work := { s.work with frags := updWhere (fun x => x.id == id) g s.work.frags } }
def State.modGrid (s : State) (key : Nat) (g : Grid → Grid) : State :=
  { s with work := { s.work with grids := updWhere (fun x => x.key == key) g s.work.grids } }

def State.modSync (s : State) (g : Sync → Sync) : State := { s with sync := g s.sync }
def State.modMem (s : State) (g : MemSys → MemSys) : State := { s with mem := g s.mem }
def State.modWork (s : State) (g : Work → Work) : State := { s with work := g s.work }
def State.modFab (s : State) (g : Fabric → Fabric) : State := { s with fab := g s.fab }
def State.modColl (s : State) (g : Collectives → Collectives) : State := { s with coll := g s.coll }
def State.modFw (s : State) (g : Firmware → Firmware) : State := { s with fw := g s.fw }
def State.modPower (s : State) (g : Power → Power) : State := { s with power := g s.power }
def State.modRepair (s : State) (g : Repair → Repair) : State := { s with repair := g s.repair }

/-- A fresh name. -/
def State.fresh (s : State) : Nat × State := (s.ctl.nextId, { s with ctl := { s.ctl with nextId := s.ctl.nextId + 1 } })

/-- The next free value (log 4). -/
def State.draw (s : State) : Nat × State :=
  (Config.free s.ctl.oracle, { s with ctl := { s.ctl with oracle := s.ctl.oracle + 1 } })

/-- The next `n` free values, by index. -/
def State.drawN (s : State) (n : Nat) : (Nat → Nat) × State :=
  (fun i => Config.free (s.ctl.oracle + i), { s with ctl := { s.ctl with oracle := s.ctl.oracle + n } })

/-- The domain and device bits of %device (R65). -/
def selfDev : BitVec 11 := bits Config.deviceId 0 11

def Block.cluster (b : Block) : Nat := b.core / 16

def State.blockFrags (s : State) (b : Nat) : List Frag :=
  s.work.frags.filter (fun f => match s.warp? f.warp with | some w => w.block == b | none => false)

def State.warpFrags (s : State) (w : Nat) : List Frag := s.work.frags.filter (fun f => f.warp == w)

def State.blockWarps (s : State) (b : Nat) : List Warp := s.work.warps.filter (fun w => w.block == b)

/-- The blocks of one gang, ascending linear index. -/
def State.gangBlocks (s : State) (grid gang : Nat) : List Block :=
  s.work.blocks.filter (fun b => b.grid == grid && b.gang == gang)

/-- A block of the gang is not restored yet: until all are, none of them goes on (R62, R335). -/
def State.gangRestoring (s : State) (b : Block) : Bool := (s.gangBlocks b.grid b.gang).any (·.restoring)

def Block.queue (b : Block) (q : BitVec 3) : List EngOp := b.queues[q.toNat]'q.isLt

/-- A warp has 63 operations outstanding in a queue (R233). -/
def Block.queueFull (b : Block) (warp : Nat) (q : BitVec 3) : Bool := 63 ≤ ((b.queue q).filter (fun o => o.warp == warp)).length

/-- The block of a gang with the given %gangblk. -/
def State.gangMember (s : State) (g : Grid) (b : Block) (k : Nat) : Option Block :=
  s.work.blocks.find? (fun x => x.grid == b.grid && x.gang == b.gang && x.index % g.launch.gang == k)

/-- The block stops being clean (R347). -/
def State.soil (s : State) (b : Nat) : State := s.modBlock b (fun x => { x with clean := false })

/-! ## Places -/

/-- The place `n` bytes on. -/
def Place.at (p : Place) (n : Nat) : Place :=
  match p with
  | .hbm a => .hbm (a + n)
  | .frame j g o => .frame j g (o + n)
  | .far d a => .far d (a + n)
  | .buf b x a => .buf b x (a + n)
  | .lwin w l a => .lwin w l (a + n)
  | .member g r d va => .member g r d (va + BitVec.ofNat 64 n)

/-- The offset of byte `q` from the start of a run of bytes at `p`. -/
def Place.offset (p q : Place) : Option Nat :=
  let d := fun (a b : Nat) => if a ≤ b then some (b - a) else none
  match p, q with
  | .hbm a, .hbm b => d a b
  | .frame j g a, .frame j' g' b => if j = j' ∧ g = g' then d a b else none
  | .far x a, .far y b => if x = y then d a b else none
  | .buf k x a, .buf k' y b => if k = k' ∧ x = y then d a b else none
  | .lwin w l a, .lwin w' l' b => if w = w' ∧ l = l' then d a b else none
  | .member g r x a, .member g' r' x' b => if g = g' ∧ r = r' ∧ x = x' then d a.toNat b.toNat else none
  | _, _ => none

/-- Two runs of bytes share a byte. -/
def Place.overlap (p : Place) (n : Nat) (q : Place) (m : Nat) : Bool :=
  (match p.offset q with | some k => decide (k < n ∧ 0 < m) | none => false)
    || (match q.offset p with | some k => decide (k < m ∧ 0 < n) | none => false)

/-- Whether a place is main memory of this device, where coherence orders and histories apply. -/
def Place.isMain : Place → Bool
  | .hbm _ | .frame _ _ _ => true
  | _ => false

def Block.buf (b : Block) : Buf → Memory
  | .a => b.a
  | .w => b.w
  | .c => b.c

def Block.setBuf (b : Block) (x : Buf) (m : Memory) : Block :=
  match x with
  | .a => { b with a := m }
  | .w => { b with w := m }
  | .c => { b with c := m }

/-- L windows lie 2,048 bytes apart (R174). -/
def lwinAddr (lane a : Nat) : Nat := 2048 * lane + a

/-- The bytes at a place as they stand there, without any store buffer. Places of another device read
as nothing of this one. -/
def State.getAt (s : State) (p : Place) (n : Nat) : List Byte :=
  match p with
  | .hbm a => s.mem.hbm.getN a n
  | .frame j g o => match s.frame? j g with | some x => x.mem.getN o n | none => List.replicate n 0
  | .buf b x a => match s.block? b with | some k => (k.buf x).getN a n | none => List.replicate n 0
  | .lwin w l a => match s.warp? w with | some k => k.lwin.getN (lwinAddr l a) n | none => List.replicate n 0
  | .far _ _ | .member _ _ _ _ => List.replicate n 0

/-- Write bytes at a place, with no effect on orders or tags. -/
def State.putAt (s : State) (p : Place) (bs : List Byte) : State :=
  match p with
  | .hbm a => { s with mem := { s.mem with hbm := s.mem.hbm.putN a bs } }
  | .frame j g o =>
      match s.frame? j g with
      | some x => s.setFrame { x with mem := x.mem.putN o bs }
      | none => s
  | .buf b x a => s.modBlock b (fun k => k.setBuf x ((k.buf x).putN a bs))
  | .lwin w l a => s.modWarp w (fun k => { k with lwin := k.lwin.putN (lwinAddr l a) bs })
  | .far _ _ | .member _ _ _ _ => s

/-- The last value of a history. -/
def History.last (h : History) : Byte :=
  match h.stores.getLast? with
  | some x => x.value
  | none => h.base

/-- Make fragments candidates again. -/
def State.clearParks (s : State) (ids : List Nat) : State :=
  s.modWork fun y => { y with frags := updWhere (fun f => ids.contains f.id) (fun f => { f with run := .ready }) y.frags }

/-- Wake the fragments that watch a word of which bytes were written (R283). -/
def State.wake (s : State) (p : Place) (n : Nat) : State :=
  let hit := s.sync.watches.filter (fun w => w.place.overlap 8 p n)
  if hit.isEmpty then s else
    (s.modSync fun y => { y with watches := y.watches.filter (fun w => !(w.place.overlap 8 p n)) }).clearParks (hit.flatMap (·.frags))

/-- Add one byte to its coherence order (R252, R260): an unbound store ends the history of the byte. -/
def State.orderByte (s : State) (p : Place) (b : Byte) (bound : Option HistStore) : State :=
  s.modSync fun y =>
    match bound with
    | none => { y with histories := y.histories.filter (fun h => h.place != p) }
    | some x =>
        let x' := { x with value := b }
        if y.histories.any (fun h => h.place == p) then
          { y with histories := updWhere (fun h => h.place == p) (fun h => { h with stores := h.stores ++ [x'] }) y.histories }
        else { y with histories := y.histories ++ [{ place := p, base := (s.getAt p 1).headD 0, stores := [x'] }] }

/-- The poisoned lines of a place that bytes `a` to `a + n - 1` cover whole. -/
def wholeLines (a n : Nat) : List Nat :=
  (List.range (n / 64 + 2)).map (fun i => a / 64 + i) |>.filter (fun l => a ≤ 64 * l && 64 * l + 64 ≤ a + n)

/-- The 64-byte lines that bytes `a` to `a + n - 1` touch. -/
def touchedLines (a n : Nat) : List Nat :=
  if n = 0 then [] else (List.range ((a % 64 + n + 63) / 64)).map (fun i => a / 64 + i)

/-- Change the poison marks of a full frame. -/
def State.modFramePoison (s : State) (j : BitVec 16) (g : DWord) (k : List Nat → List Nat) : State :=
  s.modMem fun y => { y with frames := updWhere (fun x => x.job == j && x.page == g) (fun x => { x with poison := k x.poison }) y.frames }

/-- Lines written whole are poisoned no longer (R355). -/
def State.clearPoison (s : State) (p : Place) (n : Nat) : State :=
  match p with
  | .hbm a =>
      let w := wholeLines a n
      if w.isEmpty then s else s.modMem fun y => { y with poisoned := y.poisoned.filter (fun l => !w.contains l) }
  | .frame j g o =>
      let w := wholeLines o n
      if w.isEmpty then s else s.modFramePoison j g (fun x => x.filter (fun l => !w.contains l))
  | .buf b x a =>
      let w := wholeLines a n
      if w.isEmpty then s else s.modBlock b (fun k => { k with poison := k.poison.filter (fun l => !(l.1 == x && w.contains l.2)) })
  | _ => s

/-- The start of the 64-byte line of a place of this device's storage. -/
def Place.line : Place → Option Place
  | .hbm a => some (.hbm (a / 64 * 64))
  | .frame j g o => some (.frame j g (o / 64 * 64))
  | .buf b x a => some (.buf b x (a / 64 * 64))
  | .lwin _ _ _ | .far _ _ | .member _ _ _ _ => none

/-- Mark lines as poisoned (R355). -/
def State.addPoison (s : State) (p : Place) (n : Nat) : State :=
  match p with
  | .hbm a => s.modMem fun y => { y with poisoned := insertAll (touchedLines a n) y.poisoned }
  | .frame j g o => s.modFramePoison j g (insertAll (touchedLines o n))
  | .buf b x a =>
      s.modBlock b (fun k => { k with poison := k.poison ++ ((touchedLines a n).map (fun l => (x, l))).filter (fun l => !k.poison.contains l) })
  | _ => s

/-- A line of the place carries an uncorrectable error. -/
def State.isPoisoned (s : State) (p : Place) (n : Nat) : Bool :=
  match p with
  | .hbm a => (touchedLines a n).any (fun l => s.mem.poisoned.contains l)
  | .frame j g o => match s.frame? j g with | some x => (touchedLines o n).any (fun l => x.poison.contains l) | none => false
  | .buf b x a => match s.block? b with | some k => (touchedLines a n).any (fun l => k.poison.contains (x, l)) | none => false
  | _ => false

/-- A line that the runs of bytes of one store together overwrite whole is poisoned no longer (R355). -/
def State.clearWritten (s : State) (ps : List (Place × Nat)) : State :=
  (distinct (ps.filterMap (fun x => x.1.line))).foldl (fun s l =>
    if s.isPoisoned l 64 && (List.range 64).all (fun i => ps.any (fun x => x.1.overlap x.2 (l.at i) 1)) then s.clearPoison l 64 else s) s

/-- A word that a fragment does not see whole takes a store's bytes too (R254); one that is overwritten whole is over. -/
def Hidden.note (h : Hidden) (p : Place) (bs : List Byte) : Option Hidden :=
  let new := (List.range 4).filterMap (fun i => ((p.offset (h.place.at i)).bind (fun k => bs[k]?)).map (fun b => WordOp.put i b))
  if new.length = 4 then none else some { h with ops := h.ops ++ new }

def State.noteHidden (s : State) (p : Place) (bs : List Byte) : State :=
  if s.sync.hidden.isEmpty then s else s.modSync fun y => { y with hidden := y.hidden.filterMap (fun h => h.note p bs) }

/-- Put bytes at their home or buffer unbound: the byte order, the bytes, the watches. -/
def State.setBytes (s : State) (p : Place) (bs : List Byte) : State :=
  let s1 := if p.isMain && !s.sync.histories.isEmpty then
      (List.range bs.length).foldl (fun s i => s.orderByte (p.at i) (bs.getD i 0) none) s else s
  ((s1.putAt p bs).clearPoison p bs.length).wake p bs.length

/-- Perform an unbound write at its home or buffer. -/
def State.performAt (s : State) (p : Place) (bs : List Byte) : State := (s.noteHidden p bs).setBytes p bs

/-! ## Early reads (R103, R252) -/

/-- The serials of the threads in a set of lanes of a warp. -/
def Warp.serials (w : Warp) (m : Mask) : List Nat :=
  (Mask.lanes m).filterMap (fun l => (w.threads.toList.getD l none).map (·.serial))

/-- What threads have read early is void: a load they have yet to come to is performed later. -/
def State.forgetEarly (s : State) (ths : List Nat) : State :=
  s.modSync fun y => { y with early := y.early.filter (fun e => !ths.contains e.thread) }

/-- What threads have read early of some bytes is void (R253). -/
def State.forgetAt (s : State) (ths : List Nat) (p : Place) (n : Nat) : State :=
  s.modSync fun y => { y with early := y.early.filter (fun e => !(ths.contains e.thread && e.place.overlap e.bytes.length p n)) }

/-- HBM takes accesses from outside (R372): after a warm reset every link is trained again first. -/
def State.memoryOpen (s : State) : Bool :=
  !s.fw.dstat.rom && s.fw.dstat.memReady && s.fw.dstat.fwRun && (!s.fw.dstat.warm || (s.fw.links.roswald && s.fw.links.ultraEthernet))

/-! ## Trap causes -/

/-- The codes of R323. -/
def Cause.code : Cause → BitVec 8
  | .illegalOp => 0x01 | .illegalChain => 0x02 | .privilege => 0x03 | .nonuniform => 0x04
  | .memberAbsent => 0x05 | .uniformMismatch => 0x06 | .retstack => 0x07 | .fpInvalid => 0x08
  | .fpDivzero => 0x09 | .fpOverflow => 0x0A | .fpUnderflow => 0x0B | .fpInexact => 0x0C
  | .misaligned => 0x0D | .noMapping => 0x0E | .permission => 0x0F | .shardLost => 0x10
  | .rangeBusy => 0x11 | .countRange => 0x12 | .keyRefused => 0x13 | .fabricDelivery => 0x14
  | .bufferBounds => 0x15 | .emptyTimeout => 0x16 | .breakpoint => 0x17 | .step => 0x18
  | .software => 0x19 | .collMismatch => 0x1B | .poison => 0x1C | .doubleTrap => 0x1F

/-! ## Code addresses (R73, R74) -/

def Kernel.base (k : Kernel) : Nat := k.va.toNat + 64

/-- A program counter within the kernel's code. -/
def Kernel.inside (k : Kernel) (pc : DWord) : Bool := k.base ≤ pc.toNat && pc.toNat < k.base + 12 * k.npkt

/-- The VA of the packet that holds a code address. -/
def Kernel.packet (k : Kernel) (pc : DWord) : DWord := BitVec.ofNat 64 (k.base + 12 * ((pc.toNat - k.base) / 12))

def Kernel.nextPacket (k : Kernel) (pc : DWord) : DWord := k.packet pc + 12

/-- The trap of a control-transfer target (R74), none when the target is a packet VA of the kernel. -/
def Kernel.targetTrap (k : Kernel) (t : DWord) : Option Cause :=
  if !k.inside t then some .illegalOp else if (t.toNat - k.base) % 12 != 0 then some .misaligned else none

/-- %tvec at entry (R36). -/
def Kernel.tvecVa (k : Kernel) : DWord :=
  if k.tvec == 0xFFFFFFFF#32 then 0 else BitVec.ofNat 64 (k.base + 12 * k.tvec.toNat)

/-! ## Threads of a block -/

def Warp.threadList (w : Warp) : List Thread := w.threads.toList.filterMap (fun t => t)

def State.blockPans (s : State) (b : Nat) : List Pan := s.work.pans.filter (fun p => p.block == b)

/-- Every live thread of a block, in a warp or filed. -/
def State.liveThreads (s : State) (b : Nat) : List Thread :=
  (s.blockWarps b).flatMap Warp.threadList ++ (s.blockPans b).flatMap (fun p => p.threads.map (·.thread))

/-! ## Thread barriers (R277) -/

/-- Clear the fragments that wait on a completed phase. -/
def State.passBar (s : State) (blocks : List Nat) (key : BarKey) : State :=
  let here := fun (f : Frag) => match s.warp? f.warp with | some w => blocks.contains w.block | none => false
  s.modWork fun y => { y with frags := updWhere (fun f => here f && f.arrived == some key && (match f.run with | .parked .barrier _ => true | _ => false)) (fun f => { f with run := .ready }) y.frags }

def State.gang? (s : State) (b : Block) : Option Gang := s.work.gangs.find? (fun g => g.grid == b.grid && g.number == b.gang)

def State.gangThreads (s : State) (b : Block) : Nat := ((s.gangBlocks b.grid b.gang).map (fun x => (s.liveThreads x.id).length)).sum

/-- The phase of a barrier. -/
def State.phase (s : State) (b : Block) (key : BarKey) : Phase :=
  match key with
  | .bar i => b.bars.toList.getD i { arrivals := 0, n := 0 }
  | .gbar i => match s.gang? b with
    | some g => g.phases.toList.getD i { arrivals := 0, n := 0 }
    | none => { arrivals := 0, n := 0 }

def setPhase {n : Nat} (v : Vector Phase n) (i : Nat) (p : Phase) : Vector Phase n := Vector.ofFn (fun k => if k.val = i then p else v[k])

def State.putPhase (s : State) (b : Block) (key : BarKey) (p : Phase) : State :=
  match key with
  | .bar i => s.modBlock b.id (fun x => { x with bars := setPhase x.bars i p })
  | .gbar i =>
      let g := (s.gang? b).getD { grid := b.grid, number := b.gang, phases := Vector.replicate 4 { arrivals := 0, n := 0 } }
      s.modWork fun y => { y with gangs := (y.gangs.filter (fun x => !(x.grid == b.grid && x.number == b.gang))) ++ [{ g with phases := setPhase g.phases i p }] }

/-- The blocks whose threads meet at a barrier. -/
def State.barBlocks (s : State) (b : Block) (key : BarKey) : List Nat :=
  match key with
  | .bar _ => [b.id]
  | .gbar _ => (s.gangBlocks b.grid b.gang).map (·.id)

def State.barThreads (s : State) (b : Block) (key : BarKey) : Nat :=
  match key with
  | .bar _ => (s.liveThreads b.id).length
  | .gbar _ => s.gangThreads b

/-- Complete a phase that has all its arrivals: the fixed count, or every live thread. -/
def State.completeBar (s : State) (b : Block) (key : BarKey) : State :=
  let p := s.phase b key
  if p.arrivals != 0 && p.arrivals == (if p.n = 0 then s.barThreads b key else p.n) then
    (s.putPhase b key { arrivals := 0, n := 0 }).passBar (s.barBlocks b key) key
  else s

/-- A thread that exits can complete a phase of its block or gang. -/
def State.checkBars (s : State) (b : Nat) : State :=
  let keys := (List.range 16).map BarKey.bar ++ (List.range 4).map BarKey.gbar
  keys.foldl (fun s k => match s.block? b with | some x => s.completeBar x k | none => s) s

/-- The GBAR phases of a gang that its remaining threads complete (R277). -/
def State.checkGangBars (s : State) (b : Block) : State :=
  match s.gangBlocks b.grid b.gang with
  | [] => s
  | x :: _ => (List.range 4).foldl (fun s i => s.completeBar x (.gbar i)) s

/-! ## TIDE holds (R365) -/

/-- When a hold ends that runs from t0; STEP counts 0.1 µs. -/
def State.tideEnd (s : State) (rank t0 : Nat) : Nat := t0 + rank % 16 * s.power.pgov.step.toNat * 100

/-- When a hold ends: its own TEND + TLEAD stands for t0 once that has come with no TIDE message. -/
def State.holdEnd (s : State) (h : TideHold) : Option Nat :=
  match h.ends with
  | some t => some t
  | none => if h.fallback ≤ s.time then some (s.tideEnd h.rank h.fallback) else none

/-- The hold stands. -/
def State.holds (s : State) (h : TideHold) : Bool := match s.holdEnd h with | some t => decide (s.time < t) | none => true

/-! ## Ending a block (R350) and rolling it back (R349) -/

/-- Fragments in reclaim wait search again when a name leaves the pin board (R287). -/
def State.wakeReclaim (s : State) : State :=
  s.modWork fun y => { y with frags := updWhere (fun f => match f.run with | .parked .reclaim _ => true | _ => false) (fun f => { f with run := .ready }) y.frags }

/-- A request that one of these fragments waits for. -/
def Request.isOf (r : Request) (ids : List Nat) : Bool :=
  match r.purpose with
  | .load f => ids.contains f
  | .atomic f _ => ids.contains f
  | _ => false

/-- An allowance register when waiting fragments are discarded: the holder's flits become free, and the
next waiter takes them (R301). -/
def Allowance.forget (a : Allowance) (ids : List Nat) : Allowance :=
  if a.waiters.any (fun w => ids.contains w.1) then
    let ws := a.waiters.filter (fun w => !ids.contains w.1)
    if ws.isEmpty then { a with waiters := [], free := a.free + a.reserved, reserved := 0 }
    else if (a.waiters.head?.map (·.1)) == (ws.head?.map (·.1)) then { a with waiters := ws }
    else { a with waiters := ws, free := 0, reserved := a.free + a.reserved }
  else a

/-- The waiter whose reservation covers its cost. -/
def Allowance.covered (a : Allowance) : Option Nat :=
  match a.waiters with
  | [] => none
  | w :: _ => if w.2 ≤ a.reserved then some w.1 else none

/-- Clear the fragment that waits for the allowance of a device and is covered (R301). -/
def State.clearCovered (s : State) (dev : BitVec 11) : State :=
  match s.fab.allowances.find? (fun a => a.dev == dev) with
  | none => s
  | some a =>
      match a.covered with
      | none => s
      | some id => s.modFrag id (fun f => match f.run with | .parked .allowance _ => { f with run := .ready } | _ => f)

/-- Fragments wait for no allowance any more; the next waiter is cleared where it is covered (R301). -/
def State.forgetWaits (s : State) (ids : List Nat) : State :=
  let hit := s.fab.allowances.filter (fun a => a.waiters.any (fun w => ids.contains w.1))
  if hit.isEmpty then s
  else (hit.map (·.dev)).foldl (fun s d => s.clearCovered d) (s.modFab fun y => { y with allowances := y.allowances.map (fun a => a.forget ids) })

/-- The flits that a fragment has paid for a write it does not send become free again. -/
def State.refund (s : State) (frag : Nat) : State :=
  match s.frag? frag with
  | none => s
  | some f =>
      if f.relPaid.isEmpty then s
      else (s.modFab fun y => { y with allowances := y.allowances.map (fun a => match getKey a.dev f.relPaid with
        | some n => { a with free := a.free + n, flight := a.flight.erase { flits := n, engine := false, old := false } }
        | none => a) }).modFrag frag (fun f => { f with relPaid := [] })

/-- Remove fragments, their waits and their place in every table. -/
def State.dropFrags (s : State) (ids : List Nat) : State :=
  let s := ids.foldl (fun s i => s.refund i) s
  let live := fun (l : List Nat) => l.filter (fun i => !ids.contains i)
  (((s.modWork fun y => { y with frags := y.frags.filter (fun f => !ids.contains f.id) }).modSync fun y =>
    { y with watches := (y.watches.map (fun w => { w with frags := live w.frags })).filter (fun w => !w.frags.isEmpty), polls := live y.polls }).modFab fun y =>
    { y with requests := y.requests.filter (fun r => !r.isOf ids) }).forgetWaits ids

/-- Discard the unpublished bound stores of a block: a byte falls back to the last store that stays. -/
def State.dropBound (s : State) (b : Nat) : State :=
  let gone := fun (x : HistStore) => x.block == b && x.tags.isEmpty
  let hit := s.sync.histories.filter (fun h => h.stores.any gone)
  let fixed := hit.map (fun h => { h with stores := h.stores.filter (fun x => !gone x) })
  let s := s.modSync fun y =>
    { y with histories := (y.histories.map (fun h => { h with stores := h.stores.filter (fun x => !gone x) })).filter (fun h => !h.stores.isEmpty) }
  fixed.foldl (fun s h => s.putAt h.place [h.last]) s

/-- An entry of a killed block that is draining, without the unpublished stores bound in it: these are discarded (R350, steps 2
and 3). -/
def Entry.unboundOnly (e : Entry) : Option Entry :=
  let ps := e.pieces.filter (fun x => x.sync.isNone || e.published)
  if e.draining && !ps.isEmpty then some { e with pieces := ps } else none

/-- Every thread of a block is gone (R345). -/
def State.endThreads (s : State) (b : Nat) : State :=
  s.modWork fun y => { y with
    warps := updWhere (fun w => w.block == b) (fun w => { w with threads := Vector.replicate 32 none }) y.warps
    pans := updWhere (fun p => p.block == b) (fun p => { p with threads := [] }) y.pans }

/-- Kill a block with a cause (R350, steps 1 to 4; BLOCK_END takes steps 5 and 6). A killed block keeps its first cause. -/
def State.killBlock (s : State) (b : Nat) (cause : BitVec 8) : State :=
  if s.work.blocks.any (fun x => x.id == b && x.killed.isSome) then s
  else
  let ids := (s.blockFrags b).map (·.id)
  let s := (s.dropFrags ids).dropBound b
  let s := s.modSync fun y => { y with deliveries := y.deliveries.filter (fun d => !(d.block == b && d.failed)) }
  let s := s.modBlock b (fun x => { x with
    run := .ending, killed := some cause, fsb := [], bsb := x.bsb.filterMap Entry.unboundOnly, binds := [], preq := none, saving := false, restoring := false,
    queues := x.queues.map (fun q => q.filter (·.started)) })
  let s := s.endThreads b
  match s.block? b with
  | some x => s.checkGangBars x
  | none => s

/-- The request is one of an engine of the block. -/
def Request.ofEngine (r : Request) (b : Nat) : Bool := match r.purpose with | .engine k _ _ => k == b | _ => false

/-- Forget what the engines of a block have asked for. -/
def State.dropEngine (s : State) (b : Nat) : State :=
  s.modFab fun y => { y with
    requests := y.requests.filter (fun r => !r.ofEngine b), engineWait := y.engineWait.filter (fun w => !w.request.ofEngine b) }

/-- Roll one block back (R349): nothing of it is left, and its grid places it again. -/
def State.rollOne (s : State) (x : Block) (cluster : Nat) : State :=
  let ids := (s.blockFrags x.id).map (·.id)
  let s := (s.dropFrags ids).dropBound x.id
  let s := s.modGrid x.grid (fun g => { g with again := g.again ++ [(x.index, x.relaunches + 1, some cluster)], nrelaunch := g.nrelaunch + 1 })
  let s := s.modWork fun y =>
    { y with
      pans := y.pans.filter (fun p => p.block != x.id)
      warps := y.warps.filter (fun w => w.block != x.id)
      blocks := y.blocks.filter (fun z => z.id != x.id)
      gangs := y.gangs.filter (fun z => !(z.grid == x.grid && z.number == x.gang)) }
  (s.wakeReclaim.modSync fun y => { y with deliveries := y.deliveries.filter (fun d => d.block != x.id) }).dropEngine x.id

/-- The block and the rest of its gang are clean (R347), and none of them is killed (R350). -/
def State.isClean (s : State) (b : Block) : Bool :=
  let bs := s.gangBlocks b.grid b.gang
  b.clean && bs.all (fun x => x.clean && x.killed.isNone) && (match s.grid? b.grid with | some g => bs.length == g.launch.gang | none => true)

/-- Roll a block, or its whole gang, back. -/
def State.rollback (s : State) (b : Block) : State :=
  (s.gangBlocks b.grid b.gang).foldl (fun s x => s.rollOne x b.cluster) s

/-! ## Taking a trap (R326, R327, R340) -/

/-- The trap frame that a fragment's trap writes (R324). -/
def trapFrame (f : Frag) (w : Warp) (others : List Frag) (t : TrapInfo) : TrapFrame :=
  { tpc := f.pc
    tcause := t.cause.code.setWidth 64
    tmask := t.lanes.setWidth 64
    taddr := t.addr
    tinfo := t.info
    tparent := 0#48 ++ BitVec.ofBool f.isSplit ++ 0#2 ++ f.splitFrom ++ 0#3 ++ w.ctx
    tsib := (others.foldl (fun m x => m ||| x.mask) 0#32).setWidth 64 }

/-- The entry waits while another fragment of the warp is in handler mode or a debug stop holds it; `State.frozen` says
that the stop of another warp does. -/
def entryBlocked (others : List Frag) : Bool := others.any (fun x => x.handler || x.run == .stopped)

/-- A debug stop with FREEZE holds the block's other warps (R340). -/
def State.frozen (s : State) (w : Warp) : Bool :=
  (s.blockWarps w.block).any (fun x => x.id != w.id && bit x.dctl 1 && (s.warpFrags x.id).any (fun f => f.run == .stopped))

/-- %dctl.DBG sends the cause to the debugger (R338). -/
def toDebugger (w : Warp) (t : TrapInfo) : Bool :=
  bit w.dctl 2 && (t.cause == .breakpoint || t.cause == .step)

/-- Enter the handler of a trap that the fragment has met, or wait, stop for the debugger, or kill the
block, as R326 lays down. -/
def State.enterTrap (s : State) (f : Frag) (w : Warp) (b : Block) (t : TrapInfo) : State :=
  let others := (s.warpFrags w.id).filter (fun x => x.id != f.id)
  if entryBlocked others || s.frozen w then s.setFrag { f with run := .atEntry t }
  else
    let s1 := s.setWarp { w with frame := trapFrame f w others t }
    if toDebugger w t then
      let s2 := s1.setFrag { f with run := .stopped }
      s2.modFw fun y => { y with stops := y.stops ++ [w.id] }
    else if w.tvec == 0#64 then s1.killBlock b.id t.cause.code
    else if (b.kernel.targetTrap w.tvec).isSome then s1.killBlock b.id Cause.doubleTrap.code
    else s1.setFrag { f with run := .ready, handler := true, pc := w.tvec }

/-- Take a trap: the shared operation of every trapping instruction. In handler mode it is a double trap
(R327). What the fragment has read early is discarded (R104). -/
def State.takeTrap (s : State) (f : Frag) (w : Warp) (b : Block) (t : TrapInfo) : State :=
  let s := (s.forgetEarly (w.serials f.mask)).refund f.id
  if f.handler then s.killBlock b.id Cause.doubleTrap.code
  else s.enterTrap { f with subst := none, arrived := none, replies := [], kept := [], relSent := false, relPaid := [], emptyWait := 0 } w b t

/-! ## Uncorrectable errors (R348, R359) -/

/-- Firmware logs an error with the grid and block it concerns. -/
def State.logError (s : State) (cls kind action : BitVec 8) (unit : BitVec 32) (who : Option Block) : State :=
  let gb := who.bind (fun b => (s.grid? b.grid).map (fun g => (g, b)))
  let r : ErrorRecord :=
    { time := BitVec.ofNat 64 s.time
      cls, kind, action, unit
      grid := match gb with | some x => x.1.gid.queue ++ x.1.gid.seq | none => 0
      block := match gb with | some x => BitVec.ofNat 32 x.2.index | none => 0xFFFFFFFF#32
      job := match gb with | some x => x.1.job | none => 0 }
  s.modFw fun y => { y with elogCount := y.elogCount + 1, elog := (y.elog ++ [r]).drop (y.elog.length + 1 - 32768) }

def Unit9.code : Unit9 → BitVec 8
  | .lane => 1
  | .regFile => 2
  | .buffer => 3
  | .l2 => 4
  | .matrix => 5
  | .hbm => 6
  | .roswald => 7
  | .bridge => 8
  | .sfu => 9

/-- An error starts a self-test of its unit (R356). -/
def State.startTest (s : State) (cls : Unit9) (unit : BitVec 32) : State :=
  s.modRepair fun y => { y with tests := if y.tests.contains (cls, unit) then y.tests else y.tests ++ [(cls, unit)] }

/-- The KIND of a consumed error of a class: a residue mismatch of the matrix unit, a shadow mismatch of a lane or
an SFU, an uncorrectable error of any other (log 64, DESIGN CHOICE). -/
def consumedKind : Unit9 → BitVec 8
  | .matrix => 3
  | .lane | .sfu => 4
  | .regFile | .buffer | .l2 | .hbm | .roswald | .bridge => 2

/-- The channels in service, ascending (R194). -/
def State.liveChannels (s : State) : List Nat := (List.range 256).filter (fun c => !s.repair.retiredChannels.contains c)

/-- Live HBM capacity (R194). -/
def State.nlive (s : State) : Nat := 256 - s.repair.retiredChannels.length
def State.capacity (s : State) : Nat := s.nlive * 2147483648

/-- The channel of a local address. -/
def State.channelOf (s : State) (a : Nat) : Nat := s.liveChannels.getD (a / 256 % s.nlive) 0

/-- The UNIT of an error of HBM (R359). -/
def hbmUnit (channel rank symbol : Nat) : BitVec 32 := BitVec.ofNat 32 (channel % 256 + 256 * (rank % 16) + 4096 * (symbol % 72))

/-- The class and UNIT of an error of the storage at a place, for a block's core: a channel of HBM, with rank and symbol from
a free value, or a buffer's bank (R359). A full frame lies in HBM; the channel of a line of another device is free. -/
def State.placeUnit (s : State) (p : Place) (core fr : Nat) : Unit9 × BitVec 32 :=
  match p with
  | .hbm a => (.hbm, hbmUnit (s.channelOf a) fr (fr / 16))
  | .frame _ _ _ => (.hbm, hbmUnit (s.channelOf (256 * (fr / 1152))) fr (fr / 16))
  | .buf _ _ _ | .lwin _ _ _ => (.buffer, BitVec.ofNat 24 fr ++ BitVec.ofNat 8 core)
  | .far _ _ | .member _ _ _ _ => (.hbm, hbmUnit (fr / 1152) fr (fr / 16))

/-- A fragment's instruction consumes an uncorrectable error of a unit: rollback of a clean block with fewer than
three relaunches, else a POISON trap. The error starts a self-test (R356). -/
def State.consume (s : State) (f : Frag) (w : Warp) (b : Block) (u : Unit9 × BitVec 32) (lanes : Mask) (addr info : DWord) : State :=
  let s := s.startTest u.1 u.2
  if s.isClean b && b.relaunches < 3 then (s.logError (Unit9.code u.1) (consumedKind u.1) 2 u.2 (some b)).rollback b
  else (s.logError (Unit9.code u.1) (consumedKind u.1) 3 u.2 (some b)).takeTrap f w b { cause := .poison, lanes, addr, info }

/-! ## Issuing and retiring an instruction -/

/-- The destination of an instruction, for the descriptor of R325 and the checks of R81. -/
inductive Dst where
  | none
  | vec (d : BitVec 6) (count : Nat)
  | uni (d : BitVec 6)
  | pred (d : BitVec 3)
  | tile (d : BitVec 2)
  | acc (d : BitVec 2)
deriving DecidableEq, Repr

/-- A register an instruction reads (R81). -/
inductive Use where
  | v (r : BitVec 6) (count : Nat)
  | u (r : BitVec 6)
  | t (r : BitVec 2)
  | a (r : BitVec 2)
deriving DecidableEq, Repr

/-- The destination descriptor of R325. -/
def Dst.descriptor : Dst → BitVec 16
  | .none => 0
  | .vec d n => 0#4 ++ BitVec.ofNat 2 (n - 1) ++ d ++ 1#4
  | .uni d => 0#4 ++ 0#2 ++ d ++ 2#4
  | .pred d => 0#4 ++ 0#2 ++ 0#3 ++ d ++ 3#4
  | .tile d => 0#4 ++ 0#2 ++ 0#4 ++ d ++ 4#4
  | .acc d => 0#4 ++ 0#2 ++ 0#4 ++ d ++ 5#4

def vecOk (k : Kernel) (r : BitVec 6) (n : Nat) : Bool := r.toNat + n ≤ k.vreg
def uniOk (k : Kernel) (r : BitVec 6) : Bool := r == 63#6 || r.toNat < k.sreg

def Dst.ok (k : Kernel) : Dst → Bool
  | .none | .pred _ => true
  | .vec d n => vecOk k d n
  | .uni d => uniOk k d
  | .tile d => d.toNat < k.treg
  | .acc d => d.toNat < k.areg

def Use.ok (k : Kernel) : Use → Bool
  | .v r n => vecOk k r n
  | .u r => uniOk k r
  | .t r => r.toNat < k.treg
  | .a r => r.toNat < k.areg

/-- Registers of a fragment (R94): s63 reads zero and ignores writes, predicate 7 reads true. -/
def Frag.getV (f : Frag) (r : BitVec 6) (l : Nat) : Word := (f.v[r.toNat]'r.isLt).toList.getD l 0
def Frag.getU (f : Frag) (r : BitVec 6) : DWord := if r = 63#6 then 0 else f.u[r.toNat]'r.isLt
def Frag.getP (f : Frag) (r : BitVec 3) : Mask := if h : r.toNat < 7 then f.p[r.toNat] else 0xFFFFFFFF#32

/-- Write the lanes of `m` of a vector register (R95). -/
def Frag.setV (f : Frag) (r : BitVec 6) (m : Mask) (g : Nat → Word) : Frag :=
  { f with v := f.v.set r.toNat (Vector.ofFn (fun (l : Fin 32) => if m.getLsbD l then g l else (f.v[r.toNat]'r.isLt)[l])) r.isLt }

def Frag.setU (f : Frag) (r : BitVec 6) (x : DWord) : Frag :=
  if r = 63#6 then f else { f with u := f.u.set r.toNat x r.isLt }

/-- Write the lanes of `m` of a predicate register. -/
def Frag.setP (f : Frag) (r : BitVec 3) (m x : Mask) : Frag :=
  if h : r.toNat < 7 then { f with p := f.p.set r.toNat ((f.p[r.toNat] &&& ~~~m) ||| (x &&& m)) } else f

def Frag.getT (f : Frag) (r : BitVec 2) : Lanes (BitVec 512) := f.t[r.toNat]'r.isLt
def Frag.getA (f : Frag) (r : BitVec 2) : Lanes (Lanes Word) := f.acc[r.toNat]'r.isLt

/-- Write the rows of `m` of a tile. -/
def Frag.setT (f : Frag) (r : BitVec 2) (m : Mask) (g : Nat → BitVec 512) : Frag :=
  { f with t := f.t.set r.toNat (Vector.ofFn (fun (l : Fin 32) => if m.getLsbD l then g l else (f.getT r)[l])) r.isLt }

/-- Write the rows of `m` of an accumulator. -/
def Frag.setA (f : Frag) (r : BitVec 2) (m : Mask) (g : Nat → Lanes Word) : Frag :=
  { f with acc := f.acc.set r.toNat (Vector.ofFn (fun (l : Fin 32) => if m.getLsbD l then g l else (f.getA r)[l])) r.isLt }

/-- What an instruction is executed with. -/
structure Ctx where
  s : State
  f : Frag
  w : Warp
  b : Block
  g : Grid
  act : Mask
  dst : Dst
  words : Nat
deriving DecidableEq, Repr

/-- The guard of R81. -/
def guardMask (f : Frag) (h : Head) : Mask := f.mask &&& (if h.neg then ~~~(f.getP h.g) else f.getP h.g)

/-- ACTIVE (R6): the guarded lanes, less those that RETT .subst supplies (R330). -/
def activeMask (f : Frag) (h : Head) : Mask := guardMask f h &&& ~~~(f.subst.getD 0)

/-- A trap of the instruction, with the descriptor of R325 in %tinfo and `extra` above it. -/
def Ctx.trapWith (c : Ctx) (cause : Cause) (lanes : Mask) (addr info : DWord) : Out :=
  .next (c.s.takeTrap c.f c.w c.b { cause, lanes, addr, info })

def Ctx.descriptor (c : Ctx) : DWord := c.dst.descriptor.setWidth 64

def Ctx.trap (c : Ctx) (cause : Cause) (lanes : Mask) : Out := c.trapWith cause lanes 0 c.descriptor

/-- End the instruction without effect and park (R7); what the fragment has read early is discarded (R104), but while
it waits for a reply younger loads stay performed. -/
def Ctx.parkIn (c : Ctx) (s : State) (why : Park) : Out :=
  let s := if why == .remoteReply then s else s.forgetEarly (c.w.serials c.f.mask)
  .next (s.setFrag { c.f with run := .parked why s.cycle })

def Ctx.park (c : Ctx) (why : Park) : Out := c.parkIn c.s why

/-- The instruction waits unretired and is tried again (R98, R256) (log 57, DEDUCED). -/
def Ctx.waitIn (_ : Ctx) (s : State) : Out := .next s

/-- The substitute values of RETT .subst, committed with the result (R330). -/
def substitute (c : Ctx) (f : Frag) : Frag :=
  match c.f.subst with
  | none => f
  | some m =>
      let tsub := fun l => match c.w.threads.toList.getD l none with | some t => t.tsub | none => 0#32
      match c.dst with
      | .vec d _ => f.setV d m tsub
      | .pred d => f.setP d m (maskOf (fun l => bit (tsub l) 0))
      | _ => f

/-- The fragment after the instruction retires with its program counter at `pc`. -/
def finish (c : Ctx) (f : Frag) (pc : DWord) : Frag :=
  { substitute c f with pc, subst := none, arrived := none, replies := [], kept := [], relSent := false, relPaid := [], emptyWait := 0, run := .ready }

/-- The state tells `step` that an instruction retired (R339). -/
def State.markRetired (s : State) : State := { s with ctl := { s.ctl with retired := true } }

/-- Retire with the fragment's registers as in `f` and the rest of the state as in `s`. -/
def Ctx.retireIn (c : Ctx) (s : State) (f : Frag) : Out :=
  .next ((s.setFrag (finish c f (c.f.pc + BitVec.ofNat 64 (4 * c.words)))).markRetired)

def Ctx.retire (c : Ctx) (f : Frag) : Out := c.retireIn c.s f

/-- The fragment that executes, with its warp, block and grid. -/
def State.current? (s : State) : Option (Frag × Warp × Block × Grid) :=
  match s.ctl.cur with
  | none => none
  | some id =>
      match s.frag? id with
      | none => none
      | some f =>
          match s.warp? f.warp with
          | none => none
          | some w =>
              match s.block? w.block with
              | none => none
              | some b =>
                  match s.grid? b.grid with
                  | none => none
                  | some g => some (f, w, b, g)

/-- The units whose error an instruction may consume: the register file, where it `reads` a register (R348); the matrix unit for
an MMA whose third mismatch this is (R353); a lane or an SFU whose shadow differs at an operation that leaves the registers, in a
block with SHADOW (R352). -/
def Ctx.errorUnits (c : Ctx) (reads : Bool) : List Unit9 :=
  match c.s.ctl.consuming with
  | none => []
  | some x =>
      if x.frag != c.f.id || c.act == 0#32 then []
      else (if reads then [.regFile] else []) ++ (if x.mma then [.matrix] else []) ++ (if x.shadow && c.g.launch.shadow then [.lane, .sfu] else [])

def laneUnit (core part lane : Nat) : BitVec 32 := 0#16 ++ BitVec.ofNat 6 lane ++ BitVec.ofNat 2 part ++ BitVec.ofNat 8 core

/-- The UNIT of an error of a core's unit: a lane of the warp's partition, or a bank (R359). -/
def coreUnit (u : Unit9) (core part fr : Nat) : BitVec 32 :=
  match u with
  | .lane => laneUnit core part (fr % 33)
  | .regFile | .buffer | .l2 | .matrix | .hbm | .roswald | .bridge | .sfu => BitVec.ofNat 24 fr ++ BitVec.ofNat 8 core

/-- The consumption: some lanes of ACTIVE, the descriptor of the instruction, the unit and its bank are free values (log 4)
(log 64, DESIGN CHOICE). -/
def Ctx.consumed (c : Ctx) (reads : Bool) : State :=
  let d := c.s.drawN 3
  let s : State := { d.2 with ctl := { d.2.ctl with consuming := none } }
  let m := c.act &&& BitVec.ofNat 32 (d.1 0)
  let lanes := if m == 0#32 then maskOf (fun l => l == Mask.lowest c.act) else m
  let us := c.errorUnits reads
  let u := us.getD (d.1 1 % us.length) .regFile
  s.consume c.f c.w c.b (u, coreUnit u c.b.core (c.w.ctx.toNat / 8) (d.1 2)) lanes 0 c.descriptor

/-- The instruction reads a register: an operand, or the predicate of its guard. -/
def readsRegs (h : Head) (uses : List Use) : Bool := !uses.isEmpty || h.g != 7#3

/-- Issue an instruction of `words` words (R86): its ILLEGAL_OP conditions first, the register numbers of
R81 among them, then a chain fault, then an error of its registers, then what the entry says (log 59, DESIGN CHOICE). -/
def issueWhen (s : State) (words : Nat) (h : Head) (dst : Dst) (uses : List Use) (legal : Ctx → Bool) (k : Ctx → Out) : Out :=
  match s.current? with
  | none => .fault .noFragment
  | some (f, w, b, g) =>
      let c : Ctx := { s, f, w, b, g, act := activeMask f h, dst, words }
      if !(dst.ok b.kernel && uses.all (Use.ok b.kernel) && legal c) then c.trap .illegalOp f.mask
      else if s.ctl.chainFault then c.trap .illegalChain f.mask
      else if !(c.errorUnits (readsRegs h uses)).isEmpty then .next (c.consumed (readsRegs h uses))
      else k c

def issue (s : State) (words : Nat) (h : Head) (dst : Dst) (uses : List Use) (k : Ctx → Out) : Out :=
  issueWhen s words h dst uses (fun _ => true) k

/-- Issue an instruction of the uniform class (G = 111). -/
def issueU (s : State) (words : Nat) (ch : Bool) (dst : Dst) (uses : List Use) (k : Ctx → Out) : Out :=
  issue s words (uni ch) dst uses k

end Sys2Proof.Machine
end

