-- ==== Sys2Proof/Machine/Birth.lean ====
section
/-! DEFINITION. New threads, fragments, warps and blocks (03 R36; 04 R58; 06 R99, R109). -/

namespace Sys2Proof.Machine

open Sys2Proof

def zeroWords : Lanes Word := Vector.replicate 32 0
def zeroRow : Lanes (BitVec 512) := Vector.replicate 32 0
def zeroAcc : Lanes (Lanes Word) := Vector.replicate 32 zeroWords

/-- A fragment born with its warp: every register zero. -/
def Frag.born (id warp : Nat) (pc : DWord) (mask : Mask) (now : Nat) : Frag :=
  { id, warp, pc, mask, v := Vector.replicate 64 zeroWords, u := Vector.replicate 64 0, p := Vector.replicate 7 0,
    t := Vector.replicate 4 zeroRow, acc := Vector.replicate 4 zeroAcc, fflags := 0, mflags := 0, run := .ready,
    handler := false, isSplit := false, splitFrom := 0, dispatched := now, subst := none, arrived := none, replies := [],
    kept := [], relSent := false, relPaid := [], emptyWait := 0 }

def TrapFrame.zero : TrapFrame := { tpc := 0, tcause := 0, tmask := 0, taddr := 0, tinfo := 0, tparent := 0, tsib := 0 }

/-- A thread at entry. -/
def Thread.born (serial tid : Nat) (tlsbase : DWord) : Thread :=
  { serial, tid, vtid := BitVec.ofNat 32 tid, xen := 0, tsub := 0, tlsbase, depth := 0, stack := [], acquired := [], seen := [] }

def Warp.born (id block : Nat) (ctx : BitVec 5) (threads : Lanes (Option Thread)) (tvec : DWord) : Warp :=
  { id, block, ctx, threads, tvec, frame := TrapFrame.zero, dctl := 0, mstfail := 0, mstNew := (0, 0), pins := Vector.replicate 8 0, raw := Vector.replicate 8 0, lwin := [] }

/-- The lanes of a warp that hold a thread. -/
def Warp.live (w : Warp) : Mask := maskOf (fun l => (w.threads.toList.getD l none).isSome)

def Segment.blank : Segment := { tag := 0, sealedBy := none }

def Block.born (id grid index gang core : Nat) (kernel : Kernel) (quota : Quota) (pdl relaunches : Nat)
    (slots shadows : List (BitVec 5)) (now : Nat) : Block :=
  { id, killed := none, grid, index, gang, core, run := .placed, kernel, quota, a := [], w := [], c := [], fullA := [],
    fullW := [], segs := List.replicate quota.qw Segment.blank, poison := [], bars := Vector.replicate 16 { arrivals := 0, n := 0 },
    binds := [], queues := Vector.replicate 8 [], fsb := [], bsb := [], wire := [], pantimer := 512, preq := none, pdl, saving := false, restoring := false, area := 0, areaLen := 0, clean := true,
    relaunches, placedAt := now, slots, shadows }

end Sys2Proof.Machine
end

