-- ==== Sys2Proof/Machine/Fp.lean ====
section
/-! DEFINITION. Floating-point values and the arithmetic rules of 02_numbers: exact values, one
rounding, flags (R14 to R31). -/

namespace Sys2Proof.Machine

/-- A binary format of R14. -/
structure Fmt where
  width : Nat
  fbits : Nat
  ebits : Nat
  bias : Nat
  /-- E4M3: no infinities, one NaN pattern. -/
  fn : Bool
deriving DecidableEq, Repr

def Fmt.fp32 : Fmt := { width := 32, fbits := 23, ebits := 8, bias := 127, fn := false }
def Fmt.bf16 : Fmt := { width := 16, fbits := 7, ebits := 8, bias := 127, fn := false }
def Fmt.fp16 : Fmt := { width := 16, fbits := 10, ebits := 5, bias := 15, fn := false }
def Fmt.e4m3 : Fmt := { width := 8, fbits := 3, ebits := 4, bias := 7, fn := true }
def Fmt.e5m2 : Fmt := { width := 8, fbits := 2, ebits := 5, bias := 15, fn := false }

/-- The format of an FMT code 1 to 5 (R14). -/
def fmtOf (code : BitVec 4) : Fmt :=
  match code.toNat with
  | 2 => .bf16 | 3 => .fp16 | 4 => .e4m3 | 5 => .e5m2 | _ => .fp32

/-- A value: a NaN that raises NV when it is used or not, an infinity, or (−1)^neg × num × 2^exp. -/
inductive Fv where
  | nan (nv : Bool)
  | inf (neg : Bool)
  | fin (neg : Bool) (num : Nat) (exp : Int)
deriving DecidableEq, Repr

/-- NV, DZ, OF, UF, NX in bits 4 to 0, SAT in bit 5 (R28). -/
abbrev Flags := BitVec 6

def Flags.nv : Flags := 16
def Flags.dz : Flags := 8
def Flags.of : Flags := 4
def Flags.uf : Flags := 2
def Flags.nx : Flags := 1
def Flags.sat : Flags := 32

/-- Rounding modes by their codes of R25. -/
inductive Rm where
  | rne | rz | rdn | rup | rna
deriving DecidableEq, Repr

def rmOf : Nat → Rm
  | 0 => .rne | 1 => .rz | 2 => .rdn | 3 => .rup | _ => .rna

/-- The canonical NaN (R16). -/
def Fmt.canonicalNan (f : Fmt) : Nat :=
  if f.fn then 2 ^ (f.width - 1) - 1 else (2 ^ f.ebits - 1) * 2 ^ f.fbits + 2 ^ (f.fbits - 1)

/-- The largest finite magnitude, as a pattern (R14). -/
def Fmt.maxFinite (f : Fmt) : Nat := if f.fn then 2 ^ (f.width - 1) - 2 else (2 ^ f.ebits - 1) * 2 ^ f.fbits - 1

def Fmt.signBit (f : Fmt) (neg : Bool) : Nat := if neg then 2 ^ (f.width - 1) else 0

/-- The value of a pattern (R14, R16). -/
def Fmt.decode (f : Fmt) (x : Nat) : Fv :=
  let neg := x / 2 ^ (f.width - 1) % 2 == 1
  let e := x / 2 ^ f.fbits % 2 ^ f.ebits
  let m := x % 2 ^ f.fbits
  if f.fn && e == 2 ^ f.ebits - 1 && m == 2 ^ f.fbits - 1 then .nan false
  else if !f.fn && e == 2 ^ f.ebits - 1 then
    if m == 0 then .inf neg else .nan (m < 2 ^ (f.fbits - 1))
  else if e == 0 then .fin neg m (1 - (f.bias : Int) - f.fbits)
  else .fin neg (2 ^ f.fbits + m) ((e : Int) - f.bias - f.fbits)

/-- Divide by `2 ^ sh` and round: the quotient and whether it is inexact. -/
def roundShift (mode : Rm) (neg : Bool) (num sh : Nat) : Nat × Bool :=
  let q := num / 2 ^ sh
  let r := num % 2 ^ sh
  let half := 2 ^ sh / 2
  let up := match mode with
    | .rne => decide (half < r) || (r == half && q % 2 == 1)
    | .rna => decide (half ≤ r)
    | .rz => false
    | .rdn => neg
    | .rup => !neg
  if r = 0 then (q, false) else (if up then q + 1 else q, true)

/-- The result of an overflow (R26). -/
def Fmt.overflow (f : Fmt) (mode : Rm) (sat neg : Bool) : Nat :=
  let big := f.signBit neg + f.maxFinite
  let inf := f.signBit neg + f.maxFinite + 1
  if sat then big
  else if f.fn then inf
  else match mode with
    | .rne | .rna => inf
    | .rz => big
    | .rdn => if neg then inf else big
    | .rup => if neg then big else inf

/-- Round (−1)^neg × num × 2^exp, `num` not 0, to the format (R26). -/
def Fmt.roundFin (f : Fmt) (mode : Rm) (sat neg : Bool) (num : Nat) (exp : Int) : Nat × Flags :=
  let top := (Nat.log2 num : Int) + exp
  let emin : Int := 1 - f.bias
  let tiny := decide (top < emin)
  let q := (if tiny then emin else top) - f.fbits
  let r := if q ≤ exp then (num * 2 ^ (exp - q).toNat, false) else roundShift mode neg num (q - exp).toNat
  let enc := ((q + f.fbits + f.bias - 1).toNat) * 2 ^ f.fbits + r.1
  if f.maxFinite < enc then (f.overflow mode sat neg, Flags.of ||| Flags.nx)
  else (f.signBit neg + enc, if r.2 then (if tiny then Flags.uf ||| Flags.nx else Flags.nx) else 0)

/-- Round a value to the format: `Round` and `Sat` of R6 by R26. -/
def Fmt.round (f : Fmt) (mode : Rm) (sat : Bool) : Fv → Nat × Flags
  | .nan nv => (f.canonicalNan, if nv then Flags.nv else 0)
  | .inf neg =>
      if f.fn then ((if sat then f.signBit neg + f.maxFinite else f.signBit neg + f.maxFinite + 1), Flags.of ||| Flags.nx)
      else (f.signBit neg + f.maxFinite + 1, 0)
  | .fin neg num exp => if num = 0 then (f.signBit neg, 0) else f.roundFin mode sat neg num exp

/-! ## Exact arithmetic -/

def Fv.neg : Fv → Fv
  | .nan x => .nan x
  | .inf s => .inf (!s)
  | .fin s n e => .fin (!s) n e

def Fv.isZero : Fv → Bool
  | .fin _ n _ => n == 0
  | _ => false

/-- The exact product: 0 × ∞ is invalid (R29). -/
def Fv.mul : Fv → Fv → Fv
  | .nan x, .nan y => .nan (x || y)
  | .nan x, _ => .nan x
  | _, .nan y => .nan y
  | .inf s, .inf t => .inf (xor s t)
  | .inf s, .fin t n _ => if n = 0 then .nan true else .inf (xor s t)
  | .fin s n _, .inf t => if n = 0 then .nan true else .inf (xor s t)
  | .fin s n e, .fin t m d => .fin (xor s t) (n * m) (e + d)

/-- The signed numerator of a finite value over `2 ^ base`, with `base` at most its exponent. -/
def Fv.numOver (base : Int) : Fv → Int
  | .fin s n e => (if s then -1 else 1) * ((n * 2 ^ (e - base).toNat : Nat) : Int)
  | _ => 0

def Fv.expOf : Fv → Option Int
  | .fin _ n e => if n = 0 then none else some e
  | _ => none

def Fv.isNan : Fv → Bool
  | .nan _ => true
  | _ => false

def Fv.isSnan : Fv → Bool
  | .nan nv => nv
  | _ => false

def Fv.isNeg : Fv → Bool
  | .nan _ => false
  | .inf s => s
  | .fin s _ _ => s

/-- The exact sum of any number of terms (R17, R29, R31): a NaN among them, or infinities of both
signs, give a NaN; a zero sum keeps the sign that all its terms share. -/
def sumFv (mode : Rm) (ts : List Fv) : Fv :=
  let pos := ts.any (· == .inf false)
  let negI := ts.any (· == .inf true)
  if ts.any Fv.isNan || (pos && negI) then .nan (ts.any Fv.isSnan || (pos && negI))
  else if pos then .inf false
  else if negI then .inf true
  else
    let exps := ts.filterMap Fv.expOf
    let base := exps.foldl min (exps.headD 0)
    let total := ts.foldl (fun acc t => acc + Fv.numOver base t) 0
    if total = 0 then
      let allNeg := ts.all Fv.isNeg && !ts.isEmpty
      let allPos := ts.all (fun t => !t.isNeg)
      .fin (if allNeg then true else if allPos && exps.isEmpty then false else mode == .rdn) 0 0
    else .fin (decide (total < 0)) total.natAbs base

def fp32 (x : Word) : Fv := Fmt.fp32.decode x.toNat

/-- Order two values that are not NaN; −0 equals +0. -/
def Fv.lt : Fv → Fv → Bool
  | .inf s, .inf t => s && !t
  | .inf s, .fin _ _ _ => s
  | .fin _ _ _, .inf t => !t
  | .fin s n e, .fin t m d =>
      let base := min e d
      decide (Fv.numOver base (.fin s n e) < Fv.numOver base (.fin t m d))
  | _, _ => false

def Fv.eqv (a b : Fv) : Bool := !a.isNan && !b.isNan && !a.lt b && !b.lt a

/-- FMIN (`mx` false) and FMAX of two patterns (R17). -/
def Fmt.minmax (f : Fmt) (mx : Bool) (x y : Nat) : Nat × Flags :=
  let a := f.decode x
  let b := f.decode y
  let fl := if a.isSnan || b.isSnan then Flags.nv else 0
  if a.isNan && b.isNan then (f.canonicalNan, fl)
  else if a.isNan then (y, fl)
  else if b.isNan then (x, fl)
  else
    let less := a.lt b || (a.eqv b && a.isNeg && !b.isNeg)
    ((if mx == less then y else x), fl)

/-- Round a finite value to an integer. -/
def roundToInt (mode : Rm) (neg : Bool) (num : Nat) (exp : Int) : Int × Bool :=
  let r := if 0 ≤ exp then (num * 2 ^ exp.toNat, false) else roundShift mode neg num (-exp).toNat
  (if neg then -(r.1 : Int) else r.1, r.2)

/-- Convert to an integer in `lo` to `hi` (R27). -/
def fvToInt (mode : Rm) (lo hi : Int) : Fv → Int × Flags
  | .nan _ => (0, Flags.nv)
  | .inf s => (if s then lo else hi, Flags.nv)
  | .fin s n e =>
      let r := roundToInt mode s n e
      if r.1 < lo then (lo, Flags.nv) else if hi < r.1 then (hi, Flags.nv)
      else (r.1, if r.2 then Flags.nx else 0)

def intToFv (x : Int) : Fv := .fin (decide (x < 0)) x.natAbs 0

/-- FP32 addition rounded once under RNE (R32, R33). -/
def addFp32 (x y : Word) : Word × Flags :=
  let r := Fmt.fp32.round .rne false (sumFv .rne [fp32 x, fp32 y])
  (BitVec.ofNat 32 r.1, r.2)

/-! ## 4-bit codes (R21, R22) -/

/-- Twice the magnitudes of the three signed code types, by bits [2:0]. -/
def q4Magnitudes (type : BitVec 2) : List Nat :=
  match type.toNat with
  | 1 => [0, 2, 4, 6, 8, 12, 16, 24]
  | 2 => [0, 1, 2, 4, 8, 16, 32, 64]
  | _ => [0, 4, 8, 12, 16, 32, 64, 128]

/-- The value of a 4-bit code: quarters for the signed types, halves for HS4. -/
def q4Value (type : BitVec 2) (code : BitVec 4) : Fv :=
  if type == 0#2 then
    let v : Int := 2 * code.toNat - 15
    .fin (decide (v < 0)) v.natAbs (-1)
  else .fin (bit code 3) ((q4Magnitudes type).getD (code.toNat % 8) 0) (-2)

def Fv.scale (v : Fv) (k : Int) : Fv :=
  match v with
  | .fin s n e => .fin s n (e + k)
  | x => x

/-- An element of a Q4 block by its scale byte (R22). -/
def q4Decode (scale : Byte) (code : BitVec 4) : Fv :=
  let e := bits scale 0 6
  if e == 63#6 then .nan false else (q4Value (bits scale 6 2) code).scale ((e.toNat : Int) - 31)

end Sys2Proof.Machine
end

