-- ==== Sys2Proof/Machine/Operands.lean ====
section
/-! DEFINITION. Operand forms: lane and uniform operands, the address of R82, halves, bytes and nibbles
(05 R81 to R83; 07 R116). -/

namespace Sys2Proof.Machine

open Sys2Proof

/-- `half(x, h)`, `byte(x, j)`, `nib(x, i)` of R116. -/
def halfOf (x : Word) (h : Nat) : BitVec 16 := x.extractLsb' (16 * h) 16
def byteOf (x : Word) (j : Nat) : BitVec 8 := x.extractLsb' (8 * j) 8
def nibOf (x : Word) (i : Nat) : BitVec 4 := x.extractLsb' (4 * i) 4

/-- An 8-bit operand, signed or not (R19). -/
def val8 (x : BitVec 8) (signed : Bool) : Int := if signed then x.toInt else (x.toNat : Int)

/-- The low 32 bits of an integer. -/
def low32 (x : Int) : Word := BitVec.ofInt 32 x

/-- The low 64 bits of an integer. -/
def low64 (x : Int) : DWord := BitVec.ofInt 64 x

/-- A two-operand lane result. -/
def Ctx.vec2 (c : Ctx) (d a b : BitVec 6) (g : Word → Word → Word) : Out :=
  c.retire (c.f.setV d c.act (fun l => g (c.f.getV a l) (c.f.getV b l)))

/-- A one-operand lane result. -/
def Ctx.vec1 (c : Ctx) (d a : BitVec 6) (g : Word → Word) : Out :=
  c.retire (c.f.setV d c.act (fun l => g (c.f.getV a l)))

/-- A uniform result. -/
def Ctx.uniform (c : Ctx) (d : BitVec 6) (x : DWord) : Out := c.retire (c.f.setU d x)

/-- A predicate result in the active lanes. -/
def Ctx.predicate (c : Ctx) (d : BitVec 3) (p : Nat → Bool) : Out := c.retire (c.f.setP d c.act (maskOf p))

/-- The comparisons of R123 on integers. -/
def cmpHolds (o : Cmp) (x y : Int) : Bool :=
  match o with
  | .eq => x == y
  | .ne => x != y
  | .lt => decide (x < y)
  | .le => decide (x ≤ y)
  | .gt => decide (y < x)
  | .ge => decide (y ≤ x)

def int32 (sg : Bool) (x : Word) : Int := if sg then x.toInt else (x.toNat : Int)
def int64 (sg : Bool) (x : DWord) : Int := if sg then x.toInt else (x.toNat : Int)

/-- A 12-bit displacement. -/
def disp12 (i : BitVec 12) : DWord := i.signExtend 64

/-- The displacement of R82: IMM12, or IMM8 for ATOM, RED and REDM. -/
def memDisp (m : MemOp) (atomic : Bool) : DWord :=
  if atomic then (bits m.imm 0 8).signExtend 64 else disp12 m.imm

/-- The address of a lane (R82). -/
def laneAddr (f : Frag) (m : MemOp) (atomic : Bool) (l : Nat) : DWord :=
  f.getU m.a + (if m.ix then (f.getV m.b l).signExtend 64 * BitVec.ofNat 64 (2 ^ m.os.toNat) else 0) + memDisp m atomic

/-- The registers that form an address. -/
def memUses (m : MemOp) : List Use := if m.ix then [.u m.a, .v m.b 1] else [.u m.a]

/-- The datum of a lane in a register group: register D + k holds bytes 4k to 4k + 3 (R219). -/
def laneBytes (f : Frag) (d : BitVec 6) (l n : Nat) : List Byte :=
  (List.range n).map (fun i => byteOf (f.getV (d + BitVec.ofNat 6 (i / 4)) l) (i % 4))

/-- The width in bytes and the register count of WD (R83, R219). -/
def memBytes (m : MemOp) : Nat := bytesOfWd m.wd
def memRegs (m : MemOp) : Nat := regsOfWd m.wd

/-- A loaded datum extended to 32 bits, or word `k` of it (R222). -/
def loadedWord (m : MemOp) (bs : List Byte) (k : Nat) : Word :=
  if memBytes m < 4 then
    (match memBytes m, m.sg with
     | 1, true => (ofBytes 8 bs).signExtend 32
     | 1, false => (ofBytes 8 bs).setWidth 32
     | _, true => (ofBytes 16 bs).signExtend 32
     | _, false => (ofBytes 16 bs).setWidth 32)
  else ofBytes 32 (bs.drop (4 * k))

/-- Write the register group of a load in the lanes of `act`. -/
def writeLoaded (f : Frag) (d : BitVec 6) (m : MemOp) (act : Mask) (data : Nat → List Byte) : Frag :=
  (List.range (memRegs m)).foldl (fun f k => f.setV (d + BitVec.ofNat 6 k) act (fun l => loadedWord m (data l) k)) f

end Sys2Proof.Machine
end

