-- ==== Sys2Proof/Machine/Translate.lean ====
section
/-! DEFINITION. Virtual addresses, page tables and the checks of an access (09 R169 to R191, R199). -/

namespace Sys2Proof.Machine

open Sys2Proof

/-! ## Page-table entries (R182 to R185) -/

/-- A leaf found by a walk: the entry, where it lies, and the page it maps. -/
structure Leaf where
  job : BitVec 16
  entry : Nat
  pte : BitVec 128
  page : DWord
  size : Nat
deriving DecidableEq, Repr

def pteV (e : BitVec 128) : Bool := bit e 0
def pteX (e : BitVec 128) : Bool := bit e 1
def pteW (e : BitVec 128) : Bool := bit e 2
def pteR (e : BitVec 128) : Bool := bit e 3
def pteSz (e : BitVec 128) : BitVec 2 := bits e 4 2
def pteShst (e : BitVec 128) : BitVec 3 := bits e 6 3
def pteRole (e : BitVec 128) : Bool := bit e 9
def pteFmt (e : BitVec 128) : BitVec 4 := bits e 10 4
def pteBg (e : BitVec 128) : BitVec 2 := bits e 14 2
def pteNr (e : BitVec 128) : Bool := bit e 16
def pteCa (e : BitVec 128) : Bool := bit e 17
def pteKy (e : BitVec 128) : Bool := bit e 18
def ptePfn (e : BitVec 128) : BitVec 36 := bits e 20 36
def pteSgid (e : BitVec 128) : BitVec 12 := bits e 56 12
def pteGen (e : BitVec 128) : BitVec 16 := bits e 68 16
def pteTag (e : BitVec 128) : BitVec 6 := pteBg e ++ pteFmt e

/-- Set bits `lo` to `lo + w - 1` of an entry. -/
def setBits (e : BitVec 128) (lo w : Nat) (x : Nat) : BitVec 128 :=
  BitVec.ofNat 128 (e.toNat - (e.toNat / 2 ^ lo % 2 ^ w) * 2 ^ lo + (x % 2 ^ w) * 2 ^ lo)

def pteSetShst (e : BitVec 128) (x : Nat) : BitVec 128 := setBits e 6 3 x
def pteSetGen (e : BitVec 128) (x : Nat) : BitVec 128 := setBits e 68 16 x

/-- The SHST codes of R184. -/
def shPrivate : BitVec 3 := 0
def shSharded : BitVec 3 := 1
def shGathering : BitVec 3 := 2
def shGathered : BitVec 3 := 3
def shPartial : BitVec 3 := 4
def shDraining : BitVec 3 := 5
def shPending : BitVec 3 := 6
def shFailed : BitVec 3 := 7

/-- The rows of R24. -/
def fmtRow (fmt : BitVec 4) (bg : BitVec 2) : Bool :=
  (bg == 0#2 && (fmt.toNat ≤ 8 || fmt == 10#4)) || (fmt == 9#4 && (bg == 1#2 || bg == 2#2))

/-- The page size of an SZ code (R184). -/
def sizeOfSz (sz : BitVec 2) : Nat := if sz == 0#2 then 65536 else if sz == 1#2 then 2097152 else 1073741824

/-- The levels of R182 from the root down: VA shift, index bits. -/
def levels : List (Nat × Nat) := [(48, 9), (39, 9), (30, 9), (21, 9), (16, 5)]

/-- A leaf entry of a size that its level allows, with its reserved fields zero and its frame aligned. -/
def leafValid (shift : Nat) (e : BitVec 128) : Bool :=
  pteV e && bits e 84 16 == 0#16 && !bit e 19 && fmtRow (pteFmt e) (pteBg e)
    && ((shift == 16 && pteSz e == 0#2)
      || (shift == 21 && pteSz e == 1#2 && (ptePfn e).toNat % 32 == 0)
      || (shift == 30 && pteSz e == 2#2 && (ptePfn e).toNat % 16384 == 0))

/-- A valid pointer entry (R183) to a node of the next level: 8 KiB aligned, 512 bytes for level 0. -/
def pointerValid (shift : Nat) (e : BitVec 128) : Bool :=
  pteV e && pteSz e == 3#2 && bits e 1 3 == 0#3 && bits e 6 3 == 0#3 && bits e 52 48 == 0#48
    && (shift == 21 || bits e 9 4 == 0#4) && shift != 16

def pointerNext (e : BitVec 128) : Nat := (bits e 9 43).toNat * 512

/-- The entry at a physical address of local HBM. -/
def pteAt (m : Memory) (pa : Nat) : BitVec 128 := ofBytes 128 (m.getN pa 16)

/-- The sluice engine writes an entry (R182). -/
def State.putPte (s : State) (pa : Nat) (e : BitVec 128) : State := s.modMem fun y => { y with hbm := y.hbm.putN pa (bytesOf e 16) }

/-- Walk the tree from a node (R182). An entry that breaks the layouts counts as invalid (R185). -/
def walkFrom (m : Memory) (va : DWord) : List (Nat × Nat) → Nat → Option (Nat × BitVec 128 × Nat)
  | [], _ => none
  | (shift, w) :: rest, node =>
      let pa := node + 16 * (va.toNat / 2 ^ shift % 2 ^ w)
      let e := pteAt m pa
      if leafValid shift e then some (pa, e, 2 ^ shift)
      else if pointerValid shift e then walkFrom m va rest (pointerNext e)
      else none

/-- A canonical address: bits 63 to 57 all equal bit 56 (R169, R181). -/
def canonical (va : DWord) : Bool := bits va 56 8 == 0#8 || bits va 56 8 == 0xFF#8

def pageBase (va : DWord) (size : Nat) : DWord := BitVec.ofNat 64 (va.toNat / size * size)

/-- Deferred fills of a job are still to be done, and nothing of its resumed blocks goes on (R214, R335). -/
def State.filling (s : State) (job : BitVec 16) : Bool :=
  (match s.job? job with | some j => !j.deferred.isEmpty | none => false) || s.mem.transitions.any (fun t => t.job == job && t.kind == .fill)

def State.blockFilling (s : State) (b : Block) : Bool := match s.grid? b.grid with | some g => s.filling g.job | none => false

/-- The leaf that maps a VA of a job. -/
def State.leaf? (s : State) (job : BitVec 16) (va : DWord) : Option Leaf :=
  if !canonical va then none else
    match s.job? job with
    | none => none
    | some j =>
        match walkFrom s.mem.hbm va levels j.root with
        | none => none
        | some (pa, e, size) => some { job, entry := pa, pte := e, page := pageBase va size, size }

/-! ## TLBs (R188, R190) -/

/-- The TLB of the core or of its cluster holds the translation. -/
def State.translated (s : State) (core : Nat) (job : BitVec 16) (page : DWord) : Bool :=
  s.mem.l1.contains ⟨core, job, page⟩ || s.mem.l2.contains ⟨core / 16, job, page⟩

/-- Drop translations from every TLB of the device. -/
def State.dropTranslations (s : State) (p : BitVec 16 → DWord → Bool) : State :=
  s.modMem fun y => { y with l1 := y.l1.filter (fun x => !p x.job x.page), l2 := y.l2.filter (fun x => !p x.job x.page) }

/-- What threads have read early of a page's full frame is void: it was read under the leaf as it stood (R205). -/
def State.forgetPage (s : State) (job : BitVec 16) (page : DWord) : State :=
  s.modSync fun y => { y with early := y.early.filter (fun e => match e.place with | .frame j g _ => !(j == job && g == page) | _ => true) }

/-- Change a leaf, and drop its translations (R190). -/
def State.setLeaf (s : State) (lf : Leaf) (e : BitVec 128) : State :=
  ((s.putPte lf.entry e).dropTranslations (fun j p => j == lf.job && p == lf.page)).forgetPage lf.job lf.page

/-- The place of a physical address (R181): a remote address that names this device is local. -/
def placeOfPa (pa : Nat) : Place :=
  let dev := BitVec.ofNat 11 (pa / 2 ^ 40)
  if pa / 2 ^ 51 % 2 = 0 || dev == selfDev then .hbm (pa % 2 ^ 40) else .far dev (pa % 2 ^ 40)

/-- The place of a VA under a leaf: its frame, or the full frame of a GATHERED or PARTIAL page (R203). -/
def Leaf.place (lf : Leaf) (va : DWord) : Place :=
  let off := va.toNat - lf.page.toNat
  if pteShst lf.pte == shPrivate then placeOfPa ((ptePfn lf.pte).toNat * 65536 + off) else .frame lf.job lf.page off

/-- The shard frame of the leaf. -/
def Leaf.shard (lf : Leaf) (off : Nat) : Place := placeOfPa ((ptePfn lf.pte).toNat * 65536 + off)

/-! ## Checks of one access (R191) -/

/-- The kinds of access of R186, with what each needs. -/
inductive Access where
  | read | write | both | redm
  /-- A read that stands for no data: TOUCH and EVICT. -/
  | touch
deriving DecidableEq, Repr

def Access.permitted (k : Access) (e : BitVec 128) : Bool :=
  match k with
  | .read | .touch => pteR e
  | .write => pteW e
  | .both => pteR e && pteW e
  | .redm => pteW e && pteNr e

def Access.writes : Access → Bool
  | .write | .both | .redm => true
  | _ => false

/-- What the check of one lane gives (R191): the place of the access, a trap of a row, or a wait of row 9
for a translation or for a page. -/
inductive Check where
  | ok (p : Place) (leaf : Option Leaf)
  | bad (row : Nat) (cause : Cause) (sgid : BitVec 12)
  | miss (leaf : Leaf)
  | wait (leaf : Leaf)
deriving DecidableEq, Repr

/-- A range held by a collective meets the bytes of an access by VA (R305). -/
def State.rangeHeld (s : State) (job : BitVec 16) (va : DWord) (n : Nat) : Bool :=
  s.coll.ranges.any (fun r => r.coll.isSome && r.job == job && r.len != 0 && va.toNat < r.base.toNat + r.len && r.base.toNat < va.toNat + n)

/-- The group of a sharded leaf stands as R201 requires. -/
def State.groupOk (s : State) (lf : Leaf) : Bool :=
  match s.group? (pteSgid lf.pte) with
  | some g => bit g.flags 0 && bit g.flags 1 && g.job == lf.job
  | none => false

/-- Row 5 for a sharded page: a write to a weight page traps PERMISSION in every state (R204). -/
def weightWrite (k : Access) (e : BitVec 128) : Bool :=
  pteShst e != shPrivate && !pteRole e && k.writes

/-- Rows 3 to 9 for a g access of `n` bytes at `va` by a core. `keyed` is the row 6 condition of the instruction. -/
def State.checkG (s : State) (core : Nat) (job : BitVec 16) (va : DWord) (n : Nat) (k : Access) (keyed : BitVec 128 → Bool)
    (extra : BitVec 128 → Bool) : Check :=
  if !canonical va then .bad 3 .noMapping 0
  else match s.leaf? job va with
  | none => .bad 4 .noMapping 0
  | some lf =>
      if !k.permitted lf.pte || weightWrite k lf.pte || extra lf.pte then .bad 5 .permission 0
      else if keyed lf.pte then .bad 6 .keyRefused 0
      else if s.rangeHeld job va n then .bad 7 .rangeBusy 0
      else if pteShst lf.pte == shPrivate then
        if s.translated core job lf.page then .ok (lf.place va) (some lf) else .miss lf
      else if pteShst lf.pte == shFailed || !s.groupOk lf then .bad 8 .shardLost (pteSgid lf.pte)
      else if !s.translated core job lf.page then .miss lf
      else if pteShst lf.pte == shGathered || pteShst lf.pte == shPartial then .ok (lf.place va) (some lf)
      else .wait lf

/-- A sealed segment of W meets the bytes (R176). -/
def sealedAt (b : Block) (a n : Nat) : Bool :=
  (List.range ((a % 65536 + n + 65535) / 65536)).any (fun i => match b.segs[a / 65536 + i]? with
    | some g => g.sealedBy.isSome
    | none => false)

/-- Rows 3 and 6 for a buffer of a block. -/
def checkBuf (b : Block) (x : Buf) (limit : Nat) (a : DWord) (n : Nat) : Check :=
  if limit < a.toNat + n then .bad 3 .bufferBounds 0
  else if x == .w && sealedAt b a.toNat n then .bad 6 .keyRefused 0
  else .ok (.buf b.id x a.toNat) none

def Block.limit (b : Block) : Buf → Nat
  | .a => b.quota.qa * 4096
  | .w => b.quota.qw * 65536
  | .c => b.quota.qc * 4096

/-- Row 3 and 6 for cw and ca (R172). A block of the gang that has ended or was killed has no buffer any more, and the access
traps BUFFER_BOUNDS (log 76, DESIGN CHOICE). -/
def State.checkGang (s : State) (g : Grid) (b : Block) (x : Buf) (a : DWord) (n : Nat) : Check :=
  let k := (bits a 20 4).toNat
  if bits a 24 40 != 0#40 || g.launch.gang ≤ k then .bad 3 .bufferBounds 0
  else match s.gangMember g b k with
  | none => .bad 3 .bufferBounds 0
  | some m => checkBuf m x (m.limit x) (bits a 0 20 |>.setWidth 64) n

/-- Rows 2 to 9 of R191 for one lane: `n` bytes of access kind `k` at address `a` of space `sp`. -/
def State.check (s : State) (g : Grid) (w : Warp) (b : Block) (sp : Space) (lane : Nat) (a : DWord) (n : Nat) (k : Access)
    (keyed extra : BitVec 128 → Bool) : Check :=
  if a.toNat % n != 0 then .bad 2 .misaligned 0
  else match sp with
  | .g => s.checkG b.core g.job a n k keyed extra
  | .a => checkBuf b .a (b.limit .a) a n
  | .w => checkBuf b .w (b.limit .w) a n
  | .c => checkBuf b .c (b.limit .c) a n
  | .l => if b.quota.ql < a.toNat + n then .bad 3 .bufferBounds 0 else .ok (.lwin w.id lane a.toNat) none
  | .t =>
      if g.launch.tlsb < a.toNat + n then .bad 3 .bufferBounds 0
      else match w.threads.toList.getD lane none with
        | some t => s.checkG b.core g.job (t.tlsbase + a) n k keyed extra
        | none => .bad 3 .bufferBounds 0
  | .cw => s.checkGang g b .w a n
  | .ca => s.checkGang g b .a a n

/-- The address that %taddr and the store buffer name: the VA of a t access. -/
def laneVa (w : Warp) (sp : Space) (lane : Nat) (a : DWord) : DWord :=
  match sp, w.threads.toList.getD lane none with
  | .t, some t => t.tlsbase + a
  | _, _ => a

def Check.row : Check → Nat
  | .ok _ _ => 12
  | .bad r _ _ => r
  | .miss _ | .wait _ => 9

/-! ## Full frames (R203, R205 to R207, R216) -/

/-- Take a full frame for a page, zero-filled (R203, R205). -/
def State.takeFrame (s : State) (lf : Leaf) : State :=
  s.modMem fun y =>
    { y with frames := y.frames ++ [{ job := lf.job, page := lf.page, size := lf.size, mem := [], poison := [], charged := true }],
             framePool := y.framePool - lf.size / 65536 }

/-- DESIGN CHOICE (log 30). -/
def State.frameFree (s : State) (size : Nat) : Bool := size / 65536 ≤ s.mem.framePool

def State.dropFrame (s : State) (job : BitVec 16) (page : DWord) (size : Nat) : State :=
  match s.frame? job page with
  | some x => s.modMem fun y => { y with
      frames := y.frames.filter (fun x => !(x.job == job && x.page == page)), framePool := y.framePool + (if x.charged then size / 65536 else 0) }
  | none => s

/-- Charge a full frame to its job, or no longer (R206). -/
def State.charge (s : State) (x : FullFrame) (on : Bool) : State :=
  if x.charged == on then s
  else (s.setFrame { x with charged := on }).modMem fun y =>
    { y with framePool := if on then y.framePool - x.size / 65536 else y.framePool + x.size / 65536 }

/-- Whether a write can be performed at a place now: a draining page makes it wait (R216), and so does a page whose
fresh partial copy finds no frame (R207). -/
def State.canReach (s : State) (p : Place) : Bool :=
  match p with
  | .frame j g _ =>
      match s.leaf? j g with
      | none => true
      | some lf =>
          if pteShst lf.pte == shDraining then false
          else if pteShst lf.pte == shSharded then s.frameFree lf.size else true
  | _ => true

/-- A SHARDED gradient page takes a fresh partial copy before a write reaches it (R216). -/
def State.freshPartial (s : State) (p : Place) : State :=
  match p with
  | .frame j g _ =>
      match s.leaf? j g with
      | some lf =>
          if pteShst lf.pte == shSharded && pteRole lf.pte then (s.takeFrame lf).setLeaf lf (pteSetShst lf.pte shPartial.toNat) else s
      | none => s
  | _ => s

end Sys2Proof.Machine
end

