-- ==== Sys2Proof/Machine/Redm.lean ====
section
/-! DEFINITION. REDM: its operators, and its application at a home in arrival order (02 R32; 09 R197; 12 R254). -/

namespace Sys2Proof.Machine

open Sys2Proof

/-! ## Operators (R197) -/

/-- One half of a packed BF16 application. -/
def bf16Op (k : Nat) (x y : BitVec 16) : BitVec 16 :=
  match k with
  | 0 => BitVec.ofNat 16 (Fmt.bf16.round .rne false (sumFv .rne [Fmt.bf16.decode x.toNat, Fmt.bf16.decode y.toNat])).1
  | 1 => BitVec.ofNat 16 (Fmt.bf16.minmax true x.toNat y.toNat).1
  | _ => BitVec.ofNat 16 (Fmt.bf16.minmax false x.toNat y.toNat).1

/-- One application of R197 to a 32-bit element, by the AOP codes of R228. -/
def redmOp (aop : BitVec 4) (old x : Word) : Word :=
  match aop.toNat with
  | 0 => (addFp32 old x).1
  | 1 => BitVec.ofNat 32 (Fmt.fp32.minmax true old.toNat x.toNat).1
  | 2 => BitVec.ofNat 32 (Fmt.fp32.minmax false old.toNat x.toNat).1
  | 3 | 4 | 5 => bf16Op (aop.toNat - 3) (halfOf old 1) (halfOf x 1) ++ bf16Op (aop.toNat - 3) (halfOf old 0) (halfOf x 0)
  | 6 => old + x
  | 7 => if old.toInt ≤ x.toInt then x else old
  | _ => if old.toInt ≤ x.toInt then old else x

/-! ## Application -/

/-- The bytes of a word under `p` after a REDM (R197). -/
def redmBytes (old : List Byte) (aop : BitVec 4) (x : Word) : List Byte := bytesOf (redmOp aop (ofBytes 32 old) x) 4

/-- The REDM is applied to a word that some fragment does not see whole, or begins to be one (R254). -/
def State.noteRedm (s : State) (x : Redm) : State :=
  if s.sync.hidden.any (fun h => h.place == x.place) then
    s.modSync fun y => { y with hidden := updWhere (fun h => h.place == x.place) (fun h => { h with ops := h.ops ++ [.redm x] }) y.hidden }
  else if x.readers.isEmpty then s
  else s.modSync fun y => { y with hidden := y.hidden ++ [{ place := x.place, base := s.getAt x.place 4, ops := [.redm x] }] }

/-- One REDM application at its word of main memory. -/
def State.applyRedm (s : State) (x : Redm) : State :=
  (s.noteRedm x).setBytes x.place (redmBytes (s.getAt x.place 4) x.aop x.word)

/-- A REDM that every fragment sees at once: it has none on this device (R254). -/
def State.redmAt (s : State) (p : Place) (aop : BitVec 4) (x : Word) : State :=
  s.applyRedm { id := 0, block := 0, threads := [], colour := 0, place := p, aop, word := x, readers := [] }

/-- A REDM on its way reaches its home and is applied there, after those applied before it (R32, R254): the order of
arrival is a free choice (log 66, DESIGN CHOICE). At a DRAINING page it waits, and at a SHARDED one it takes a fresh partial
copy (R216). -/
def State.landRedm (s : State) (x : Redm) : State :=
  if !s.canReach x.place then s
  else ((s.modSync fun y => { y with redms := y.redms.filter (fun r => r.id != x.id) }).freshPartial x.place).applyRedm x

/-- Apply those REDMs on their way that `p` selects. -/
def State.landRedms (s : State) (p : Redm → Bool) : State := (s.sync.redms.filter p).foldl (fun s x => s.landRedm x) s

/-- A REDM sets out for its home when it is performed; nothing of its own fragment but a fence orders it (R254). -/
def State.sendRedm (s : State) (block : Nat) (threads readers : List Nat) (colour : BitVec 3) (place : Place) (aop : BitVec 4) (word : Word) : State :=
  let r := s.fresh
  r.2.modSync fun y => { y with redms := y.redms ++ [{ id := r.1, block, threads, colour, place, aop, word, readers }] }

/-! ## What a fragment does not see yet (R254) -/

/-- One step of a word as a thread sees it. -/
def WordOp.view (t : Nat) (w : List Byte) : WordOp → List Byte
  | .redm x => if x.readers.contains t then w else redmBytes w x.aop x.word
  | .put i b => w.set i b

/-- The word as a thread sees it. -/
def Hidden.view (h : Hidden) (t : Nat) : List Byte := h.ops.foldl (WordOp.view t) h.base

/-- Some fragment does not see a REDM of the word. -/
def Hidden.stands (h : Hidden) : Bool := h.ops.any (fun o => match o with | .redm x => !x.readers.isEmpty | .put _ _ => false)

/-- A byte of main memory as a thread sees it, without the REDMs of its fragment that it does not see yet. -/
def State.byteFor (s : State) (t : Nat) (q : Place) : Byte :=
  match s.sync.hidden.findSome? (fun h => (h.place.offset q).bind (fun k => (h.view t)[k]?)) with
  | some b => b
  | none => (s.getAt q 1).headD 0

/-- REDMs that `p` selects are seen by every fragment from here on. -/
def State.reveal (s : State) (p : Redm → Bool) : State :=
  let seen := fun (o : WordOp) => match o with
    | .redm x => .redm (if p x then { x with readers := [] } else x)
    | .put i b => .put i b
  if s.sync.hidden.isEmpty then s
  else s.modSync fun y => { y with hidden := (y.hidden.map (fun h => { h with ops := h.ops.map seen })).filter Hidden.stands }

end Sys2Proof.Machine
end

