-- ==== Sys2Proof/Machine/Send.lean ====
section
/-! DEFINITION. Sending packets, request tags and allowances (14 R290, R294, R299 to R301). -/

namespace Sys2Proof.Machine

open Sys2Proof

def clsReq : BitVec 2 := 0
def clsRsp : BitVec 2 := 1
def clsPage : BitVec 2 := 2
def clsMgt : BitVec 2 := 3

/-- The output port of a route for a class. -/
def portOf (r : RouteEntry) (cls : BitVec 2) : BitVec 8 :=
  match cls.toNat with
  | 0 => r.req
  | 1 => r.rsp
  | 2 => r.page
  | _ => r.mgt

def State.route? (s : State) (dev : BitVec 11) : Option RouteEntry :=
  (s.fab.routes.find? (fun r => r.dev == dev)).map (·.entry)

/-- A port number of R8 (log 42, DEDUCED). -/
def isPort (p : BitVec 8) : Bool := p.toNat < 18

/-- The channel of a class at a hop: 4 × class + hop, and 12 for MGT, whatever its hop (R295). -/
def channel (cls hop : BitVec 2) : Nat := if cls == clsMgt then 12 else 4 * cls.toNat + hop.toNat

/-- A route through a restricted link whose hop-0 channel of the class is missing (R296). -/
def State.routeBarred (s : State) (r : RouteEntry) (cls : BitVec 2) : Bool :=
  s.fab.restricted.any (fun x => x.1 == (portOf r cls).toNat && x.2.contains (channel cls 0))

/-- A packet of the class to the destination may be injected (R294, R296). -/
def State.canInject (s : State) (dev : BitVec 11) (cls : BitVec 2) : Bool :=
  (match s.route? dev with
   | some r => isPort (portOf r cls) && !s.routeBarred r cls
   | none => false)
    && !s.fab.injectHolds.any (fun h => h.dev == dev && h.cls == cls)

def sentZero (dev : BitVec 11) : Sent := { dev, req := 0, rsp := 0, page := 0 }

def Sent.of (x : Sent) (cls : BitVec 2) : Word :=
  match cls.toNat with
  | 0 => x.req
  | 1 => x.rsp
  | _ => x.page

def Sent.bump (x : Sent) (cls : BitVec 2) : Sent :=
  match cls.toNat with
  | 0 => { x with req := x.req + 1 }
  | 1 => { x with rsp := x.rsp + 1 }
  | 2 => { x with page := x.page + 1 }
  | _ => x

def sentOf (l : List Sent) (dev : BitVec 11) : Sent := (l.find? (fun x => x.dev == dev)).getD (sentZero dev)

def bumpSent (l : List Sent) (dev : BitVec 11) (cls : BitVec 2) : List Sent :=
  if l.any (fun x => x.dev == dev) then updWhere (fun x => x.dev == dev) (fun x => x.bump cls) l
  else l ++ [(sentZero dev).bump cls]

/-- Data flits of a masked write: the 64-byte lines with a written byte. -/
def dataFlits (offs : List Nat) : Nat := (distinct (offs.map (· / 64))).length

/-- The data flits of a packet (R291); a flit of a page message carries four granules. -/
def packetData (i : Instr) : Nat :=
  match i with
  | .write _ _ _ bs _ => dataFlits (bs.map (·.1))
  | .redmReq _ _ _ _ ws => dataFlits (ws.map (·.1))
  | .atomReq _ _ _ _ _ _ _ | .redReq _ _ _ _ _ _ | .cmatch _ _ _ _ _ _ | .areply _ _ _ _ => 1
  | .ewrite _ _ _ bs | .rdata _ _ _ bs => ceilDiv bs.length 64
  | .cstep _ _ m => ceilDiv m.bytes.length 64
  | .gdata _ m | .dsum _ m | .fdata _ m => ceilDiv m.data.length 4
  | _ => 0

def pageFlitsOf (i : Instr) : Nat := 1 + packetData i

/-- Put a packet on the fabric, or keep it until it may be injected. -/
def State.inject (s : State) (p : Packet) : State :=
  if s.canInject p.dst p.cls then
    s.modFab fun y => { y with
      outbox := y.outbox ++ [p], sent := bumpSent y.sent p.dst p.cls
      pageFlits := if p.cls == clsPage then setKey p.dst ((getKey p.dst y.pageFlits).getD 0 + pageFlitsOf p.body) y.pageFlits else y.pageFlits }
  else s.modFab fun y => { y with held := y.held ++ [p] }

/-- Inject what is kept back, oldest first, as far as it goes. -/
def State.flush (s : State) : State :=
  let held := s.fab.held
  held.foldl (fun s p => s.inject p) (s.modFab fun y => { y with held := [] })

/-- PAGE flits under way to a device, with those of messages kept back for want of a route (R210, R294). -/
def State.pageUse (s : State) (dev : BitVec 11) : Nat :=
  (s.fab.held.filter (fun q => q.dst == dev && q.cls == clsPage)).foldl (fun n q => n + pageFlitsOf q.body) ((getKey dev s.fab.pageFlits).getD 0)

/-- The sluice engine's allowance has room for a packet, and none waits before it (R210). -/
def State.pageRoom (s : State) (p : Packet) : Bool :=
  s.pageUse p.dst + pageFlitsOf p.body ≤ Config.pageLimit p.dst + 5 && !s.fab.pageWait.any (fun q => q.dst == p.dst)

/-- Send a packet; a page message waits for the sluice engine's allowance (log 71, DEDUCED). -/
def State.post (s : State) (p : Packet) : State :=
  if p.cls == clsPage && !s.pageRoom p then s.modFab fun y => { y with pageWait := y.pageWait ++ [p] } else s.inject p

/-- Send the page messages that wait for the allowance to a device, oldest first, as far as it goes. -/
def State.flushPages (s : State) (dev : BitVec 11) : State :=
  let mine := s.fab.pageWait.filter (fun q => q.dst == dev)
  mine.foldl (fun s p => s.post p) (s.modFab fun y => { y with pageWait := y.pageWait.filter (fun q => q.dst != dev) })

/-- The header of a packet to a destination, carrying the flits returned to it (R300). -/
def State.header (s : State) (dst : BitVec 11) (key : BitVec 32) : Arrival :=
  { port := 0, src := selfDev, key,
    aret := match s.fab.returns.find? (fun r => r.dev == dst) with | some r => BitVec.ofNat 16 (min r.req 65535) | none => 0,
    hop := 0, len := 0, bad := false }

/-- A packet with its header's LEN. -/
def formPacket (dst : BitVec 11) (cls : BitVec 2) (h : Arrival) (mk : Arrival → Instr) : Packet :=
  { dst, cls, body := mk { h with len := BitVec.ofNat 3 (packetData (mk h)) } }

/-- Form and send a packet of the class with the job key. -/
def State.send (s : State) (dst : BitVec 11) (cls : BitVec 2) (key : BitVec 32) (mk : Arrival → Instr) : State :=
  let p := formPacket dst cls (s.header dst key) mk
  let s := s.modFab fun y => { y with returns := updWhere (fun r => r.dev == dst) (fun r => { r with req := r.req - min r.req 65535 }) y.returns }
  s.post p

def State.jobKey (s : State) (j : BitVec 16) : BitVec 32 := match s.job? j with | some x => x.key | none => 0

/-- Take the next request tag. -/
def State.newTag (s : State) : BitVec 12 × State :=
  (s.fab.tagNext, s.modFab fun y => { y with tagNext := y.tagNext + 1 })

/-- Send a request and remember what it is for. -/
def State.request (s : State) (dst : BitVec 11) (key : BitVec 32) (addr : Nat) (why : Purpose)
    (mk : BitVec 12 → Arrival → Instr) (lines : BitVec 4 := 0) : State :=
  let r := s.newTag
  let s := r.2.send dst clsReq key (mk r.1)
  s.modFab fun y => { y with requests := y.requests ++ [{ tag := r.1, dst, addr, lines, purpose := why, sent := s.time }] }

/-! ## Allowances (R288, R296, R299 to R301, R313) -/

/-- A member of a slice whose start has come and that has not been heard READY (R313). -/
def State.sliceLate (s : State) (dev : BitVec 11) : Bool :=
  s.coll.slices.any (fun x => x.start ≤ s.time && !x.aborted &&
    match s.group? x.sgid with
    | some g => (List.range g.n).any (fun r => bits (g.members.getD r 0) 0 11 == dev && r != g.rank && !x.readyRanks.contains r)
    | none => false)

/-- The allowance for a destination is held at 0: it has no route, its route needs a missing channel, or it is a late
member of a slice (R294, R296, R313). -/
def State.heldZero (s : State) (dev : BitVec 11) : Bool :=
  (match s.route? dev with
   | none => true
   | some r => !isPort (portOf r clsReq) || s.routeBarred r clsReq) || s.sliceLate dev

/-- The free flits that a program may use towards a device (R288, R301). -/
def State.allowance (s : State) (dev : BitVec 11) : Nat :=
  if dev == selfDev then 65535
  else if s.heldZero dev then 0
  else match s.fab.allowances.find? (fun a => a.dev == dev) with
    | some a => a.free
    | none => 0

/-- What a fragment may spend towards a device: the holder of the reservation spends it. -/
def State.spendable (s : State) (frag : Nat) (dev : BitVec 11) : Nat :=
  match s.fab.allowances.find? (fun a => a.dev == dev) with
  | some a => if (a.waiters.head?.map (·.1)) == some frag && !s.heldZero dev then a.reserved else s.allowance dev
  | none => s.allowance dev

/-- Pass the reservation to the next waiter with every free flit. -/
def Allowance.pass (a : Allowance) : Allowance :=
  if a.waiters.isEmpty then { a with free := a.free + a.reserved, reserved := 0 }
  else { a with reserved := a.free + a.reserved, free := 0 }

/-- Debit a cost; what is left of the fragment's reservation becomes free. -/
def Allowance.debit (a : Allowance) (frag cost : Nat) : Allowance :=
  let a1 := { a with flight := a.flight ++ [({ flits := cost, engine := false, old := false } : Flight)] }
  if (a.waiters.head?.map (·.1)) == some frag then
    ({ a1 with waiters := a.waiters.tail, free := a.free + (a.reserved - cost), reserved := 0 } : Allowance).pass
  else { a1 with free := a.free - cost, waiters := a.waiters.filter (fun w => w.1 != frag) }

/-- Wait for a cost: the oldest waiter moves every free flit into its reservation, at each park. -/
def Allowance.wait (a : Allowance) (frag cost : Nat) : Allowance :=
  let ws := if a.waiters.any (fun w => w.1 == frag) then a.waiters.map (fun w => if w.1 == frag then (frag, cost) else w)
    else a.waiters ++ [(frag, cost)]
  if (ws.head?.map (·.1)) == some frag then { a with waiters := ws, reserved := a.free + a.reserved, free := 0 }
  else { a with waiters := ws }

def allowanceZero (dev : BitVec 11) : Allowance := { dev, free := 0, limit := 0, reserved := 0, waiters := [], flight := [] }

def State.modAllowance (s : State) (dev : BitVec 11) (g : Allowance → Allowance) : State :=
  s.modFab fun y =>
    if y.allowances.any (fun a => a.dev == dev) then { y with allowances := updWhere (fun a => a.dev == dev) g y.allowances }
    else { y with allowances := y.allowances ++ [g (allowanceZero dev)] }

/-- A fragment keeps its place only at the destinations that its instruction still names (R301). -/
def State.keepWaits (s : State) (frag : Nat) (devs : List (BitVec 11)) : State :=
  let drop := (s.fab.allowances.filter (fun a => !devs.contains a.dev && a.waiters.any (fun w => w.1 == frag))).map (·.dev)
  drop.foldl (fun s d => (s.modAllowance d (fun a => a.forget [frag])).clearCovered d) s

/-- The fragment waits for no allowance. -/
def State.waitsNowhere (s : State) (frag : Nat) : Bool := s.fab.allowances.all (fun a => !a.waiters.any (fun w => w.1 == frag))

/-- Debit every destination at once, or wait at those that fall short (R299). -/
def State.pay (s : State) (frag : Nat) (costs : List (BitVec 11 × Nat)) : State × Bool :=
  let s := s.keepWaits frag (costs.map (·.1))
  let short := costs.filter (fun c => s.spendable frag c.1 < c.2)
  if short.isEmpty then (costs.foldl (fun s c => (s.modAllowance c.1 (fun a => a.debit frag c.2)).clearCovered c.1) s, true)
  else (short.foldl (fun s c => s.modAllowance c.1 (fun a => a.wait frag c.2)) s, false)

/-- Take returned flits off what is under way, oldest first, and count those of the program since the last route table. -/
def takeFlits : Nat → List Flight → List Flight × Nat
  | _, [] => ([], 0)
  | n, x :: xs =>
      let mine := fun (k : Nat) => if x.engine || x.old then 0 else k
      if x.flits ≤ n then let r := takeFlits (n - x.flits) xs; (r.1, r.2 + mine x.flits)
      else ({ x with flits := x.flits - n } :: xs, mine n)

/-- Flits returned by a destination (R300, R301): first to the reservation, the rest free, never above
the limit. -/
def Allowance.give (a : Allowance) (n : Nat) : Allowance :=
  let r := takeFlits n a.flight
  let need := match a.waiters with | [] => 0 | w :: _ => w.2 - a.reserved
  let take := min r.2 need
  let room := a.limit - (a.free + a.reserved + take)
  { a with reserved := a.reserved + take, free := a.free + min (r.2 - take) room, flight := r.1 }

/-! ## The engines' own allowance (R299; log 71, DEDUCED) -/

/-- REQ flits of the engines under way to a device. -/
def State.engineUse (s : State) (dev : BitVec 11) : Nat :=
  match s.fab.allowances.find? (fun a => a.dev == dev) with
  | some a => (a.flight.filter (·.engine)).foldl (fun n x => n + x.flits) 0
  | none => 0

/-- The engines' allowance covers a cost; it too is held for a late member of a slice (R313). -/
def State.engineRoom (s : State) (dev : BitVec 11) (cost : Nat) : Bool := !s.sliceLate dev && s.engineUse dev + cost ≤ Config.engineLimit dev + 5

def State.flyEngine (s : State) (dev : BitVec 11) (cost : Nat) : State :=
  s.modAllowance dev (fun a => { a with flight := a.flight ++ [({ flits := cost, engine := true, old := false } : Flight)] })

/-- A request of an engine: sent when the engines' allowance covers it, after those that wait already. -/
def State.engineRequest (s : State) (dst : BitVec 11) (key : BitVec 32) (addr : Nat) (why : Purpose)
    (mk : BitVec 12 → Arrival → Instr) : State :=
  let r := s.newTag
  let p := formPacket dst clsReq { s.header dst key with aret := 0 } (mk r.1)
  let cost := 1 + packetData p.body
  if s.engineRoom dst cost && !s.fab.engineWait.any (fun w => w.packet.dst == dst) then (s.request dst key addr why mk).flyEngine dst cost
  else r.2.modFab fun y => { y with engineWait := y.engineWait ++
    [{ packet := p, cost, request := { tag := r.1, dst, addr, lines := 0, purpose := why, sent := 0 } }] }

/-- Send what the engines keep for a device, oldest first, as far as their allowance goes. -/
def State.flushEngines (s : State) (dev : BitVec 11) : State :=
  let mine := s.fab.engineWait.filter (fun w => w.packet.dst == dev)
  mine.foldl (fun s w =>
    if s.engineRoom dev w.cost && !s.fab.engineWait.any (fun w => w.packet.dst == dev) then
      ((s.flyEngine dev w.cost).inject w.packet).modFab fun y => { y with requests := y.requests ++ [{ w.request with sent := s.time }] }
    else s.modFab fun y => { y with engineWait := y.engineWait ++ [w] })
    (s.modFab fun y => { y with engineWait := y.engineWait.filter (fun w => w.packet.dst != dev) })

def State.returnFlits (s : State) (dev : BitVec 11) (n : Nat) : State :=
  if n = 0 then s else ((s.modAllowance dev (fun a => a.give n)).clearCovered dev).flushEngines dev

end Sys2Proof.Machine
end

