-- ==== Sys2Proof/Machine/Order.lean ====
section
/-! DEFINITION. The ordering machine: store buffers, loads, drains, fences and bound regions
(12 R249 to R264). -/

namespace Sys2Proof.Machine

open Sys2Proof

/-! ## Reading through the store buffers (R253) -/

/-- The byte at `q` in a piece. -/
def Piece.byteAt (x : Piece) (q : Place) : Option Byte :=
  match x.place.offset q with
  | some k => x.bytes[k]?
  | none => none

/-- The newest value of a byte among entries listed oldest first. -/
def newestByte (es : List Entry) (q : Place) : Option Byte :=
  es.foldl (fun acc e => e.pieces.foldl (fun acc x => match x.byteAt q with | some b => some b | none => acc) acc) none

/-- The entries of the block's fragment store buffers that hold a fragment's stores. -/
def Block.fsbOf (b : Block) (frag : Nat) : List Entry := b.fsb.filter (fun e => e.frags.contains frag)

/-- The newest buffered value of a byte for a fragment of the block: its own stores, then the block's, those on
their way to another core among them (R221, R253 cases 1 and 2). -/
def buffered (b : Block) (frag : Nat) (q : Place) : Option Byte :=
  match newestByte (b.fsbOf frag) q with
  | some x => some x
  | none => newestByte (b.wire ++ b.bsb) q

/-- Releases of a sync object that a thread has acquired. -/
def Thread.acquiredOf (t : Thread) (job : BitVec 16) (sync : DWord) : Nat :=
  ((t.acquired.find? (fun x => x.1 == job && x.2.1 == sync)).map (·.2.2)).getD 0

/-- A REL of the scope that published the store reaches the reader's block (R272). -/
def HistStore.reaches (x : HistStore) (peers : List Nat) (via : BitVec 3) : Bool :=
  4 ≤ via.toNat || (via == 3#3 && peers.contains x.block)

/-- A bound store that a thread of a block is sure to see (R253, R262); `peers` are the blocks of its gang. -/
def HistStore.sure (x : HistStore) (block : Nat) (peers : List Nat) (t : Thread) (seen : Nat) : Bool :=
  x.block == block || x.serial ≤ seen ||
    x.tags.any (fun r => r.1 ≤ t.acquiredOf x.job x.sync && x.reaches peers r.2)

/-- The stores of a history that a load may return: the last sure one, or any published later one (R263). -/
def History.options (h : History) (block : Nat) (peers : List Nat) (t : Thread) (seen : Nat) : List (Byte × Nat) :=
  h.stores.foldl (fun acc x =>
    if x.sure block peers t seen then [(x.value, x.serial)]
    else if !x.tags.isEmpty then acc ++ [(x.value, x.serial)] else acc) [(h.base, 0)]

def Thread.seenAt (t : Thread) (p : Place) : Nat := ((t.seen.find? (fun x => x.1 == p)).map (·.2)).getD 0

/-- A byte at its home as a thread of a block sees it, with the serial of the bound store it comes from; among several
permitted values a free value chooses. -/
def State.pickByte (s : State) (b : Block) (t : Thread) (q : Place) : (Byte × Nat) × State :=
  match s.sync.histories.find? (fun h => h.place == q) with
  | some h =>
      let os := h.options b.id ((s.gangBlocks b.grid b.gang).map (·.id)) t (t.seenAt q)
      let r := if os.length ≤ 1 then (0, s) else s.draw
      (os.getD (r.1 % os.length) (h.base, 0), r.2)
  | none => ((s.byteFor t.serial q, 0), s)

/-- A thread has been shown the bound stores of some serials (R253). -/
def State.sawBytes (s : State) (w lane : Nat) (p : Place) (xs : List (Byte × Nat)) : State :=
  s.modWarp w (fun w => { w with threads := Vector.ofFn (fun (l : Fin 32) =>
    match w.threads[l] with
    | some t => if l.val = lane then
        some { t with seen := (List.range xs.length).foldl (fun m i => match xs[i]? with
          | some x => if x.2 = 0 then m else setKey (p.at i) x.2 m
          | none => m) t.seen } else some t
    | none => none) })

/-- A byte at its home as a thread sees it. -/
def State.homeByte (s : State) (w : Nat) (lane : Nat) (b : Block) (t : Option Thread) (q : Place) : Byte × State :=
  match t with
  | some t =>
      if s.sync.histories.any (fun h => h.place == q) then
        let r := s.pickByte b t q
        (r.1.1, r.2.sawBytes w lane q [r.1])
      else (s.byteFor t.serial q, s)
  | none => ((s.getAt q 1).headD 0, s)

/-- The bytes a load of a lane returns when it is performed now (R253). `home` gives the bytes of another device. -/
def State.readBytes (s : State) (f : Frag) (w : Warp) (b : Block) (lane : Nat) (p : Place) (n : Nat)
    (home : List Byte) : List Byte × State :=
  (List.range n).foldl (fun r i =>
    let q := p.at i
    match buffered b f.id q with
    | some x => (r.1 ++ [x], r.2)
    | none =>
        match p with
        | .far _ _ | .member _ _ _ _ => (r.1 ++ [((f.kept.find? (fun x => x.1 == q)).map (·.2)).getD (home.getD i 0)], r.2)
        | _ =>
            if s.sync.histories.isEmpty && s.sync.hidden.isEmpty then (r.1 ++ [(s.getAt q 1).headD 0], r.2)
            else
              let t := (r.2.warp? w.id).bind (fun w => w.threads.toList.getD lane none)
              let y := r.2.homeByte w.id lane b t q
              (r.1 ++ [y.1], y.2)) ([], s)

/-- The bytes at a place that an early read holds, if it holds them all. -/
def Early.gives (e : Early) (p : Place) (n : Nat) : Option (List (Byte × Nat)) :=
  match e.place.offset p with
  | some k => if k + n ≤ e.bytes.length then some ((e.bytes.drop k).take n) else none
  | none => none

/-- The bytes of a load that is performed only now, for what the thread has read early of them is void (R103). -/
def State.readNow (s : State) (f : Frag) (w : Warp) (b : Block) (lane : Nat) (p : Place) (n : Nat) : List Byte × State :=
  (match w.threads.toList.getD lane none with | some t => s.forgetAt [t.serial] p n | none => s).readBytes f w b lane p n []

/-- The bytes a load of a lane returns (R253): performed now, or performed earlier where nothing has ordered it since
(R103, R252); a free value chooses. -/
def State.loadBytes (s : State) (f : Frag) (w : Warp) (b : Block) (lane : Nat) (p : Place) (n : Nat)
    (home : List Byte) : List Byte × State :=
  match w.threads.toList.getD lane none with
  | none => s.readBytes f w b lane p n home
  | some t =>
      match s.sync.early.filterMap (fun e => if e.thread == t.serial then e.gives p n else none) with
      | [] => (s.forgetAt [t.serial] p n).readBytes f w b lane p n home
      | os =>
          let r := (s.forgetAt [t.serial] p n).draw
          match os[r.1 % (os.length + 1)]? with
          | some xs => (xs.map (·.1), r.2.sawBytes w.id lane p xs)
          | none => r.2.readBytes f w b lane p n home

/-- The threads in the lanes of a fragment. -/
def State.fragThreads (s : State) (frag : Nat) : List Nat :=
  match s.frag? frag with
  | none => []
  | some f => match s.warp? f.warp with
    | none => []
    | some w => (Mask.lanes f.mask).filterMap (fun l => (w.threads.toList.getD l none).map (·.serial))

/-- Loads are performed on a full frame: its page is GATHERED or PARTIAL (R205). -/
def State.frameOpen (s : State) (x : FullFrame) : Bool :=
  match s.leaf? x.job x.page with
  | some lf => pteShst lf.pte == shGathered || pteShst lf.pte == shPartial
  | none => false

/-- A place of this device that a load of a lane may read: HBM, a full frame of the job, a buffer of the gang or the
lane's window, by free values. -/
def State.earlyPlace (s : State) (w : Warp) (b : Block) (job : BitVec 16) (lane : Nat) (fr : Nat → Nat) : Place :=
  match fr 1 % 4 with
  | 0 => .hbm (fr 2 % 2 ^ 40)
  | 1 => match (s.mem.frames.filter (fun x => x.job == job && s.frameOpen x))[fr 2 % (s.mem.frames.length + 1)]? with
    | some x => .frame job x.page (fr 3 % x.size)
    | none => .hbm (fr 3 % 2 ^ 40)
  | 2 =>
      let k := match (s.gangBlocks b.grid b.gang)[fr 2 % 16]? with | some x => x.id | none => b.id
      .buf k (if fr 3 % 3 = 0 then .a else if fr 3 % 3 = 1 then .w else .c) (fr 4 % 2 ^ 20)
  | _ => .lwin w.id lane (fr 2 % 2048)

/-- A thread reads some bytes early, for loads it has yet to come to (R103, R252). Which lane and which bytes is free; no
register shows the value before a load names it (log 67, DEDUCED). -/
def State.readEarly (s : State) (frag : Nat) : State :=
  match s.frag? frag with
  | none => s
  | some f =>
      match s.warp? f.warp with
      | none => s
      | some w =>
          match s.block? w.block with
          | none => s
          | some b =>
              match s.grid? b.grid with
              | none => s
              | some g =>
                  let d := s.drawN 6
                  let lane := d.1 0 % 32
                  match w.threads.toList.getD lane none with
                  | none => d.2
                  | some t =>
                      if !(f.mask.getLsbD lane && f.run == .ready && b.run == .placed && !b.saving && !s.gangRestoring b && !s.filling g.job) then d.2
                      else
                        let p := d.2.earlyPlace w b g.job lane d.1
                        let r := (List.range (d.1 5 % 128 + 1)).foldl (fun (r : List (Byte × Nat) × State) i =>
                          match buffered b f.id (p.at i) with
                          | some x => (r.1 ++ [(x, 0)], r.2)
                          | none => let y := r.2.pickByte b t (p.at i); (r.1 ++ [y.1], y.2)) ([], d.2)
                        r.2.modSync fun y => { y with early := y.early ++ [{ thread := t.serial, place := p, bytes := r.1 }] }

/-! ## Stores entering their buffers -/

/-- A range bound meets `n` bytes at `va`; a range may run on past the highest address to the lowest (R274). -/
def Binding.meets (x : Binding) (va : DWord) (n : Nat) : Bool := (va - x.base).toNat < x.length || (x.base - va).toNat < n

/-- The sync object whose binding holds a byte of a g store when it retires (R260). -/
def Block.boundTo (b : Block) (va : DWord) (n : Nat) : Option DWord := (b.binds.find? (fun x => x.meets va n)).map (·.sync)

/-- A bound store with a remote home. -/
def Piece.boundFar (x : Piece) : Bool := x.sync.isSome && (match x.place with | .far _ _ => true | _ => false)

/-- A bound store with a remote home that is not published. Its WRITE carries nothing of the binding (R291), so it is held in
the buffer until a REL publishes it, an atomic or an engine of its own block must have it performed, or the block ends (log 68,
DEDUCED). -/
def Entry.held (e : Entry) : Bool := !e.published && e.pieces.any Piece.boundFar

def Entry.overlaps (e : Entry) (d : Entry) : Bool :=
  e.pieces.any (fun x => d.pieces.any (fun y => x.place.overlap x.bytes.length y.place y.bytes.length))

/-- Cut each entry into what `p` selects and the rest, where these share no byte; the parts keep their place. -/
def cutList (p : Entry → Piece → Bool) : Nat → List Entry → List Entry × Nat
  | n, [] => ([], n)
  | n, e :: es =>
      let yes : Entry := { e with pieces := e.pieces.filter (p e) }
      let no : Entry := { e with id := n, pieces := e.pieces.filter (fun x => !p e x) }
      if yes.pieces.isEmpty || no.pieces.isEmpty || yes.overlaps no then let r := cutList p n es; (e :: r.1, r.2)
      else let r := cutList p (n + 1) es; (yes :: no :: r.1, r.2)

/-- Cut the entries of a block: what a fence covers no longer waits for the stores of other threads (R257). -/
def State.cutEntries (s : State) (b : Nat) (p : Entry → Piece → Bool) : State :=
  match s.block? b with
  | none => s
  | some x =>
      let f := cutList p s.ctl.nextId x.fsb
      let g := cutList p f.2 x.bsb
      let h := cutList p g.2 x.wire
      if h.2 = s.ctl.nextId then s
      else ({ s with ctl := { s.ctl with nextId := h.2 } } : State).modBlock b (fun x => { x with fsb := f.1, bsb := g.1, wire := h.1 })

/-- Enter a store in the fragment store buffer (R252). What the fragment's threads have read early of its bytes is void
(R253). -/
def State.pushStore (s : State) (b : Nat) (frag : Nat) (colour : BitVec 3) (setFull : Bool) (pieces : List Piece) : State :=
  if pieces.isEmpty then s else
    let r := s.fresh
    let warp := match s.frag? frag with | some f => f.warp | none => 0
    let s := r.2.modBlock b (fun x => { x with fsb := x.fsb ++ [{ id := r.1, age := r.1, frags := [frag], warp, colour, pieces, draining := false, setFull, published := false }] })
    let s := if pieces.any Piece.boundFar then s.cutEntries b (fun _ x => x.boundFar) else s
    if s.sync.early.isEmpty then s else pieces.foldl (fun s x => s.forgetAt (s.fragThreads frag) x.place x.bytes.length) s

/-! ## Release (R252) and the block store buffer (R255) -/

/-- A piece that goes to the block store buffer. -/
def Piece.drains (x : Piece) : Bool :=
  match x.place with
  | .buf _ _ _ | .lwin _ _ _ => false
  | _ => true

def Entry.size (e : Entry) : Nat := e.pieces.foldl (fun n x => n + x.bytes.length) 0

/-- The bytes that a block holds in the buffer: a held store takes no room, so that it can wait for its release. -/
def Block.bsbBytes (b : Block) : Nat := b.bsb.foldl (fun n e => if e.held then n else n + e.size) 0

/-- Bytes in a core's block store buffer. -/
def State.coreBytes (s : State) (core : Nat) : Nat :=
  (s.work.blocks.filter (fun b => b.core == core && b.run != .saved)).foldl (fun n b => n + b.bsbBytes) 0

/-- Full bits of the granules that bytes `a` to `a + n - 1` of A or W touch become set (R177). -/
def Block.setFull (b : Block) (x : Buf) (a n : Nat) : Block :=
  let gs := (List.range ((a % 16 + n + 15) / 16)).map (fun i => a / 16 + i)
  match x with
  | .a => { b with fullA := insertAll gs b.fullA }
  | .w => { b with fullW := insertAll gs b.fullW }
  | .c => b

def Block.clearFull (b : Block) (x : Buf) (gs : List Nat) : Block :=
  match x with
  | .a => { b with fullA := b.fullA.filter (fun g => !gs.contains g) }
  | .w => { b with fullW := b.fullW.filter (fun g => !gs.contains g) }
  | .c => b

def Block.isFull (b : Block) (x : Buf) (g : Nat) : Bool :=
  match x with
  | .a => b.fullA.contains g
  | .w => b.fullW.contains g
  | .c => true

/-- The FMT tag of the W segments that bytes `a` to `a + n - 1` touch (R175). -/
def Block.setTag (b : Block) (a n : Nat) (tag : BitVec 6) : Block :=
  { b with segs := (List.range b.segs.length).map (fun i =>
      let g := b.segs.getD i { tag := 0, sealedBy := none }
      if a / 65536 ≤ i ∧ 65536 * i < a + n then { g with tag } else g) }

/-- End a full/empty wait and keep its length (R179). -/
def Frag.endWait (f : Frag) (now : Nat) : Frag :=
  match f.run with
  | .parked .fullEmpty since => { f with run := .ready, emptyWait := f.emptyWait + (now - since) }
  | _ => f

/-- Fragments parked in full/empty wait of a block reissue and look again. -/
def State.wakeFull (s : State) (b : Nat) : State :=
  let ws := (s.blockWarps b).map (·.id)
  s.modWork fun y => { y with frags := updWhere (fun f => ws.contains f.warp) (fun f => f.endWait s.cycle) y.frags }

/-- Perform one piece of a store in a buffer or an L window. -/
def State.performBuf (s : State) (x : Piece) (full : Bool) : State :=
  let s := s.performAt x.place x.bytes
  match x.place with
  | .buf b u a =>
      let s := if u == .w then s.modBlock b (fun k => k.setTag a x.bytes.length 0) else s
      if full then (s.modBlock b (fun k => k.setFull u a x.bytes.length)).wakeFull b else s
  | _ => s

/-- The block whose entries start to drain at three quarters (R255): of the core's blocks with entries not
yet draining, the one that holds most bytes, the earliest placed among equals. -/
def pickDrain (bs : List Block) : Option Block :=
  (bs.filter (fun b => b.bsb.any (fun e => !e.draining))).foldl (fun acc b =>
    match acc with
    | none => some b
    | some a =>
        if a.bsbBytes < b.bsbBytes || (a.bsbBytes == b.bsbBytes && b.placedAt < a.placedAt) then some b else acc) none

def Block.startDrain (b : Block) : Block :=
  if b.bsb.isEmpty then b else { b with bsb := b.bsb.map (fun e => { e with draining := true }), clean := false }

def State.startDrain (s : State) (b : Nat) : State := s.modBlock b Block.startDrain

/-- The three-quarters drain point of R255. -/
def State.threshold (s : State) (core : Nat) : State :=
  if s.coreBytes core < 24576 then s else
    match pickDrain (s.work.blocks.filter (fun b => b.core == core && b.run != .saved)) with
    | some b => s.startDrain b.id
    | none => s

/-- A piece of a store in cw or ca: it goes to another block's buffer. -/
def Piece.crosses (b : Nat) (x : Piece) : Bool :=
  match x.place with
  | .buf k _ _ => k != b
  | _ => false

/-- Two entries are stores of one fragment. -/
def Entry.kin (e d : Entry) : Bool := e.frags.any (fun f => d.frags.contains f)

/-- Entries, oldest first, less those that follow a related older one with a byte in common (R252). -/
def releasable (es : List Entry) : List Entry :=
  es.filter (fun e => !(es.takeWhile (fun x => x.id != e.id)).any (fun x => x.kin e && x.overlaps e))

/-- Release one entry of the fragment store buffer; it stays when it would overfill the block store
buffer. A store in cw or ca sets out for its target core. -/
def State.releaseEntry (s : State) (b : Block) (e : Entry) : State :=
  let out := e.pieces.filter Piece.drains
  let here := e.pieces.filter (fun x => !x.drains && !x.crosses b.id)
  let away := e.pieces.filter (Piece.crosses b.id)
  let e' : Entry := { e with pieces := out }
  if !out.isEmpty && !e'.held && 32768 < s.coreBytes b.core + e'.size then s
  else
    let s := s.modBlock b.id (fun x => { x with fsb := x.fsb.filter (fun y => y.id != e.id) })
    let s := if out.isEmpty then s else s.modBlock b.id (fun x => { x with bsb := x.bsb ++ [e'] })
    let s := if away.isEmpty then s else s.modBlock b.id (fun x => { x with wire := x.wire ++ [{ e with pieces := away }] })
    ((here.foldl (fun s x => s.performBuf x e.setFull) s).clearWritten (here.map (fun x => (x.place, x.bytes.length)))).threshold b.core

/-- Release the entries that `p` selects and those they must follow, oldest first, as far as there is room. -/
def State.releaseWhere (s : State) (b : Nat) (p : Entry → Bool) : State :=
  match s.block? b with
  | none => s
  | some x =>
      let needed := fun (e : Entry) => p e || (x.fsb.dropWhile (fun y => y.id != e.id)).any (fun y => p y && e.kin y && e.overlaps y)
      (x.fsb.filter needed).foldl (fun s e =>
        match s.block? b with
        | some x => if (releasable x.fsb).any (fun y => y.id == e.id) then s.releaseEntry x e else s
        | none => s) s

/-- Release every entry of a fragment, oldest first. -/
def State.releaseAll (s : State) (b frag : Nat) : State := s.releaseWhere b (fun e => e.frags.contains frag)

/-! ## Stores on their way to other cores (R251, R252) -/

/-- A store in cw or ca reaches its target core and is performed there; the block stops being clean (R347). -/
def State.arrive (s : State) (b : Nat) (e : Entry) : State :=
  let s := (s.soil b).modBlock b (fun x => { x with wire := x.wire.filter (fun y => y.id != e.id) })
  (e.pieces.foldl (fun s x => s.performBuf x e.setFull) s).clearWritten (e.pieces.map (fun x => (x.place, x.bytes.length)))

/-- Perform those on their way that `p` selects and those they must follow, oldest first. -/
def State.arriveWhere (s : State) (b : Nat) (p : Entry → Bool) : State :=
  match s.block? b with
  | none => s
  | some x =>
      (x.wire.filter (fun e => p e || (x.wire.dropWhile (fun y => y.id != e.id)).any (fun y => p y && e.overlaps y))).foldl
        (fun s e => s.arrive b e) s

/-- One of them arrives, if no older one shares a byte with it. -/
def State.arriveOne (s : State) (b index : Nat) : State :=
  match s.block? b with
  | none => s
  | some x =>
      match x.wire[index]? with
      | some e => if (x.wire.take index).any (fun y => y.overlaps e) then s else s.arrive b e
      | none => s

/-! ## Draining an entry to its home -/

/-- Perform a piece of main memory at its home, bound or not (R252, R260). -/
def State.performMain (s : State) (b : Nat) (job : BitVec 16) (x : Piece) : State :=
  let s := s.freshPartial x.place
  let s := match x.sync with
    | none => s
    | some sync =>
        let r := s.fresh
        (List.range x.bytes.length).foldl (fun s i =>
          s.orderByte (x.place.at i) (x.bytes.getD i 0)
            (some { serial := r.1, value := 0, block := b, sync, job, tags := [], threads := x.threads })) r.2
  match x.sync with
  | none => s.performAt x.place x.bytes
  | some _ => ((s.putAt x.place x.bytes).clearPoison x.place x.bytes.length).wake x.place x.bytes.length

/-- The far pieces of an entry by destination and 256-byte granule, in order of first appearance (R299). -/
def farGroups (ps : List Piece) : List (BitVec 11 × Nat) :=
  ps.foldl (fun acc x => match x.place with
    | .far d a => if acc.contains (d, a / 256) then acc else acc ++ [(d, a / 256)]
    | _ => acc) []

/-- The bytes of far pieces within one granule, later lanes over earlier ones. -/
def granuleBytes (ps : List Piece) (d : BitVec 11) (g : Nat) : List (Nat × Byte) :=
  ps.foldl (fun acc x => match x.place with
    | .far d' a => if d' = d ∧ a / 256 = g then
        (List.range x.bytes.length).foldl (fun acc i => setKey (a % 256 + i) (x.bytes.getD i 0) acc) acc else acc
    | _ => acc) []

/-- The posted stores of an entry that one packet carries wait for its answer, each for itself (R259). -/
def State.deliver (s : State) (b : Nat) (e : Entry) (tag : BitVec 12) (ps : List Piece) (rank : Option Nat) : State :=
  s.modSync fun y => { y with deliveries := y.deliveries ++ ps.map (fun x =>
    { tag, block := b, warp := e.warp, threads := x.threads, colour := e.colour, va := x.va, rank, sent := s.time,
      failed := false, scope := 6, least := 5, syncs := x.sync.toList, entry := some e.age }) }

/-- The rank, the device and the 256-byte granule of VA of a multicast copy. -/
def Piece.memberGroup? (x : Piece) : Option (Nat × BitVec 11 × Nat) :=
  match x.place with
  | .member _ r d va => some (r, d, va.toNat / 256)
  | _ => none

/-- The packets that carry the multicast copies of an entry, one for each granule and member (R299), in order of first
appearance. -/
def memberGroups (ps : List Piece) : List (Nat × BitVec 11 × Nat) := distinct (ps.filterMap Piece.memberGroup?)

/-- The bytes of multicast copies within one granule, later lanes over earlier ones. -/
def copyBytes (ps : List Piece) : List (Nat × Byte) :=
  ps.foldl (fun acc x => match x.place with
    | .member _ _ _ va => (List.range x.bytes.length).foldl (fun acc i => setKey (va.toNat % 256 + i) (x.bytes.getD i 0) acc) acc
    | _ => acc) []

/-- Send the remote parts of a drained entry: writes to other devices and multicast copies. -/
def State.sendPieces (s : State) (b : Block) (job : BitVec 16) (e : Entry) : State :=
  let key := s.jobKey job
  let s := (farGroups e.pieces).foldl (fun s dg =>
    let ps := e.pieces.filter (fun x => match x.place with | .far d a => d == dg.1 && a / 256 == dg.2 | _ => false)
    (s.request dg.1 key (dg.2 * 256) .posted
      (fun tag p => .write p tag (BitVec.ofNat 52 (dg.2 * 256)) (granuleBytes ps dg.1 dg.2) none)).deliver b.id e s.fab.tagNext ps none) s
  (memberGroups e.pieces).foldl (fun s m =>
    let ps := e.pieces.filter (fun x => x.memberGroup? == some m)
    (s.request m.2.1 key 0 .posted
      (fun tag p => .write p tag 0 (copyBytes ps) (some (BitVec.ofNat 64 (m.2.2 * 256))))).deliver b.id e s.fab.tagNext ps (some m.1)) s

/-- The bytes of a piece that no piece of an entry covers, each for itself. -/
def Piece.beside (x : Piece) (e : Entry) : List Piece :=
  (List.range x.bytes.length).filterMap (fun i =>
    if e.pieces.any (fun y => y.place.overlap y.bytes.length (x.place.at i) 1) then none
    else some { x with va := x.va + BitVec.ofNat 64 i, place := x.place.at i, bytes := [x.bytes.getD i 0] })

/-- An older held store leaves to a younger one that drains the bytes they share: nobody outside the block has seen them (R260;
log 68, DEDUCED). -/
def Entry.giveWay (y e : Entry) : Option Entry :=
  if !(y.held && y.overlaps e) then some y
  else
    let ps := y.pieces.flatMap (fun x => x.beside e)
    if ps.isEmpty then none else some { y with pieces := ps }

/-- The entry leaves the buffer. -/
def Block.drainOut (b : Block) (e : Entry) : Block :=
  { b with bsb := (b.bsb.takeWhile (fun y => y.id != e.id)).filterMap (fun y => y.giveWay e) ++ 
      (b.bsb.dropWhile (fun y => y.id != e.id)).tail }

/-- Drain one entry of the block store buffer, if every piece of it can be performed. -/
def State.drainEntry (s : State) (b : Block) (job : BitVec 16) (e : Entry) : State :=
  if !e.pieces.all (fun x => s.canReach x.place) then s
  else
    let s := (s.soil b.id).modBlock b.id (fun x => x.drainOut e)
    let s := e.pieces.foldl (fun s x => if x.place.isMain then s.performMain b.id job x else s) s
    ((s.clearWritten (e.pieces.map (fun x => (x.place, x.bytes.length)))).sendPieces b job e).threshold b.core

/-- No older entry of the block in the buffer shares a byte with this one (R249, R252; log 77, DEDUCED); a held one gives way
to it. -/
def Block.clear (b : Block) (e : Entry) : Bool :=
  !(b.bsb.takeWhile (fun x => x.id != e.id)).any (fun x => !x.held && x.overlaps e)

/-- The entry may drain. -/
def Block.drainable (b : Block) (e : Entry) : Bool := b.clear e && !e.held

/-- Start the drain of the entries that `p` selects (R255, R347). -/
def Block.startWhere (b : Block) (p : Entry → Bool) : Block :=
  if b.bsb.any p then { b with bsb := b.bsb.map (fun e => if p e then { e with draining := true } else e), clean := false } else b

/-- Start the drain of the entries that `p` selects and of those they must follow: each is a step of its own (R252). -/
def State.startFor (s : State) (b : Nat) (p : Entry → Bool) : State :=
  s.modBlock b (fun x => x.startWhere (fun e => p e || (x.bsb.dropWhile (fun y => y.id != e.id)).any (fun y => p y && e.overlaps y)))

/-- The held stores that `p` selects are held no longer, and their drain starts (R261, R264; log 68, DEDUCED). -/
def State.publishHeld (s : State) (b : Nat) (p : Entry → Bool) : State :=
  (s.modBlock b (fun x => { x with bsb := x.bsb.map (fun e => if p e && e.held then { e with published := true } else e) })).startFor b p

/-! ## Fences (R256, R257, R259) -/

def scThr : BitVec 3 := 0
def scWarp : BitVec 3 := 1
def scBlk : BitVec 3 := 2
def scGang : BitVec 3 := 3
def scDev : BitVec 3 := 4
def scDom : BitVec 3 := 5
def scSys : BitVec 3 := 6

/-- The table of R256 by target: a store with a remote home is not covered at .gang and .dev. -/
def Piece.inScope (x : Piece) (scope : BitVec 3) : Bool :=
  match x.place with
  | .far _ _ | .member _ _ _ _ => scope.toNat ≤ 2 || 5 ≤ scope.toNat
  | _ => true

/-- A fence of a scope over the colours of `cmask` and the threads `ths` covers a piece of an entry. -/
def Entry.covers (scope : BitVec 3) (cmask : BitVec 8) (ths : List Nat) (e : Entry) (x : Piece) : Bool :=
  bit cmask e.colour.toNat && x.threads.any (fun t => ths.contains t) && x.inScope scope

def Entry.covered (e : Entry) (scope : BitVec 3) (cmask : BitVec 8) (ths : List Nat) : Bool :=
  e.pieces.any (Entry.covers scope cmask ths e)

/-- A REDM is covered at .gang and wider when its home is this device, and so is what it must reach (R256). -/
def Redm.covered (x : Redm) (scope : BitVec 3) (cmask : BitVec 8) (ths : List Nat) : Bool :=
  3 ≤ scope.toNat && bit cmask x.colour.toNat && x.threads.any (fun t => ths.contains t)

def Delivery.covered (d : Delivery) (scope : BitVec 3) (cmask : BitVec 8) (ths : List Nat) : Bool :=
  d.least.toNat ≤ scope.toNat && scope.toNat ≤ d.scope.toNat && bit cmask d.colour.toNat && d.threads.any (fun t => ths.contains t)

/-- Move covered stores towards the level of the scope (R256). Scope .dev and wider is a drain point of
the whole buffer, a narrower one of the covered entries (R255). -/
def State.fenceWork (s : State) (b : Nat) (job : BitVec 16) (scope : BitVec 3) (cmask : BitVec 8) (ths : List Nat) : State :=
  let hit := fun (e : Entry) => e.covered scope cmask ths
  let s := if ths.isEmpty || cmask == 0#8 then s else (s.cutEntries b (Entry.covers scope cmask ths)).releaseWhere b hit
  let s := if 4 ≤ scope.toNat then s.startDrain b else s
  if 3 ≤ scope.toNat && !ths.isEmpty then
    ((s.arriveWhere b hit).startFor b hit).landRedms (fun x => x.block == b && x.covered scope cmask ths)
  else s.modBlock b (fun x => x.startWhere hit)

/-- Every covered store has reached the level of the scope. A fence publishes nothing, so it waits for no held store (R260;
log 68, DEDUCED). -/
def State.fenceDone (s : State) (b : Nat) (scope : BitVec 3) (cmask : BitVec 8) (ths : List Nat) : Bool :=
  match s.block? b with
  | none => true
  | some x =>
      !(x.fsb.any (fun e => e.covered scope cmask ths))
        && !(3 ≤ scope.toNat && (x.wire ++ x.bsb).any (fun e => !e.held && e.covered scope cmask ths))
        && !s.sync.redms.any (fun r => r.block == b && r.covered scope cmask ths)
        && !s.sync.deliveries.any (fun d => d.block == b && !d.failed && d.covered scope cmask ths)

/-- The failed and unreported deliveries that the fence covers. -/
def State.fenceFailures (s : State) (b : Nat) (scope : BitVec 3) (cmask : BitVec 8) (ths : List Nat) : List Delivery :=
  s.sync.deliveries.filter (fun d => d.block == b && d.failed && d.covered scope cmask ths)

/-- The failed-rank mask of a report: 0 for unicast stores (R259) (log 47, DEDUCED). -/
def failedRanks (ds : List Delivery) : DWord :=
  ds.foldl (fun m d => match d.rank with | some r => m ||| (1#64 <<< r) | none => m) 0

/-- The lowest failed address of a report. -/
def failedAddr (ds : List Delivery) : DWord :=
  ds.foldl (fun m d => if d.va.toNat < m.toNat then d.va else m) (ds.head?.map (·.va) |>.getD 0)

/-- Do the work of a fence and go on with `k` once it is satisfied; until then the instruction stays
unretired. A failure it covers traps FABRIC_DELIVERY and counts as reported. -/
def Ctx.fence (c : Ctx) (scope : BitVec 3) (cmask : BitVec 8) (lanes : Mask) (k : State → Out) : Out :=
  let ths := c.w.serials lanes
  let s := c.s.fenceWork c.b.id c.g.job scope cmask ths
  if !s.fenceDone c.b.id scope cmask ths then c.waitIn s
  else
    let bad := s.fenceFailures c.b.id scope cmask ths
    if bad.isEmpty then k s
    else
      let s := s.modSync fun y => { y with deliveries := y.deliveries.filter (fun d => !bad.contains d) }
      .next (s.takeTrap c.f ((s.warp? c.w.id).getD c.w) c.b { cause := .fabricDelivery, lanes, addr := failedAddr bad, info := failedRanks bad })

/-! ## Publication (R261, R262) -/

def State.releaseCount (s : State) (job : BitVec 16) (sync : DWord) : Nat :=
  ((s.sync.releases.find? (fun x => x.1 == job && x.2.1 == sync)).map (·.2.2)).getD 0

/-- A REL publishes the store too: an earlier one of its scope or wider has published it already (R272). -/
def HistStore.publish (x : HistStore) (n : Nat) (scope : BitVec 3) : HistStore :=
  if x.tags.any (fun r => scope.toNat ≤ r.2.toNat) then x else { x with tags := x.tags ++ [(n, scope)] }

/-- Publish the bound stores of a sync object made by the threads `ths`, tagged with the next release and its scope. -/
def State.publish (s : State) (job : BitVec 16) (sync : DWord) (scope : BitVec 3) (ths : List Nat) : State :=
  let n := s.releaseCount job sync + 1
  s.modSync fun y =>
    { y with
      releases := (y.releases.filter (fun x => !(x.1 == job && x.2.1 == sync))) ++ [(job, sync, n)]
      histories := y.histories.map (fun h => { h with stores := h.stores.map (fun x =>
        if x.job == job && x.sync == sync && x.threads.any (fun t => ths.contains t) then x.publish n scope else x) }) }

/-- Let the threads in lanes of a warp see what is published through a sync object (R262). -/
def State.acquire (s : State) (w : Nat) (lanes : Mask) (job : BitVec 16) (sync : DWord) : State :=
  let n := s.releaseCount job sync
  s.modWarp w (fun w => { w with threads := Vector.ofFn (fun (l : Fin 32) =>
    match w.threads[l] with
    | some t => if lanes.getLsbD l then
        some { t with acquired := (t.acquired.filter (fun x => !(x.1 == job && x.2.1 == sync))) ++ [(job, sync, n)] } else some t
    | none => none) })

/-- A history without its settled prefix: stores that every reader sees end it. -/
def History.settle (h : History) (loose : HistStore → Bool) : Option History :=
  let r := h.stores.foldl (fun (acc : Byte × List HistStore) x => if loose x then (x.value, []) else (acc.1, acc.2 ++ [x])) (h.base, [])
  if r.2.isEmpty then none else some { h with base := r.1, stores := r.2 }

/-- At the end of a block every bound store of it counts as unbound (R264), and nobody misses its REDMs any more. -/
def State.unbindBlock (s : State) (b : Nat) : State :=
  (s.reveal (fun x => x.block == b)).modSync fun y => { y with histories := y.histories.filterMap (fun h => h.settle (fun x => x.block == b)) }

end Sys2Proof.Machine
end

