-- ==== Sys2Proof/Machine/PageOps.lean ====
section
/-! DEFINITION. Sharded pages: the sluice engine's operations on a leaf and its messages
(10 R200 to R218). -/

namespace Sys2Proof.Machine

open Sys2Proof

/-! ## The page and its group -/

def Leaf.granules (lf : Leaf) : Nat := lf.size / 16

/-- Granules that a rank owns (R202). -/
def ownedBy (g n r : Nat) : Nat := (g - r + n - 1) / n

/-- The coordinator's rank (R202). -/
def Leaf.coordinator (lf : Leaf) (n : Nat) : Nat := lf.page.toNat / lf.size % n

def Group.dev (g : Group) (r : Nat) : BitVec 11 := bits (g.members.getD r 0) 0 11

def State.leafGroup (s : State) (lf : Leaf) : Option Group := s.group? (pteSgid lf.pte)

/-- The leaf as it stands now. -/
def State.reLeaf (s : State) (lf : Leaf) : Leaf := (s.leaf? lf.job lf.page).getD lf

def State.transition? (s : State) (job : BitVec 16) (page : DWord) : Option Transition :=
  s.mem.transitions.find? (fun t => t.job == job && t.page == page && t.kind != .fill)

/-- The fill of a PENDING page in progress (R214). -/
def State.fill? (s : State) (job : BitVec 16) (page : DWord) : Option Transition :=
  s.mem.transitions.find? (fun t => t.job == job && t.page == page && t.kind == .fill)

def Transition.same (t x : Transition) : Bool := x.job == t.job && x.page == t.page && (x.kind == .fill) == (t.kind == .fill)

def State.setTransition (s : State) (t : Transition) : State :=
  s.modMem fun y => { y with transitions := updWhere t.same (fun _ => t) y.transitions }

/-- Close the operation open on a page. -/
def State.closeTransition (s : State) (job : BitVec 16) (page : DWord) : State :=
  s.modMem fun y => { y with transitions := y.transitions.filter (fun x => !(x.job == job && x.page == page && x.kind != .fill)) }

def State.closeFill (s : State) (job : BitVec 16) (page : DWord) : State :=
  s.modMem fun y => { y with transitions := y.transitions.filter (fun x => !(x.job == job && x.page == page && x.kind == .fill)) }

/-- A span of g that lies in the page. -/
def Span.within (x : Span) (page : DWord) (size : Nat) : Bool :=
  (match x.place with | .buf _ _ _ | .lwin _ _ _ => false | _ => true)
    && x.va.toNat < page.toNat + size && page.toNat < x.va.toNat + x.len

/-- An engine operation or a collective holds a translation of the page that it has not used up (R190) (log 29, DEDUCED). -/
def State.pageHeld (s : State) (lf : Leaf) : Bool :=
  let mine := fun (b : Block) => match s.grid? b.grid with | some g => g.job == lf.job | none => false
  let touches := fun (x : Option Span) => match x with | some y => y.within lf.page lf.size | none => false
  let counts := fun (x : Done) => match x with | .cnt p => p.overlap 8 (lf.place lf.page) lf.size | _ => false
  s.work.blocks.any (fun b => mine b && b.queues.toList.any (fun q => q.any (fun o =>
    counts o.done || o.moves.any (fun m => touches m.src || touches m.dst))))
    || s.coll.colls.any (fun k => k.job == lf.job && (k.src ++ k.dst).any (fun x => x.within lf.page lf.size))

/-- A further entry may be opened, `own` for an operation that this device coordinates: 1,024 of the 4,096 serve only
operations of other coordinators (R211). -/
def State.canOpen (s : State) (own : Bool) : Bool :=
  s.mem.transitions.length < 4096 && (!own || (s.mem.transitions.filter (·.coordinator)).length < 3072)

/-- An entry may be opened for an operation on a page. -/
def State.canOpenAt (s : State) (lf : Leaf) : Bool :=
  match s.leafGroup lf with
  | some g => s.canOpen (lf.coordinator g.n == g.rank)
  | none => true

/-- Fragments in page wait reissue and look again (R189). -/
def State.wakePages (s : State) : State :=
  s.modWork fun y => { y with frags := updWhere (fun f => match f.run with | .parked .page _ => true | _ => false) (fun f => { f with run := .ready }) y.frags }

def State.setShst (s : State) (lf : Leaf) (x : BitVec 3) : State :=
  (s.setLeaf lf (pteSetShst (s.reLeaf lf).pte x.toNat)).wakePages

/-- A page message from this member. -/
def pageMsg (g : Group) (lf : Leaf) (opn : BitVec 16) : PageMsg :=
  { src := BitVec.ofNat 6 g.rank, sgid := g.sgid, gen := pteGen lf.pte, opn, va := lf.page, sz := pteSz lf.pte,
    status := 0, gran := 0, ngran := 0, data := [], poison := 0 }

/-- Send a page message to a rank, in the order in which messages are formed (log 45, DEDUCED). -/
def State.sendPage (s : State) (lf : Leaf) (g : Group) (rank : Nat) (mk : Arrival → Instr) : State :=
  s.send (g.dev rank) clsPage (s.jobKey lf.job) mk

/-- Send to every other member (a multicast, R209). -/
def State.sendOthers (s : State) (lf : Leaf) (g : Group) (mk : Arrival → Instr) : State :=
  (List.range g.n).foldl (fun s r => if r = g.rank then s else s.sendPage lf g r mk) s

/-- 16 bytes as a granule, and back. -/
def granuleOf (bs : List Byte) : BitVec 128 := ofBytes 128 bs

/-- The layout of the page's shard frame at its installation. -/
def State.laidAs (s : State) (lf : Leaf) : Option Group := (s.mem.laid.find? (fun x => x.job == lf.job && x.page == lf.page)).map (·.group)

/-- The bytes of the shard frame are not those of the granules: the group entry has another N or member list than at the
installation, and the values are undefined (R201), or the PFN names a frame of another device, of which the spec gives no
value (log 84, DESIGN CHOICE). -/
def State.stray (s : State) (lf : Leaf) (g : Group) : Bool :=
  (match lf.shard 0 with | .hbm _ => false | _ => true)
    || (match s.laidAs lf with | some h => h.n != g.n || h.rank != g.rank || h.members != g.members | none => false)

/-- The granule `q` of the shard frame of rank `g mod N`, at offset 16 × (q div N) (R202); free bytes of a stray frame. -/
def State.shardGranule (s : State) (lf : Leaf) (g : Group) (q : Nat) : List Byte × State :=
  if s.stray lf g then
    let d := s.drawN 16
    ((List.range 16).map (fun i => BitVec.ofNat 8 (d.1 i)), d.2)
  else (s.getAt (lf.shard (16 * (q / g.n))) 16, s)

/-- Some granules of the shard frame, in order. -/
def State.shardGranules (s : State) (lf : Leaf) (g : Group) (qs : List Nat) : List (List Byte) × State :=
  qs.foldl (fun r q => let x := r.2.shardGranule lf g q; (r.1 ++ [x.1], x.2)) ([], s)

/-- Own granules of a member, ascending, in groups of at most `k`. -/
def ownGroups (total n rank k : Nat) : List (List Nat) :=
  let c := ownedBy total n rank
  (List.range ((c + k - 1) / k)).map (fun i => (List.range (min k (c - k * i))).map (fun j => rank + n * (k * i + j)))

/-- A message with granules of the shard frame, and the marks of those in poisoned lines (R355). -/
def State.granuleMsg (s : State) (lf : Leaf) (g : Group) (opn : BitVec 16) (qs : List Nat) : PageMsg × State :=
  let r := s.shardGranules lf g qs
  let m : PageMsg := { pageMsg g lf opn with
    gran := BitVec.ofNat 32 (qs.headD 0), ngran := BitVec.ofNat 8 qs.length, data := r.1.map granuleOf
    poison := BitVec.ofNat 16 ((List.range qs.length).foldl (fun m i => if s.isPoisoned (lf.shard (16 * (qs.getD i 0 / g.n))) 16 then m + 2 ^ i else m) 0) }
  (m, r.2)

/-- Serve every own granule from the shard frame in packets of up to 16 (R213). -/
def State.serve (s : State) (lf : Leaf) (g : Group) (opn : BitVec 16) : State :=
  (ownGroups lf.granules g.n g.rank 16).foldl (fun s qs =>
    let r := s.granuleMsg lf g opn qs
    r.2.sendOthers lf g (fun p => .gdata p r.1)) s

/-- Copy own granules into the full frame, with the marks of poisoned lines (R205, R355). -/
def State.copyOwn (s : State) (lf : Leaf) (g : Group) : State :=
  (ownGroups lf.granules g.n g.rank 1).foldl (fun s qs =>
    let q := qs.headD 0
    let src := lf.shard (16 * (q / g.n))
    let dst := Place.frame lf.job lf.page (16 * q)
    let r := s.shardGranule lf g q
    let s1 := r.2.putAt dst r.1
    if s.isPoisoned src 16 then s1.addPoison dst 16 else s1) s

/-! ## The end of an operation -/

def ringNext (g : Group) : Nat := (g.rank + 1) % g.n

/-- Release the page entry of a drain in the range table (R216). -/
def State.dropPageRange (s : State) (lf : Leaf) : State :=
  s.modColl fun y => { y with ranges := y.ranges.filter (fun r => !(r.coll.isNone && r.job == lf.job && r.base == lf.page)) }

def State.addPageRange (s : State) (lf : Leaf) : State :=
  s.modColl fun y => { y with ranges := y.ranges ++ [{ job := lf.job, base := lf.page, len := lf.size, coll := none, spans := [] }] }

/-- A page entry is free: 128 of the 512 entries of the range table are for drains, the others serve collectives only
(R216, R305). -/
def State.pageEntryFree (s : State) : Bool := (s.coll.ranges.filter (fun r => r.coll.isNone)).length < 128

/-- END of the operation at this member (R205, R213, R215). -/
def State.onEnd (s : State) (lf : Leaf) (gen : BitVec 16) : State :=
  match s.transition? lf.job lf.page with
  | none => s
  | some t =>
      let s := s.closeTransition lf.job lf.page
      if t.kind == .drain && pteShst (s.reLeaf lf).pte == shDraining then
        let s := (s.dropFrame lf.job lf.page lf.size).dropPageRange lf
        (s.setLeaf lf (pteSetGen (pteSetShst (s.reLeaf lf).pte shSharded.toNat) gen.toNat)).wakePages
      else s.wakePages

/-- The coordinator hears GDONE or DDONE of a rank; after every member's it ends the operation. -/
def State.onDone (s : State) (lf : Leaf) (g : Group) (rank : Nat) : State :=
  match s.transition? lf.job lf.page with
  | none => s
  | some t =>
      if !t.coordinator then s else
        let t := { t with dones := insertNat rank t.dones, heard := setKey rank s.time t.heard }
        let s := s.setTransition t
        if t.dones.length < g.n then s
        else
          let gen := if t.kind == .drain then t.gen + 1 else t.gen
          let m : PageMsg := { pageMsg g lf t.opn with gen }
          (s.sendOthers lf g (fun p => .pageEnd p m)).onEnd lf gen

/-- This member's own part is done: tell the coordinator, once for each operation, and wait for it from now on. -/
def State.memberDone (s : State) (lf : Leaf) (g : Group) (status : BitVec 8) : State :=
  match s.transition? lf.job lf.page with
  | none => s
  | some t =>
      if t.sentDone then s else
        let c := lf.coordinator g.n
        let s := s.setTransition { t with sentDone := true, heard := setKey c s.time t.heard }
        if c = g.rank then s.onDone lf g g.rank
        else
          let m : PageMsg := { pageMsg g lf t.opn with gen := t.gen, status }
          s.sendPage lf g c (fun p => (if t.kind == OpKind.drain then Instr.ddone p m else Instr.gdone p m))

def State.isSwapped (s : State) (job : BitVec 16) : Bool := match s.job? job with | some j => j.swapped | none => true

/-- Queue a deferred fill of a swapped job, at most 256 (R214): PENDING, or SHARDED when none is queued. -/
def State.deferFill (s : State) (lf : Leaf) : State :=
  match s.job? lf.job with
  | none => s
  | some j =>
      if j.deferred.length < 256 then (s.setJob { j with deferred := j.deferred ++ [lf.page] }).setShst lf shPending
      else s.setShst lf shSharded

/-- The ranks whose packets an operation awaits, heard now. -/
def State.awaiting (s : State) (g : Group) : List (Nat × Nat) :=
  ((List.range g.n).filter (· != g.rank)).map (fun r => (r, s.time))

def newTransition (s : State) (lf : Leaf) (g : Group) (kind : OpKind) (opn : BitVec 16) (coord : Bool) : Transition :=
  { job := lf.job, page := lf.page, kind, gen := pteGen lf.pte, opn, coordinator := coord, requested := false,
    dones := [], sentDone := false, got := [], seen := [], written := [], heard := s.awaiting g }

/-- Open or reuse the entry of an operation. -/
def State.openTransition (s : State) (t : Transition) : State :=
  if s.mem.transitions.any t.same then s.setTransition t
  else s.modMem fun y => { y with transitions := y.transitions ++ [t] }

/-- GATHER at this member (R205). -/
def State.onGather (s : State) (lf : Leaf) (g : Group) (opn : BitVec 16) (coord : Bool) : State :=
  if pteRole lf.pte then s
  else
    let sh := pteShst lf.pte
    let begun := s.openTransition (newTransition s lf g .gather opn coord)
    if sh == shSharded && s.isSwapped lf.job then (((begun.serve lf g opn).deferFill lf).memberDone lf g 1)
    else if sh == shSharded then (((begun.takeFrame lf).copyOwn lf g).serve lf g opn).setShst lf shGathering
    else if sh == shGathering then begun.serve lf g opn
    else if sh == shGathered then (begun.serve lf g opn).memberDone lf g 0
    else if sh == shPending then (begun.serve lf g opn).memberDone lf g 1
    else s

/-! ## Drains (R33, R215) -/

/-- The element width of a gradient page in bytes: FMT 1, 2, 3 or 8. -/
def gradWidth (fmt : BitVec 4) : Nat := if fmt == 2#4 || fmt == 3#4 then 2 else 4

/-- An element of a contribution widened to a 32-bit sum; a signalling NaN raises NV. -/
def widenElem (fmt : BitVec 4) (x : Nat) : Word × Flags :=
  if gradWidth fmt = 2 then
    let r := Fmt.fp32.round .rne false ((fmtOf fmt).decode x)
    (BitVec.ofNat 32 r.1, r.2)
  else (BitVec.ofNat 32 x, 0)

/-- Elements of a contribution. -/
def elements (fmt : BitVec 4) (bs : List Byte) : List Nat :=
  let n := gradWidth fmt
  (List.range (bs.length / n)).map (fun i => natOfBytes ((bs.drop (n * i)).take n))

/-- Bytes of a contribution widened to 32-bit sums. -/
def widenBytes (fmt : BitVec 4) (bs : List Byte) : List Word := (elements fmt bs).map (fun x => (widenElem fmt x).1)

/-- One addition of R33, or a wrapping INT32 addition. -/
def addSum (fmt : BitVec 4) (x y : Word) : Word × Flags := if fmt == 8#4 then (x + y, 0) else addFp32 x y

/-- The final conversion of a sum to the FMT, as bytes (R33). -/
def narrowSum (fmt : BitVec 4) (x : Word) : List Byte × Flags :=
  if fmt == 8#4 then (bytesOf x 4, 0)
  else
    let r := (fmtOf fmt).round .rne false (fp32 x)
    (bytesOf (BitVec.ofNat 32 r.1) (gradWidth fmt), r.2)

/-- The bytes of this member's contribution to granule `q`: its partial copy, or zeros (R215). -/
def State.partialBytes (s : State) (lf : Leaf) (q : Nat) : List Byte :=
  if (s.frame? lf.job lf.page).isSome then s.getAt (.frame lf.job lf.page (16 * q)) 16 else List.replicate 16 0

def State.contribution (s : State) (lf : Leaf) (q : Nat) : List Word := widenBytes (pteFmt lf.pte) (s.partialBytes lf q)

/-- The flags of widening a contribution. -/
def State.widenFlags (s : State) (lf : Leaf) (q : Nat) : Flags :=
  (elements (pteFmt lf.pte) (s.partialBytes lf q)).foldl (fun m x => m ||| (widenElem (pteFmt lf.pte) x).2) 0

/-- Flags of a drain are ORed per page, for telemetry (R33, R215). No message carries them, so the device that forms them
reports them (log 74, DEDUCED). -/
def State.orDrainFlags (s : State) (lf : Leaf) (fl : Flags) : State :=
  s.modMem fun y =>
    let old := ((y.drainFlags.find? (fun x => x.1 == lf.job && x.2.1 == lf.page)).map (·.2.2)).getD 0
    { y with drainFlags := (y.drainFlags.filter (fun x => !(x.1 == lf.job && x.2.1 == lf.page))) ++ [(lf.job, lf.page, old ||| bits fl 0 5)] }

/-- Granules in one DSUM: 64 sums. -/
def dsumGranules (fmt : BitVec 4) : Nat := if gradWidth fmt = 2 then 8 else 16

def wordsToFlits : List Word → List (BitVec 128)
  | a :: b :: c :: d :: r => (d ++ c ++ b ++ a) :: wordsToFlits r
  | _ => []

def flitsToWords (l : List (BitVec 128)) : List Word := l.flatMap (fun x => [bits x 0 32, bits x 32 32, bits x 64 32, bits x 96 32])

/-- DRAIN at this member: the page stops taking accesses, and the sums of own granules start round the ring. -/
def State.onDrain (s : State) (lf : Leaf) (g : Group) (opn : BitVec 16) (coord : Bool) : State :=
  let sh := pteShst lf.pte
  if !pteRole lf.pte || !(sh == shSharded || sh == shPartial || sh == shDraining) then s
  else
    let s := s.openTransition (newTransition s lf g .drain opn coord)
    let s := if sh == shDraining then s else (s.addPageRange lf).setShst lf shDraining
    (ownGroups lf.granules g.n g.rank (dsumGranules (pteFmt lf.pte))).foldl (fun s qs =>
      let m : PageMsg := { pageMsg g lf opn with gran := BitVec.ofNat 32 (qs.headD 0), ngran := BitVec.ofNat 8 qs.length,
                                                 data := wordsToFlits (qs.flatMap (s.contribution lf)) }
      (s.orDrainFlags lf (qs.foldl (fun m q => m ||| s.widenFlags lf q) 0)).sendPage lf g (ringNext g) (fun p => .dsum p m)) s

/-- The granules that a message carries: NGRAN from GRAN in steps of N. -/
def msgGranules (m : PageMsg) (n : Nat) : List Nat := (List.range m.ngran.toNat).map (fun i => m.gran.toNat + n * i)

/-- The local bytes at an offset of the shard frame belong to it under the layout of its installation (R201, R202). -/
def State.inShard (s : State) (lf : Leaf) (off : Nat) : Bool :=
  match s.laidAs lf with
  | some h => off < 16 * ownedBy lf.granules h.n h.rank
  | none => true

/-- Write the final sums of one own granule into the shard frame, replacing what it held; a stray frame takes free bytes, and
nothing beyond what was laid out for it (R201). -/
def State.writeOwn (s : State) (lf : Leaf) (g : Group) (q : Nat) (sums : List Word) : State :=
  let rs := sums.map (narrowSum (pteFmt lf.pte))
  let off := 16 * (q / g.n)
  let s := if !s.stray lf g then s.performAt (lf.shard off) (rs.flatMap (·.1))
    else if !s.inShard lf off then s
    else
      let d := s.drawN 16
      d.2.performAt (lf.shard off) ((List.range 16).map (fun i => BitVec.ofNat 8 (d.1 i)))
  s.orDrainFlags lf (rs.foldl (fun m r => m ||| r.2) 0)

/-- DSUM at this member: add the own contribution and pass the sums on, or write them at their owner. -/
def State.onDsum (s : State) (lf : Leaf) (g : Group) (t : Transition) (m : PageMsg) : State :=
  let per := 16 / gradWidth (pteFmt lf.pte)
  let words := flitsToWords m.data
  let qs := msgGranules m g.n
  let part := fun (i : Nat) => (words.drop (per * i)).take per
  let owner := m.gran.toNat % g.n
  if owner = g.rank then
    let s := (List.range qs.length).foldl (fun s i => s.writeOwn lf g (qs.getD i 0) (part i)) s
    let t := { t with written := insertAll qs t.written, heard := setKey m.src.toNat s.time t.heard }
    let s := s.setTransition t
    if t.written.length = ownedBy lf.granules g.n g.rank then s.memberDone lf g 0 else s
  else
    let rs := (List.range qs.length).flatMap (fun i =>
      let own := s.contribution lf (qs.getD i 0)
      (List.range per).map (fun k => addSum (pteFmt lf.pte) ((part i).getD k 0) (own.getD k 0)))
    let m' : PageMsg := { m with src := BitVec.ofNat 6 g.rank, data := wordsToFlits (rs.map (·.1)) }
    let s := s.orDrainFlags lf (rs.foldl (fun m r => m ||| r.2) (qs.foldl (fun m q => m ||| s.widenFlags lf q) 0))
    let s := s.setTransition { t with heard := setKey m.src.toNat s.time t.heard }
    s.sendPage lf g (ringNext g) (fun p => .dsum p m')

/-! ## Starting operations -/

/-- The coordinator takes the next operation number of its counter (R212). -/
def State.nextOpn (s : State) : BitVec 16 × State := (s.mem.opn + 1, s.modMem fun y => { y with opn := y.opn + 1 })

/-- The coordinator starts an operation at every member, itself included. -/
def State.startOp (s : State) (lf : Leaf) (g : Group) (kind : OpKind) : State :=
  let r := s.nextOpn
  let m := pageMsg g lf r.1
  let s := r.2.openTransition (newTransition s lf g kind r.1 true)
  let s := s.sendOthers lf g (fun p => (if kind == OpKind.drain then Instr.drain p m else Instr.gather p m))
  if kind == .drain then s.onDrain lf g r.1 true else s.onGather lf g r.1 true

/-- Ask the coordinator for an operation, or start it; an open one of the page is joined (R212). -/
def State.askOp (s : State) (lf : Leaf) (g : Group) (kind : OpKind) : State :=
  if (s.transition? lf.job lf.page).isSome || !s.canOpenAt lf then s
  else
    let c := lf.coordinator g.n
    if c = g.rank then s.startOp lf g kind
    else
      let m := pageMsg g lf 0
      let s := s.openTransition { newTransition s lf g kind 0 false with requested := true, heard := [(c, s.time)] }
      s.sendPage lf g c (fun p => (if kind == OpKind.drain then Instr.dreq p m else Instr.greq p m))

/-- An access that meets a page it cannot use yet (R191 row 9, R204, R205). -/
def State.wantPage (s : State) (lf : Leaf) : State :=
  match s.leafGroup lf with
  | none => s
  | some g =>
      if pteShst lf.pte != shSharded then s
      else if pteRole lf.pte then
        if s.frameFree lf.size then (s.takeFrame lf).setShst lf shPartial else s
      else if s.isSwapped lf.job || s.frameFree lf.size then s.askOp lf g .gather
      else s

/-- EVICT or memory pressure on a page (R205, R231). -/
def State.evictPage (s : State) (lf : Leaf) : State :=
  let sh := pteShst lf.pte
  if s.pageHeld lf then s
  else if sh == shGathered && (s.transition? lf.job lf.page).isNone then (s.dropFrame lf.job lf.page lf.size).setShst lf shSharded
  else if sh == shPartial then
    match s.leafGroup lf with
    | none => s
    | some g =>
        if s.pageEntryFree && s.canOpenAt lf then
          let s1 := (s.addPageRange lf).setShst lf shDraining
          s1.askOp (s1.reLeaf lf) g .drain
        else s
  else if sh == shPending then
    let s := match s.job? lf.job with
      | some j => s.setJob { j with deferred := j.deferred.filter (· != lf.page) }
      | none => s
    ((s.dropFrame lf.job lf.page lf.size).closeFill lf.job lf.page).setShst lf shSharded
  else s

/-! ## Failure (R217) -/

/-- Every shard-frame line of this member is poisoned: those laid out at the installation. -/
def State.poisonShard (s : State) (lf : Leaf) (g : Group) : State :=
  let h := (s.laidAs lf).getD g
  s.addPoison (lf.shard 0) (16 * ownedBy lf.granules h.n h.rank)

/-- The page is lost here, the shard of a gradient page poisoned, whose one operation is a drain: FAILED, frames released, parked accesses replayed, FAIL sent once. -/
def State.failPage (s : State) (lf : Leaf) (g : Group) : State :=
  let t := s.transition? lf.job lf.page
  let s := (s.dropFrame lf.job lf.page lf.size).dropPageRange lf
  let s := if pteRole lf.pte then s.poisonShard lf g else s
  let s := ((s.closeTransition lf.job lf.page).closeFill lf.job lf.page).setShst lf shFailed
  let m := pageMsg g lf (match t with | some x => x.opn | none => 0)
  s.sendOthers lf g (fun p => .fail p m)

/-- An access that finds the group entry wanting moves the leaf to FAILED, with no message (R201). -/
def State.failQuiet (s : State) (lf : Leaf) : State :=
  if pteShst lf.pte == shFailed then s else (s.dropFrame lf.job lf.page lf.size).setShst lf shFailed

/-! ## Becoming swapped and resident (R205, R206) -/

/-- Every GATHERING page of a job that becomes swapped: the frame is released and the member goes PENDING,
or SHARDED when no fill can be queued; its granules are served already (R213). The frames of its GATHERED pages are charged
no longer, and accesses that wait for one try again (R207). -/
def State.jobSwapped (s : State) (job : BitVec 16) : State :=
  State.wakePages <|
  let s := s.modWork fun y => { y with jobs := updWhere (fun j => j.num == job) (fun j => { j with swapped := true }) y.jobs }
  (s.mem.frames.filter (fun x => x.job == job)).foldl (fun s x =>
    match s.leaf? job x.page with
    | none => s
    | some lf =>
        if pteShst lf.pte == shGathered then s.charge x false
        else if pteShst lf.pte != shGathering then s
        else match s.leafGroup lf with
          | none => s
          | some g => ((s.dropFrame job x.page lf.size).deferFill lf).memberDone lf g 1) s

def State.jobResident (s : State) (job : BitVec 16) : State :=
  (s.mem.frames.filter (fun x => x.job == job)).foldl (fun s x => s.charge x true)
    (s.modWork fun y => { y with jobs := updWhere (fun j => j.num == job) (fun j => { j with swapped := false }) y.jobs })

end Sys2Proof.Machine
end

