-- ==== Sys2Proof/Machine/Access.lean ====
section
/-! DEFINITION. One memory instruction over its lanes: the outcome table of R191, remote lines, reads and
stores (09 R191; 11 R219 to R222; 14 R298, R299). -/

namespace Sys2Proof.Machine

open Sys2Proof

/-- One lane's access: the address of R82, the VA it stands for, its width and its check. -/
structure LaneAcc where
  lane : Nat
  addr : DWord
  va : DWord
  len : Nat
  check : Check
deriving DecidableEq, Repr

/-- A lane whose check passed. -/
structure LaneOk where
  acc : LaneAcc
  place : Place
  leaf : Option Leaf
deriving DecidableEq, Repr

def noKeyRule (_ : BitVec 128) : Bool := false

/-- The lanes of an instruction of R82. -/
def Ctx.lanesOf (c : Ctx) (m : MemOp) (atomic : Bool) (lanes : List Nat) (n : Nat) (k : Access) (keyed extra : BitVec 128 → Bool) : List LaneAcc :=
  lanes.map (fun l =>
    let a := laneAddr c.f m atomic l
    { lane := l, addr := a, va := laneVa c.w m.sp l a, len := n, check := c.s.check c.g c.w c.b m.sp l a n k keyed extra })

/-! ## Rows 1 to 9 (R191) -/

def Check.cause? : Check → Option (Nat × Cause × BitVec 12)
  | .bad row cause sgid => some (row, cause, sgid)
  | _ => none

/-- The trap of the lowest row (log 10, DEDUCED). -/
def worst (xs : List LaneAcc) : Option (Nat × Cause × BitVec 12) :=
  xs.foldl (fun acc x => match x.check.cause?, acc with
    | some r, none => some r
    | some r, some a => if r.1 < a.1 then some r else acc
    | none, _ => acc) none

/-- A leaf whose group entry is wanting becomes FAILED at the access that finds it so (R201). -/
def Ctx.failLeaves (c : Ctx) (xs : List LaneAcc) : State :=
  xs.foldl (fun s x => match x.check with
    | .bad 8 _ _ => match s.leaf? c.g.job x.va with
        | some lf => if s.groupOk lf then s else s.failQuiet lf
        | none => s
    | _ => s) c.s

/-- Start a walk for a core, or join the one that is under way (R188, R189). -/
def State.startWalk (s : State) (core : Nat) (job : BitVec 16) (page : DWord) : State :=
  s.modMem fun y =>
    if y.walks.any (fun x => x.job == job && x.page == page) then
      { y with walks := updWhere (fun x => x.job == job && x.page == page && !x.cores.contains core) (fun x => { x with cores := x.cores ++ [core] }) y.walks }
    else { y with walks := y.walks ++ [⟨job, page, [core]⟩] }

/-- Start or join the walk or the page transition that a lane waits for (R188, R189, R204, R205). -/
def State.startWait (s : State) (core : Nat) (k : Check) : State :=
  match k with
  | .miss lf => s.startWalk core lf.job lf.page
  | .wait lf => s.wantPage (s.reLeaf lf)
  | _ => s

/-- The lane still cannot go on after its wait was started. -/
def State.stillWaits (s : State) (k : Check) : Bool :=
  match k with
  | .miss _ => true
  | .wait lf =>
      let sh := pteShst (s.reLeaf lf).pte
      !(sh == shGathered || sh == shPartial || sh == shFailed)
  | _ => false

/-- The trap of a list of failing lanes with one cause. `whole` is the mask of an instruction that makes one
access for all its lanes (R223) (log 50, DEDUCED). -/
def Ctx.laneTrap (c : Ctx) (s : State) (whole : Option Mask) (cause : Cause) (sgid : BitVec 12) (xs : List LaneAcc) : Out :=
  let mask := whole.getD (maskOf (fun l => xs.any (fun x => x.lane == l)))
  let addr := (xs.head?.map (·.addr)).getD 0
  ({ c with s } : Ctx).trapWith cause mask addr (c.descriptor + (if cause == .shardLost then sgid.setWidth 64 <<< 32 else 0))

/-- The lanes whose checks passed. -/
def passed (xs : List LaneAcc) : List LaneOk :=
  xs.filterMap (fun x => match x.check with
    | .ok place leaf => some { acc := x, place, leaf }
    | _ => none)

/-- The access reads a byte of a poisoned line that no store buffer supplies. -/
def Ctx.readsPoison (c : Ctx) (x : LaneOk) : Bool :=
  c.s.isPoisoned x.place x.acc.len && (List.range x.acc.len).any (fun i => (buffered c.b c.f.id (x.place.at i)).isNone)

/-- The home of the access carries an uncorrectable error. -/
def Ctx.homePoisoned (c : Ctx) (x : LaneOk) : Bool := c.s.isPoisoned x.place x.acc.len

/-- An access consumes an error of a place's storage (R348); the bank is a free value (log 4). -/
def Ctx.consumeAt (c : Ctx) (p : Place) (mask : Mask) (addr : DWord) : State :=
  let r := c.s.draw
  r.2.consume c.f c.w c.b (r.2.placeUnit p c.b.core r.1) mask addr c.descriptor

/-- Row 11, for the lanes that `bad` selects. -/
def Ctx.poisonBy (c : Ctx) (bad : LaneOk → Bool) (whole : Option Mask) (xs : List LaneOk) (go : Out) : Out :=
  match xs.filter bad with
  | [] => go
  | x :: rest =>
      let mask := whole.getD (maskOf (fun l => (x :: rest).any (fun y => y.acc.lane == l)))
      .next (c.consumeAt x.place mask x.acc.addr)

/-- Row 11 for a load that its store buffers may answer. -/
def Ctx.poisonCheck (c : Ctx) (whole : Option Mask) (xs : List LaneOk) (go : Out) : Out := c.poisonBy c.readsPoison whole xs go

/-- Row 9: start the waits and park, or look again at once where nothing is left to wait for. -/
def Ctx.pageWait (c : Ctx) (waits : List LaneAcc) : Out :=
  let s := waits.foldl (fun s x => s.startWait c.b.core x.check) c.s
  if waits.any (fun x => s.stillWaits x.check) then c.parkIn s .page else c.waitIn s

/-- Rows 1 to 9: a trap of the lanes that `same` puts with the lowest row, a page wait, or every lane's
place. A lane that `bad` selects meets row 11 before any lane parks. -/
def Ctx.resolveBy (c : Ctx) (bad : LaneOk → Bool) (whole : Option Mask) (same : Nat × Cause → Nat × Cause → Bool) (xs : List LaneAcc)
    (go : List LaneOk → Out) : Out :=
  match worst xs with
  | some (row, cause, sgid) =>
      c.laneTrap (c.failLeaves xs) whole cause sgid
        (xs.filter (fun x => match x.check.cause? with | some r => same (r.1, r.2.1) (row, cause) | none => false))
  | none =>
      let waits := xs.filter (fun x => x.check.row == 9)
      if waits.isEmpty then go (passed xs) else c.poisonBy bad whole (passed xs) (c.pageWait waits)

/-- As `resolveBy`, for the lanes of the cause (R191). -/
def Ctx.resolve (c : Ctx) (whole : Option Mask) (xs : List LaneAcc) (go : List LaneOk → Out) : Out :=
  c.resolveBy (fun _ => false) whole (fun x y => x.2 == y.2) xs go

/-- The same for an instruction that acts at the home (R226 to R228). -/
def Ctx.resolveHome (c : Ctx) (whole : Option Mask) (xs : List LaneAcc) (go : List LaneOk → Out) : Out :=
  c.resolveBy c.homePoisoned whole (fun x y => x.2 == y.2) xs go

/-- The same for an instruction that reads. -/
def Ctx.resolveRead (c : Ctx) (whole : Option Mask) (xs : List LaneAcc) (go : List LaneOk → Out) : Out :=
  c.resolveBy c.readsPoison whole (fun x y => x.2 == y.2) xs go

/-! ## Remote lines (R298, R299) -/

/-- The 64-byte line of another device that holds the access. -/
def LaneOk.farLine (x : LaneOk) : Option (BitVec 11 × Nat) :=
  match x.place with
  | .far d a => some (d, a / 64 * 64)
  | _ => none

def Frag.line? (f : Frag) (d : BitVec 11) (a : Nat) : Option Reply := f.replies.find? (fun r => r.dev == d && r.addr == a)

/-- The costs of a list of packets by destination. -/
def costs (ps : List (BitVec 11 × Nat)) : List (BitVec 11 × Nat) :=
  ps.foldl (fun acc p => setKey p.1 (((getKey p.1 acc).getD 0) + p.2) acc) []

/-- The fragment has a request outstanding. -/
def State.awaits (s : State) (frag : Nat) : Bool := s.fab.requests.any (fun r => r.isOf [frag])

/-- READ the lines, one packet for each 256-byte granule. -/
def State.sendReads (s : State) (key : BitVec 32) (why : Purpose) (lines : List (BitVec 11 × Nat)) : State :=
  (distinct (lines.map (fun x => (x.1, x.2 / 256)))).foldl (fun s g =>
    let mask : BitVec 4 := (List.range 4).foldl (fun m i => if lines.contains (g.1, 256 * g.2 + 64 * i) then m ||| (1#4 <<< i) else m) 0
    s.request g.1 key (256 * g.2) why (fun tag p => .read p tag (BitVec.ofNat 52 (256 * g.2)) mask) mask) s

/-- The bytes of remote accesses that the store buffers hold now: a load that is performed from here on returns these,
or newer ones (R253). -/
def Ctx.keepBytes (c : Ctx) (xs : List LaneOk) : List (Place × Byte) :=
  (xs.filter (fun x => x.farLine.isSome)).flatMap (fun x =>
    (List.range x.acc.len).filterMap (fun i => (buffered c.b c.f.id (x.place.at i)).map (fun b => (x.place.at i, b))))

/-- Have every remote line of the lanes at hand, or send for those that are missing and park. -/
def Ctx.fetchLines (c : Ctx) (xs : List LaneOk) (go : Out) : Out :=
  let missing := (distinct (xs.filterMap LaneOk.farLine)).filter (fun x => (c.f.line? x.1 x.2).isNone)
  if missing.isEmpty then go
  else if c.s.awaits c.f.id then c.park .remoteReply
  else
    match c.s.pay c.f.id (costs ((distinct (missing.map (fun x => (x.1, x.2 / 256)))).map (fun g => (g.1, 1)))) with
    | (s, false) => c.parkIn s .allowance
    | (s, true) => ({ c with f := { c.f with kept := c.keepBytes xs } } : Ctx).parkIn (s.sendReads (c.s.jobKey c.g.job) (.load c.f.id) missing) .remoteReply

/-- The status by which the model marks a request that went unanswered for 100 µs. -/
def unanswered : BitVec 8 := 0xFF

/-- The cause of a reply's STATUS (R291, R297), with the row by which it is chosen. -/
def replyCause (st : BitVec 8) : Option (Nat × Cause) :=
  if st == 3#8 then some (4, .noMapping)
  else if st == 2#8 then some (7, .rangeBusy)
  else if st == 1#8 then some (11, .poison)
  else if st == unanswered then some (12, .fabricDelivery)
  else none

/-- The lowest address of some lanes (R297). -/
def lowestAddr (xs : List LaneAcc) : DWord := xs.foldl (fun m x => if x.addr.toNat < m.toNat then x.addr else m) (xs.head?.map (·.addr) |>.getD 0)

/-- The trap of the lanes whose replies refuse them, if any; POISON is consumed (R348). -/
def Ctx.replyTrap (c : Ctx) (whole : Option Mask) (noPoison : Bool) (xs : List LaneOk) (statusOf : LaneOk → Option (BitVec 8)) (go : Out) : Out :=
  let cs := xs.filterMap (fun x => ((statusOf x).bind replyCause).map (fun r => (x, r)))
  let cs := if noPoison then cs.filter (fun x => x.2.2 != .poison) else cs
  match cs.foldl (fun (acc : Option (Nat × Cause)) x => match acc with | none => some x.2 | some a => if x.2.1 < a.1 then some x.2 else some a) none with
  | none => go
  | some (_, cause) =>
      let hit := (cs.filter (fun x => x.2.2 == cause)).map (·.1)
      let bad := hit.map (·.acc)
      if cause == .poison then
        let mask := whole.getD (maskOf (fun l => bad.any (fun x => x.lane == l)))
        .next (c.consumeAt ((hit.head?.map (·.place)).getD (.hbm 0)) mask ((bad.head?.map (·.addr)).getD 0))
      else if cause == .fabricDelivery then
        let mask := whole.getD (maskOf (fun l => bad.any (fun x => x.lane == l)))
        c.trapWith cause mask (lowestAddr bad) 0
      else c.laneTrap c.s whole cause 0 bad

/-! ## Reading -/

/-- The bytes that a remote reply holds for an access. -/
def LaneOk.home (f : Frag) (x : LaneOk) : List Byte :=
  match x.place with
  | .far d a => match f.line? d (a / 64 * 64) with
      | some r => r.bytes.drop (a % 64)
      | none => []
  | _ => []

/-- The bytes every lane reads. -/
def Ctx.readAll (c : Ctx) (xs : List LaneOk) : List (Nat × List Byte) × State :=
  xs.foldl (fun r x =>
    let y := r.2.loadBytes c.f c.w c.b x.acc.lane x.place x.acc.len (x.home c.f)
    (r.1 ++ [(x.acc.lane, y.1)], y.2)) ([], c.s)

/-- The STATUS of the reply that holds an access. -/
def Frag.lineStatus (f : Frag) (x : LaneOk) : Option (BitVec 8) := (x.farLine.bind (fun l => f.line? l.1 l.2)).map (·.status)

/-- A load of lanes that passed rows 1 to 9: remote lines, row 11, then the bytes. -/
def Ctx.loadOk (c : Ctx) (whole : Option Mask) (ok : List LaneOk) (k : State → (Nat → List Byte) → Out) : Out :=
  c.fetchLines ok
    (c.replyTrap whole false ok c.f.lineStatus
      (c.poisonCheck whole ok
        (let r := c.readAll ok
         k r.2 (fun l => (getKey l r.1).getD []))))

/-- A load of the lanes. -/
def Ctx.loadLanes (c : Ctx) (whole : Option Mask) (xs : List LaneAcc) (k : State → (Nat → List Byte) → Out) : Out :=
  c.resolveRead whole xs fun ok => c.loadOk whole ok k

/-- A read at the home that no store buffer answers (R273, R283). -/
def Ctx.homeOk (c : Ctx) (whole : Option Mask) (x : LaneOk) (k : State → List Byte → Out) : Out :=
  c.fetchLines [x]
    (c.replyTrap whole false [x] c.f.lineStatus
      (c.poisonBy c.homePoisoned whole [x]
        (match x.place with
         | .far _ _ => k c.s ((x.home c.f).take x.acc.len)
         | p =>
             let r := (List.range x.acc.len).foldl (fun (r : List Byte × State) i =>
               let y := r.2.homeByte c.w.id x.acc.lane c.b ((r.2.warp? c.w.id).bind (fun w => w.threads.toList.getD x.acc.lane none)) (p.at i)
               (r.1 ++ [y.1], y.2)) ([], c.s)
             k r.2 r.1)))

/-! ## Stores -/

/-- A lane's store, with the sync object that binds it when the store retires (R260). -/
def Ctx.piece (c : Ctx) (sp : Space) (x : LaneOk) (bytes : List Byte) : Piece :=
  { threads := match c.w.threads.toList.getD x.acc.lane none with | some t => [t.serial] | none => []
    va := x.acc.va, place := x.place, bytes
    sync := match sp with | .g | .t => c.b.boundTo x.acc.va x.acc.len | _ => none }

/-- The 64-byte lines and the granules of the far pieces, as costs (R299): a header flit and a data flit for
each line with a written byte. -/
def storeCosts (ps : List Piece) : List (BitVec 11 × Nat) :=
  let far := ps.filterMap (fun x => match x.place with | .far d a => some (d, a / 64) | _ => none)
  let lines := distinct far
  let grans := distinct (lines.map (fun x => (x.1, x.2 / 4)))
  costs (lines.map (fun x => (x.1, 1)) ++ grans.map (fun x => (x.1, 1)))

/-- Pay for the remote part of an instruction, or wait for the allowance (log 35, DEDUCED). -/
def Ctx.paid (c : Ctx) (cs : List (BitVec 11 × Nat)) (go : State → Out) : Out :=
  match c.s.pay c.f.id cs with
  | (s, false) => c.parkIn s .allowance
  | (s, true) => go s

/-- The store retires into the fragment store buffer. -/
def Ctx.storePieces (c : Ctx) (s : State) (col : BitVec 3) (full : Bool) (ps : List Piece) : Out :=
  c.retireIn (s.pushStore c.b.id c.f.id col full ps) c.f

/-! ## Older stores to the bytes of an atomic (R252, R260) -/

/-- Have the older stores of the lanes that overlap the given bytes performed, held ones too (R260); false while one is left. -/
def Ctx.settle (c : Ctx) (lanes : Mask) (ps : List (Place × Nat)) : State × Bool :=
  let ths := c.w.serials lanes
  let hit := fun (x : Piece) => x.threads.any (fun t => ths.contains t) && ps.any (fun p => p.1.overlap p.2 x.place x.bytes.length)
  let meets := fun (e : Entry) => e.pieces.any hit
  let any := fun (s : State) => match s.block? c.b.id with
    | some b => (b.fsb ++ b.wire ++ b.bsb).any meets
    | none => false
  if !any c.s then (c.s, true)
  else
    let s := (((c.s.cutEntries c.b.id (fun _ x => hit x)).releaseWhere c.b.id meets).arriveWhere c.b.id meets).publishHeld c.b.id meets
    (s, !any s)

/-- An atomic is performed: what its threads have read early of its bytes is void (R253). -/
def Ctx.forgetLanes (c : Ctx) (s : State) (xs : List LaneOk) : State :=
  xs.foldl (fun s x => s.forgetAt (c.w.serials c.act) x.place x.acc.len) s

/-- Go on once the older stores are performed (log 32, DEDUCED). -/
def Ctx.settled (c : Ctx) (lanes : Mask) (ps : List (Place × Nat)) (go : Ctx → Out) : Out :=
  let r := c.settle lanes ps
  if r.2 then go { c with s := r.1, b := (r.1.block? c.b.id).getD c.b } else c.waitIn r.1

end Sys2Proof.Machine
end

