-- ==== Sys2Proof/Machine/Atomic.lean ====
section
/-! DEFINITION. Atomics, reductions and multicast stores (09 R197; 11 R226 to R229). -/

namespace Sys2Proof.Machine

open Sys2Proof

/-! ## Operators -/

/-- `op(old, x)` of R226 at width 32 or 64; `y` is the swap operand of .cas. -/
def atomicOp (aop : BitVec 4) (wide : Bool) (old x y : DWord) : DWord :=
  let o := bits old 0 32
  let a := bits x 0 32
  let pick := fun (c : Bool) => if c then old else x
  match aop.toNat with
  | 0 => old + x
  | 1 => old &&& x
  | 2 => old ||| x
  | 3 => old ^^^ x
  | 4 => pick (if wide then decide (old.toInt ≤ x.toInt) else decide (o.toInt ≤ a.toInt))
  | 5 => pick (if wide then decide (x.toInt ≤ old.toInt) else decide (a.toInt ≤ o.toInt))
  | 6 => pick (if wide then decide (old.toNat ≤ x.toNat) else decide (o.toNat ≤ a.toNat))
  | 7 => pick (if wide then decide (x.toNat ≤ old.toNat) else decide (a.toNat ≤ o.toNat))
  | 8 => x
  | 9 => if (if wide then old == x else o == a) then y else old
  | 10 => (addFp32 o a).1.setWidth 64
  | 11 => BitVec.ofNat 64 (Fmt.fp32.minmax false o.toNat a.toNat).1
  | _ => BitVec.ofNat 64 (Fmt.fp32.minmax true o.toNat a.toNat).1

/-- The page formats a REDM accepts. -/
def redmFmt (aop : BitVec 4) (fmt : BitVec 4) : Bool :=
  fmt == 0#4 || fmt.toNat == (match aop.toNat / 3 with | 0 => 1 | 1 => 2 | _ => 8)

/-- The page formats of ATOM and RED (R187). -/
def atomFmtBad (e : BitVec 128) : Bool := !(pteFmt e == 0#4 || pteFmt e == 1#4 || pteFmt e == 8#4)

/-! ## Performing at a home -/

/-- Read, modify and write one location in one step; the old value is answered. -/
def State.atomicAt (s : State) (p : Place) (aop : BitVec 4) (wide : Bool) (x y : DWord) : DWord × State :=
  let n := if wide then 8 else 4
  let old : DWord := ofBytes 64 (s.getAt p n)
  (old, s.performAt p (bytesOf (atomicOp aop wide old x y) n))

/-! ## ATOM, RED (R226, R227) -/

/-- The scope codes of Q (R220). -/
def atomScope (q : BitVec 2) : BitVec 3 := if q == 0#2 then scDev else if q == 1#2 then scDom else if q == 2#2 then scSys else scBlk

/-- A 64- or 32-bit operand that starts at a register. -/
def pairAt (f : Frag) (r : BitVec 6) (l : Nat) (wide : Bool) : DWord :=
  (if wide then f.getV (r + 1) l else 0) ++ f.getV r l

/-- Registers of the operand group of E. -/
def operandRegs (m : MemOp) (wide : Bool) : Nat := (if m.aop == 9#4 then 2 else 1) * (if wide then 2 else 1)

def isWide (m : MemOp) : Bool := m.wd == 3#3

/-- A place that soils the block when an atomic acts on it (R347). -/
def spaceSoils : Space → Bool
  | .g | .t => true
  | _ => false

def Ctx.soiled (c : Ctx) (sp : Space) (s : State) : State := if spaceSoils sp then s.soil c.b.id else s

/-- The reply to a lane's remote ATOM. -/
def Frag.atomReply? (f : Frag) (l : Nat) (x : LaneOk) : Option Reply :=
  match x.place with
  | .far d a => f.replies.find? (fun r => r.dev == d && r.addr == a && r.lane == l)
  | _ => none

/-- Send the remote ATOMs of the lanes, one packet each. -/
def Ctx.sendAtoms (c : Ctx) (s : State) (m : MemOp) (far : List LaneOk) : State :=
  let wide := isWide m
  far.foldl (fun s x => match x.place with
    | .far d a =>
        let l := x.acc.lane
        s.request d (c.s.jobKey c.g.job) a (.atomic c.f.id l)
          (fun tag p => .atomReq p tag (BitVec.ofNat 52 a) m.aop ⟨wide, atomScope m.q⟩ (pairAt c.f m.e l wide) (pairAt c.f (m.e + (if wide then 2 else 1)) l wide))
    | _ => s) s

/-- Write the old values of an ATOM. -/
def writeOld (f : Frag) (d : BitVec 6) (wide : Bool) (act : Mask) (old : Nat → DWord) : Frag :=
  let f1 := f.setV d act (fun l => bits (old l) 0 32)
  if wide then f1.setV (d + 1) act (fun l => bits (old l) 32 32) else f1

/-- Apply the local lanes in ascending vlane; remote lanes take their replies. -/
def Ctx.applyAtoms (c : Ctx) (m : MemOp) (ok : List LaneOk) : List (Nat × DWord) × State :=
  let wide := isWide m
  ok.foldl (fun r x =>
    let l := x.acc.lane
    match x.place with
    | .far _ _ => (r.1 ++ [(l, match c.f.atomReply? l x with | some y => ofBytes 64 y.bytes | none => 0)], r.2)
    | p =>
        let y := r.2.atomicAt p m.aop wide (pairAt c.f m.e l wide) (pairAt c.f (m.e + (if wide then 2 else 1)) l wide)
        (r.1 ++ [(l, y.1)], y.2)) ([], c.s)

/-- DEDUCED (log 11). -/
def execAtom (h : Head) (d : BitVec 6) (m : MemOp) (s : State) : Out :=
  issue s 2 h (.vec d (memRegs m)) (.v m.e (operandRegs m (isWide m)) :: memUses m) fun c =>
    c.resolveHome none (c.lanesOf m true (Mask.lanes c.act) (memBytes m) .both pteKy atomFmtBad) fun ok =>
      c.settled c.act (ok.map (fun x => (x.place, x.acc.len))) fun c =>
        let far := ok.filter (fun x => x.farLine.isSome)
        let missing := far.filter (fun x => (c.f.atomReply? x.acc.lane x).isNone)
        c.poisonBy c.homePoisoned none (ok.filter (fun x => x.farLine.isNone))
          (if !missing.isEmpty then
            (if c.s.awaits c.f.id then c.park .remoteReply
             else match c.s.pay c.f.id (costs (missing.filterMap (fun x => x.farLine.map (fun l => (l.1, 2))))) with
              | (s, false) => c.parkIn s .allowance
              | (s, true) => c.parkIn (c.sendAtoms (c.soiled m.sp s) m missing) .remoteReply)
          else
            c.replyTrap none false ok (fun x => (c.f.atomReply? x.acc.lane x).map (·.status))
              (let r := c.applyAtoms m ok
               let s := if ok.isEmpty then r.2 else c.soiled m.sp r.2
               c.retireIn (c.forgetLanes s ok) (writeOld c.f d (isWide m) c.act (fun l => (getKey l r.1).getD 0))))

/-- The delivery records of the lanes of a posted request: each fails by NACK or after 100 µs (R259). A fence of the scopes from `least` to
`scope` covers it (R256). -/
def Ctx.posted (c : Ctx) (s : State) (tag : BitVec 12) (col least scope : BitVec 3) (xs : List LaneOk) : State :=
  s.modSync fun y => { y with deliveries := y.deliveries ++ xs.map (fun x =>
    { tag, block := c.b.id, warp := c.w.id, threads := c.w.serials (maskOf (fun l => l == x.acc.lane)), colour := col, va := x.acc.va,
      rank := none, sent := s.time, failed := false, scope, least, syncs := [], entry := none }) }

def execRed (h : Head) (d : BitVec 6) (m : MemOp) (s : State) : Out :=
  issue s 2 h .none (.v d (memRegs m) :: memUses m) fun c =>
    c.resolveHome none (c.lanesOf m true (Mask.lanes c.act) (memBytes m) .write pteKy atomFmtBad) fun ok =>
      c.settled c.act (ok.map (fun x => (x.place, x.acc.len))) fun c =>
        let far := ok.filter (fun x => x.farLine.isSome)
        let wide := isWide m
        let lines := distinct (far.filterMap LaneOk.farLine)
        let grans := distinct (lines.map (fun x => (x.1, x.2 / 256)))
        c.poisonBy c.homePoisoned none (ok.filter (fun x => x.farLine.isNone))
          (c.paid (costs (lines.map (fun x => (x.1, 1)) ++ grans.map (fun x => (x.1, 1)))) fun s =>
            let s := ok.foldl (fun s x =>
              let v := pairAt c.f d x.acc.lane wide
              match x.place with
              | .far dev a =>
                  let tag := s.fab.tagNext
                  let s := s.request dev (c.s.jobKey c.g.job) a .posted (fun t p => .redReq p t (BitVec.ofNat 52 a) m.aop ⟨wide, atomScope m.q⟩ v)
                  c.posted s tag m.col scThr (atomScope m.q) [x]
              | p => (s.atomicAt p m.aop wide v 0).2) s
            c.retireIn (c.forgetLanes (if ok.isEmpty then s else c.soiled m.sp s) ok) c.f)

/-! ## REDM (R228) -/

/-- The words of a lane's REDM datum. -/
def redmWords (f : Frag) (d : BitVec 6) (m : MemOp) (l : Nat) : List Word := (List.range (memRegs m)).map (fun k => f.getV (d + BitVec.ofNat 6 k) l)

/-- The words of REDMs to one remote granule, by byte offset. -/
def granuleWords (c : Ctx) (d : BitVec 6) (m : MemOp) (xs : List LaneOk) (g : BitVec 11 × Nat) : List (Nat × Word) :=
  xs.flatMap (fun x => match x.place with
    | .far dev a => if dev == g.1 && a / 256 == g.2 then
        (List.range (memRegs m)).map (fun k => (a % 256 + 4 * k, (redmWords c.f d m x.acc.lane).getD k 0)) else []
    | _ => [])

/-- The local words of a REDM set out for their home, one application each (R254). -/
def Ctx.sendWords (c : Ctx) (s : State) (d : BitVec 6) (m : MemOp) (ok : List LaneOk) : State :=
  ok.foldl (fun s x => match x.place with
    | .far _ _ => s
    | p => (List.range (memRegs m)).foldl (fun s k =>
        s.sendRedm c.b.id (c.w.serials (maskOf (fun l => l == x.acc.lane))) (c.w.serials c.f.mask) m.col (p.at (4 * k)) m.aop ((redmWords c.f d m x.acc.lane).getD k 0)) s) s

/-- The order in which words, of one REDM too, are applied at their home is free (R32, R221) (log 66, DESIGN CHOICE). -/
def execRedm (h : Head) (d : BitVec 6) (m : MemOp) (s : State) : Out :=
  issue s 2 h .none (.v d (memRegs m) :: memUses m) fun c =>
    c.resolveHome none (c.lanesOf m true (Mask.lanes c.act) (memBytes m) .redm pteKy (fun e => !redmFmt m.aop (pteFmt e))) fun ok =>
      c.settled c.act (ok.map (fun x => (x.place, x.acc.len))) fun c =>
        let far := ok.filter (fun x => x.farLine.isSome)
        let lines := distinct (far.filterMap LaneOk.farLine)
        let grans := distinct (lines.map (fun x => (x.1, x.2 / 256)))
        c.poisonBy c.homePoisoned none (ok.filter (fun x => x.farLine.isNone))
          (c.paid (costs (lines.map (fun x => (x.1, 1)) ++ grans.map (fun x => (x.1, 1)))) fun s =>
            let s := c.sendWords s d m ok
            let s := grans.foldl (fun s g =>
              let tag := s.fab.tagNext
              let xs := far.filter (fun x => match x.farLine with | some l => l.1 == g.1 && l.2 / 256 == g.2 | none => false)
              let s := s.request g.1 (c.s.jobKey c.g.job) (256 * g.2) .posted
                (fun t p => .redmReq p t (BitVec.ofNat 52 (256 * g.2)) m.aop (granuleWords c d m xs g))
              c.posted s tag m.col scDom scSys xs) s
            c.retireIn (if ok.isEmpty then s else s.soil c.b.id) c.f)

/-! ## MST (R229) -/

/-- The remote ranks of a group. -/
def Group.others (g : Group) : List Nat := (List.range g.n).filter (· != g.rank)

/-- The group that E names, valid, of the job and with COLL. -/
def Ctx.mstGroup (c : Ctx) (e : BitVec 6) : Option Group :=
  match c.s.group? (bits (c.f.getU e) 0 12) with
  | some g => if bit g.flags 0 && bit g.flags 2 && g.job == c.g.job then some g else none
  | none => none

/-- The cost of the copies, as ST for each remote member. -/
def mstCosts (g : Group) (ps : List Piece) : List (BitVec 11 × Nat) :=
  let lines := distinct (ps.map (fun x => x.va.toNat / 64))
  let n := lines.length + (distinct (lines.map (· / 4))).length
  costs (g.others.map (fun r => (g.dev r, n)))

def execMst (h : Head) (d : BitVec 6) (m : MemOp) (s : State) : Out :=
  issue s 2 h .none (.v d (memRegs m) :: .u m.e :: memUses m) fun c =>
    let g := c.mstGroup m.e
    c.resolve none (c.lanesOf m false (Mask.lanes c.act) (memBytes m) .write noKeyRule (fun _ => g.isNone)) fun ok =>
      let own := ok.map (fun x => c.piece .g x (laneBytes c.f d x.acc.lane (memBytes m)))
      match g with
      | none => c.retire c.f
      | some g =>
          let copies := own.flatMap (fun p => g.others.map (fun r => { p with place := Place.member g.sgid r (g.dev r) p.va, sync := none }))
          c.paid (costs (storeCosts own ++ (if own.isEmpty then [] else mstCosts g own))) fun s =>
            c.storePieces s m.col false (own ++ copies)

end Sys2Proof.Machine
end

