-- ==== Sys2Proof/Machine/Crypto.lean ====
section
/-! DEFINITION. AES-256-XTS over 64-byte units (09 R198), and SHA-256 (22 R368). The manual names both
standards without restating them (log 14, PRESUMED). -/

namespace Sys2Proof.Machine

open Sys2Proof

/-! ## AES-256 -/

def xtime (x : Byte) : Byte := (x <<< 1) ^^^ (if x.msb then 0x1B else 0)

/-- Multiplication in GF(2^8). -/
def gfMul (x y : Byte) : Byte :=
  ((List.range 8).foldl (fun (r : Byte × Byte) i => (if y.getLsbD i then r.1 ^^^ r.2 else r.1, xtime r.2)) (0, x)).1

/-- x^254, the inverse. -/
def gfInv (x : Byte) : Byte :=
  let x2 := gfMul x x
  let x4 := gfMul x2 x2
  let x8 := gfMul x4 x4
  let x16 := gfMul x8 x8
  let x32 := gfMul x16 x16
  let x64 := gfMul x32 x32
  let x128 := gfMul x64 x64
  gfMul x128 (gfMul x64 (gfMul x32 (gfMul x16 (gfMul x8 (gfMul x4 x2)))))

def subByte (x : Byte) : Byte :=
  let b := gfInv x
  b ^^^ b.rotateLeft 1 ^^^ b.rotateLeft 2 ^^^ b.rotateLeft 3 ^^^ b.rotateLeft 4 ^^^ 0x63

def invSubByte (y : Byte) : Byte :=
  gfInv (y.rotateLeft 1 ^^^ y.rotateLeft 3 ^^^ y.rotateLeft 6 ^^^ 0x05)

def xorBytes (a b : List Byte) : List Byte := List.zipWith (· ^^^ ·) a b

/-- One more word of the key schedule, from the words so far, newest first. -/
def nextKeyWord (ws : List (List Byte)) (i : Nat) : List Byte :=
  let prev := ws.headD []
  let t :=
    if i % 8 = 0 then
      let r := (prev.drop 1 ++ prev.take 1).map subByte
      xorBytes r [(List.range (i / 8 - 1)).foldl (fun c _ => xtime c) 1, 0, 0, 0]
    else if i % 8 = 4 then prev.map subByte
    else prev
  xorBytes (ws.getD 7 []) t

/-- The 15 round keys of a 32-byte key. -/
def roundKeys (key : List Byte) : List (List Byte) :=
  let first := ((List.range 8).map (fun i => (key.drop (4 * i)).take 4)).reverse
  let ws := ((List.range 52).foldl (fun ws i => nextKeyWord ws (i + 8) :: ws) first).reverse
  (List.range 15).map (fun r => ((ws.drop (4 * r)).take 4).flatten)

/-- Byte `4 × c + r` of the state comes from column `c + r × step`. -/
def shiftRows (step : Nat) (x : List Byte) : List Byte :=
  (List.range 16).map (fun i => x.getD ((i + 4 * step * (i % 4)) % 16) 0)

def mixWith (a b c d : Byte) (x : List Byte) : List Byte :=
  (List.range 16).map (fun i =>
    let at' := fun k => x.getD (i / 4 * 4 + (i % 4 + k) % 4) 0
    gfMul a (at' 0) ^^^ gfMul b (at' 1) ^^^ gfMul c (at' 2) ^^^ gfMul d (at' 3))

def aesEncrypt (rks : List (List Byte)) (x : List Byte) : List Byte :=
  let y := (List.range 13).foldl (fun y r => xorBytes (mixWith 2 3 1 1 (shiftRows 1 (y.map subByte))) (rks.getD (r + 1) [])) (xorBytes x (rks.getD 0 []))
  xorBytes (shiftRows 1 (y.map subByte)) (rks.getD 14 [])

def aesDecrypt (rks : List (List Byte)) (x : List Byte) : List Byte :=
  let y := (List.range 13).foldl (fun y r =>
    mixWith 14 11 13 9 (xorBytes ((shiftRows 3 y).map invSubByte) (rks.getD (13 - r) []))) (xorBytes x (rks.getD 14 []))
  xorBytes ((shiftRows 3 y).map invSubByte) (rks.getD 0 [])

/-! ## XTS -/

/-- Multiply a tweak by α, little-endian. -/
def xtsDouble (t : List Byte) : List Byte :=
  let carry := fun i => if i = 0 then (0 : Byte) else (t.getD (i - 1) 0) >>> 7
  let d := (List.range 16).map (fun i => ((t.getD i 0) <<< 1) ||| carry i)
  if (t.getD 15 0).msb then xorBytes d (0x87 :: List.replicate 15 0) else d

/-- One 64-byte unit under a 64-byte key, its first half the data key, with the tweak value given as a
number (R198). -/
def xtsUnit (decrypt : Bool) (key : List Byte) (tweak : Nat) (unit : List Byte) : List Byte :=
  let k1 := roundKeys (key.take 32)
  let t0 := aesEncrypt (roundKeys (key.drop 32)) (bytesOf (BitVec.ofNat 128 tweak) 16)
  ((List.range 4).foldl (fun (r : List Byte × List Byte) i =>
    let x := (unit.drop (16 * i)).take 16
    let y := xorBytes x r.2
    (r.1 ++ xorBytes (if decrypt then aesDecrypt k1 y else aesEncrypt k1 y) r.2, xtsDouble r.2)) ([], t0)).1

/-! ## SHA-256 -/

/-- The first `n` primes. -/
def primesUpTo (n : Nat) : List Nat := (List.range n).filter (fun p => 2 ≤ p && (List.range p).all (fun d => d < 2 || p % d != 0))

/-- Integer root: the greatest r below 2^40 with r^k ≤ x. -/
def rootOf (k x : Nat) : Nat := (List.range 40).foldl (fun r i => let t := r + 2 ^ (39 - i); if t ^ k ≤ x then t else r) 0

/-- The first 32 bits of the fractional part of the k-th root of a prime. -/
def fracRoot (k p : Nat) : Word := BitVec.ofNat 32 (rootOf k (p * 2 ^ (32 * k)))

def shaInit : List Word := ((primesUpTo 20).take 8).map (fracRoot 2)
def shaConsts : List Word := ((primesUpTo 320).take 64).map (fracRoot 3)

def beWord (bs : List Byte) : Word := (bs.getD 0 0) ++ (bs.getD 1 0) ++ (bs.getD 2 0) ++ (bs.getD 3 0)

def shaSchedule (block : List Byte) : List Word :=
  let w0 := (List.range 16).map (fun i => beWord (block.drop (4 * i)))
  (List.range 48).foldl (fun w i =>
    let a := w.getD (i + 1) 0
    let b := w.getD (i + 14) 0
    let s0 := a.rotateRight 7 ^^^ a.rotateRight 18 ^^^ (a >>> 3)
    let s1 := b.rotateRight 17 ^^^ b.rotateRight 19 ^^^ (b >>> 10)
    w ++ [w.getD i 0 + s0 + w.getD (i + 9) 0 + s1]) w0

def shaBlock (h : List Word) (block : List Byte) : List Word :=
  let w := shaSchedule block
  let r := (List.range 64).foldl (fun v i =>
    let x := fun k => v.getD k (0 : Word)
    let s1 := (x 4).rotateRight 6 ^^^ (x 4).rotateRight 11 ^^^ (x 4).rotateRight 25
    let ch := ((x 4) &&& (x 5)) ^^^ (~~~(x 4) &&& (x 6))
    let t1 := x 7 + s1 + ch + shaConsts.getD i 0 + w.getD i 0
    let s0 := (x 0).rotateRight 2 ^^^ (x 0).rotateRight 13 ^^^ (x 0).rotateRight 22
    let mj := ((x 0) &&& (x 1)) ^^^ ((x 0) &&& (x 2)) ^^^ ((x 1) &&& (x 2))
    [t1 + s0 + mj, x 0, x 1, x 2, x 3 + t1, x 4, x 5, x 6]) h
  List.zipWith (· + ·) h r

/-- The digest of a message, its first byte the most significant. -/
def sha256 (m : List Byte) : List Byte :=
  let pad := (0x80 : Byte) :: List.replicate ((119 - m.length % 64) % 64) 0 ++ (bytesOf (BitVec.ofNat 64 (8 * m.length)) 8).reverse
  let x := m ++ pad
  let h := (List.range (x.length / 64)).foldl (fun h i => shaBlock h ((x.drop (64 * i)).take 64)) shaInit
  h.flatMap (fun w => (bytesOf w 4).reverse)

end Sys2Proof.Machine
end

