-- ==== Sys2Proof/Machine/Control.lean ====
section
/-! DEFINITION. Control transfer and the return stack (08 R149 to R156; 14 R289). -/

namespace Sys2Proof.Machine

open Sys2Proof

/-- The target of a BR-format instruction (R79). -/
def Ctx.label (c : Ctx) (o : BitVec 20) : DWord := c.b.kernel.packet c.f.pc + 12 * o.signExtend 64

/-- Where lanes of the fragment that do not transfer go on. -/
def Ctx.nextPc (c : Ctx) : DWord := c.f.pc + BitVec.ofNat 64 (4 * c.words)

/-- The targets of R149: failing ones trap, with the lowest failing target in %taddr. Where they fail with both causes of R74,
the trap is that of this target, for the lanes of its cause (log 80, DEDUCED). -/
def Ctx.checkTargets (c : Ctx) (ts : List (Nat × DWord)) (go : Out) : Out :=
  let bad := ts.filterMap (fun x => (c.b.kernel.targetTrap x.2).map (fun k => (x, k)))
  match bad.foldl (fun (acc : Option ((Nat × DWord) × Cause)) x => match acc with
      | none => some x
      | some a => if x.1.2.toNat < a.1.2.toNat then some x else some a) none with
  | none => go
  | some (t, cause) => c.trapWith cause (maskOf (fun l => bad.any (fun x => x.1.1 == l && x.2 == cause))) t.2 c.descriptor

/-- Ascending distinct targets. -/
def targetsOf (ts : List (Nat × DWord)) : List DWord :=
  (distinct (ts.map (·.2))).foldl (fun acc t => acc.takeWhile (fun x => x.toNat < t.toNat) ++ [t] ++ acc.dropWhile (fun x => x.toNat < t.toNat)) []

def lanesTo (ts : List (Nat × DWord)) (t : DWord) : Mask := maskOf (fun l => ts.any (fun x => x.1 == l && x.2 == t))

/-- A fragment split off (R99, R100): a clone of the registers with its own lanes and place. -/
def Frag.splitOff (f : Frag) (id : Nat) (pc : DWord) (mask : Mask) (now : Nat) : Frag :=
  { f with id, pc, mask, run := .ready, isSplit := true, splitFrom := BitVec.ofNat 5 (Mask.lowest f.mask), dispatched := now,
           subst := none, arrived := none, replies := [], kept := [], relSent := false, relPaid := [] }

/-- The stores that a fragment of the block has made are those of another of its fragments too (R100, R265). -/
def Block.shareStores (b : Block) (from' to' : Nat) : Block :=
  let share := fun (e : Entry) => if e.frags.contains from' then { e with frags := e.frags ++ [to'] } else e
  { b with fsb := b.fsb.map share, bsb := b.bsb.map share, wire := b.wire.map share }

/-- Create the fragments of some targets; the stores that the fragment holds belong to each of them too. -/
def Ctx.splitTo (c : Ctx) (s : State) (ts : List (Nat × DWord)) (targets : List DWord) : State :=
  targets.foldl (fun s t =>
    let r := s.fresh
    let s := r.2.modWork fun y => { y with frags := y.frags ++ [c.f.splitOff r.1 t (lanesTo ts t) s.cycle] }
    s.modBlock c.b.id (fun b => b.shareStores c.f.id r.1)) s

/-- Retire a control transfer whose lanes go to `ts`; other lanes continue at the next slot. -/
def Ctx.transfer (c : Ctx) (s : State) (ts : List (Nat × DWord)) : Out :=
  let rest := c.f.mask &&& ~~~(maskOf (fun l => ts.any (fun x => x.1 == l)))
  match targetsOf ts with
  | [] => c.retireIn s c.f
  | t :: more =>
      let r : Mask × DWord × List DWord := if rest == 0#32 then (lanesTo ts t, t, more) else (rest, c.nextPc, t :: more)
      let s := c.splitTo s ts r.2.2
      .next ((s.setFrag (finish c { c.f with mask := r.1 } r.2.1)).markRetired)

/-- In handler mode a transfer to more than one place traps (R327). -/
def Ctx.oneWay (c : Ctx) (ts : List (Nat × DWord)) (go : Out) : Out :=
  let rest := c.f.mask &&& ~~~(maskOf (fun l => ts.any (fun x => x.1 == l)))
  let n := (targetsOf ts).length + (if rest == 0#32 then 0 else 1)
  if c.f.handler && 1 < n then c.trap .nonuniform c.act else go

/-- Check the targets and transfer. -/
def Ctx.jump (c : Ctx) (ts : List (Nat × DWord)) : Out := c.checkTargets ts (c.oneWay ts (c.transfer c.s ts))

def Ctx.allTo (c : Ctx) (t : DWord) : List (Nat × DWord) := (Mask.lanes c.act).map (fun l => (l, t))

def execBra (h : Head) (o : BitVec 20) (s : State) : Out :=
  issue s 1 h .none [] fun c => c.jump (c.allTo (c.label o))

def execBru (h : Head) (o : BitVec 20) (s : State) : Out :=
  issue s 1 h .none [] fun c =>
    if c.act == 0#32 then c.retire c.f
    else if c.act != c.f.mask then c.trap .nonuniform c.act
    else c.jump (c.allTo (c.label o))

/-! ## The return stack (R152, R153) -/

/-- The most entries a return stack holds. -/
def Ctx.depthMax (c : Ctx) : Nat := 8 + c.g.launch.tlsb / 8

def Ctx.thread? (c : Ctx) (l : Nat) : Option Thread := c.w.threads.toList.getD l none

def Ctx.depth (c : Ctx) (l : Nat) : Nat := match c.thread? l with | some t => t.depth | none => 0

/-- A spill or fill of a lane: 8 bytes at t-space offset `8 × i`. -/
def Ctx.stackAcc (c : Ctx) (l i : Nat) (k : Access) : LaneAcc :=
  let a : DWord := BitVec.ofNat 64 (8 * i)
  { lane := l, addr := a, va := laneVa c.w .t l a, len := 8, check := c.s.check c.g c.w c.b .t l a 8 k noKeyRule noKeyRule }

/-- Change the threads of some lanes. -/
def State.modThreads (s : State) (w : Nat) (lanes : Mask) (g : Nat → Thread → Thread) : State :=
  s.modWarp w (fun w => { w with threads := Vector.ofFn (fun (l : Fin 32) =>
    if lanes.getLsbD l then w.threads[l].map (g l) else w.threads[l]) })

/-- Push an address: the newest eight stay in hardware. -/
def Thread.push (t : Thread) (a : DWord) : Thread := { t with depth := t.depth + 1, stack := (a :: t.stack).take 8 }

/-- Pop an address; `fill` is the entry that comes back from memory. -/
def Thread.pop (t : Thread) (fill : Option DWord) : Thread :=
  { t with depth := t.depth - 1, stack := t.stack.tail ++ (match fill with | some a => [a] | none => []) }

/-- Calls: check, spill, push the next packet's address and transfer (log 33, DEDUCED). -/
def Ctx.calls (c : Ctx) (ts : List (Nat × DWord)) : Out :=
  let full := ts.filter (fun x => c.depthMax ≤ c.depth x.1)
  if !full.isEmpty then c.trap .retstack (maskOf (fun l => full.any (fun x => x.1 == l)))
  else c.checkTargets ts (c.oneWay ts
    (let deep := ts.filter (fun x => 8 ≤ c.depth x.1)
     c.resolveBy (fun _ => false) none (· == ·) (deep.map (fun x => c.stackAcc x.1 (c.depth x.1 - 8) .write)) fun ok =>
       let ps := ok.map (fun x => c.piece .t x (bytesOf (match c.thread? x.acc.lane with | some t => t.stack.getLast?.getD 0 | none => 0) 8))
       c.paid (storeCosts ps) fun s =>
         let s := s.pushStore c.b.id c.f.id 0 false ps
         let back := c.b.kernel.nextPacket c.f.pc
         c.transfer (s.modThreads c.w.id (maskOf (fun l => ts.any (fun x => x.1 == l))) (fun _ t => t.push back)) ts))

def execCall (h : Head) (o : BitVec 20) (s : State) : Out :=
  issue s 1 h .none [] fun c => c.calls (c.allTo (c.label o))

/-- The lanes' targets of CALLI and JMPI (R155). -/
def Ctx.indirect (c : Ctx) (a b : BitVec 6) (ix : Bool) : List (Nat × DWord) :=
  (Mask.lanes c.act).map (fun l => (l, c.f.getU a + (if ix then (c.f.getV b l).setWidth 64 else 0)))

def indirectUses (a b : BitVec 6) (ix : Bool) : List Use := if ix then [.u a, .v b 1] else [.u a]

def execCalli (h : Head) (a b : BitVec 6) (ix : Bool) (s : State) : Out :=
  issue s 1 h .none (indirectUses a b ix) fun c => c.calls (c.indirect a b ix)

def execJmpi (h : Head) (a b : BitVec 6) (ix : Bool) (s : State) : Out :=
  issue s 1 h .none (indirectUses a b ix) fun c => c.jump (c.indirect a b ix)

def execRet (h : Head) (s : State) : Out :=
  issue s 1 h .none [] fun c =>
    let ls := Mask.lanes c.act
    let none' := ls.filter (fun l => c.depth l == 0)
    if !none'.isEmpty then c.trap .retstack (maskOf (fun l => none'.contains l))
    else
      let ts := ls.map (fun l => (l, match c.thread? l with | some t => t.stack.headD 0 | none => 0))
      c.checkTargets ts (c.oneWay ts
        (let deep := ls.filter (fun l => 9 ≤ c.depth l)
         c.resolveBy c.readsPoison none (· == ·) (deep.map (fun l => c.stackAcc l (c.depth l - 9) .read)) fun ok =>
           c.loadOk none ok fun s data =>
             c.transfer (s.modThreads c.w.id c.act (fun l t => t.pop (if deep.contains l then some (ofBytes 64 (data l)) else none))) ts))

/-! ## BALW (R289) -/

def execBalw (ch : Bool) (a b : BitVec 6) (o : BitVec 20) (s : State) : Out :=
  issueU s 2 ch .none [.u a, .u b] fun c =>
    let free := c.s.allowance (bits (c.f.getU a) 0 11)
    if (c.f.getU b).toNat ≤ free then c.jump (c.allTo (c.label o)) else c.retire c.f

end Sys2Proof.Machine
end

