-- ==== Sys2Proof/Machine/Pans.lean ====
section
/-! DEFINITION. Filing into pans, spawning, ending threads, and pans yielding (04 R67 to R69; 06 R106 to
R109; 08 R157 to R159; 18 R332). -/

namespace Sys2Proof.Machine

open Sys2Proof

/-! ## Names of threads, and pans in use (R67, R69) -/

/-- The lowest %tid that no live thread holds (R67). -/
def lowestFree (used : List Nat) : Nat → Nat → Nat
  | 0, t => t
  | n + 1, t => if used.contains t then lowestFree used n (t + 1) else t

/-- Pans held on a core, of 32 (R69). -/
def State.corePans (s : State) (core : Nat) : Nat :=
  (s.work.pans.filter (fun p => match s.block? p.block with | some b => b.core == core && b.run != .saved | none => false)).length

/-- A block may open another pan. -/
def State.panFree (s : State) (b : Block) : Bool := (s.blockPans b.id).length < b.quota.qpan && s.corePans b.core < 32

/-- Fragments in pan wait on a core look again. -/
def State.wakePans (s : State) (core : Nat) : State :=
  let here := fun (f : Frag) => match s.warp? f.warp with
    | some w => match s.block? w.block with | some b => b.core == core | none => false
    | none => false
  s.modWork fun y => { y with frags := updWhere (fun f => here f && (match f.run with | .parked .pan _ => true | _ => false)) (fun f => { f with run := .ready }) y.frags }

/-! ## Lanes leaving a warp (R99, R159) -/

/-- Remove the threads of some lanes, the fragment if it keeps none, and the warp with its last fragment. -/
def State.leave (s : State) (w : Nat) (lanes : Mask) : State :=
  let s := s.modWarp w (fun x => { x with threads := Vector.ofFn (fun (l : Fin 32) => if lanes.getLsbD l then none else x.threads[l]) })
  let s := s.modWork fun y => { y with frags := y.frags.filter (fun f => !(f.warp == w && f.mask == 0#32)) }
  if (s.warpFrags w).isEmpty then (s.modWork fun y => { y with warps := y.warps.filter (fun x => x.id != w) }).wakeReclaim else s

/-- Retire with the active lanes gone; what is left of the fragment goes on at `pc`. The stores of the fragment stay in
their buffers (R157), and what the threads have read early is discarded. -/
def Ctx.departTo (c : Ctx) (s : State) (pc : DWord) : Out :=
  let f := finish c { c.f with mask := c.f.mask &&& ~~~c.act } pc
  let s := s.forgetEarly (c.w.serials c.act)
  .next ((((s.setFrag f).leave c.w.id c.act).checkBars c.b.id).markRetired)

/-! ## Filing (R106 to R108) -/

/-- The threads that a fragment files, in ascending %tid. -/
def Ctx.filings (c : Ctx) (n : Nat) : List Filed :=
  let one := fun (l : Nat) => (c.thread? l).map (fun t =>
    ({ thread := t
       v := (List.range n).map (fun r => c.f.getV (BitVec.ofNat 6 r) l)
       p := BitVec.ofNat 7 ((List.range 7).foldl (fun m r => if bit (c.f.getP (BitVec.ofNat 3 r)) l then m + 2 ^ r else m) 0)
       fresh := false } : Filed))
  ((Mask.lanes c.act).filterMap one).foldl (fun acc x =>
    acc.takeWhile (fun y => y.thread.tid < x.thread.tid) ++ [x] ++ acc.dropWhile (fun y => y.thread.tid < x.thread.tid)) []

/-- A context of the block's reservation that no warp of it occupies (log 56, DEDUCED). -/
def State.contextFree (s : State) (b : Block) (ctx : BitVec 5) : Bool :=
  b.slots.contains ctx && !(s.blockWarps b.id).any (fun w => w.ctx == ctx)

def Pan.due (p : Pan) : Bool := p.threads.length == 32 || p.expired

/-- The block's pans may yield: %preq is clear, and nothing holds the block back (R69, R109, R331, R335). -/
def State.pansYield (s : State) (b : Block) : Bool := b.preq.isNone && b.run == .placed && !s.gangRestoring b && !s.blockFilling b

/-- The pan yields in this cycle, so that it takes no filing: its time has run out and a context is free (R107, R109). A pan that
waits for a free context takes filings still (log 81, DEDUCED). -/
def State.yielding (s : State) (p : Pan) : Bool :=
  (p.expired || p.opened + p.timer ≤ s.cycle) &&
    (match s.block? p.block with | some b => s.pansYield b && b.slots.any (s.contextFree b) | none => false)

/-- The pan of a key that takes filings. -/
def State.openPan? (s : State) (b : Nat) (key : DWord) : Option Pan :=
  s.work.pans.find? (fun p => p.block == b && p.key == key && p.threads.length < 32 && !s.yielding p)

/-- A filing that does not match the pan's record (R108). -/
def Pan.differs (p : Pan) (n m : Nat) (u : List DWord) : Bool := !(p.n == n && p.m == m && p.u == u)

/-- Add threads to a pan with the flags of what files them. -/
def Pan.add (p : Pan) (xs : List Filed) (fl ml : BitVec 6) : Pan :=
  { p with threads := p.threads ++ xs, fflags := p.fflags ||| fl, mflags := p.mflags ||| ml }

/-- Open a pan with its first filing. -/
def State.newPan (s : State) (c : Ctx) (key : DWord) (n m : Nat) (u : List DWord) (xs : List Filed) (fl ml : BitVec 6) : State :=
  let r := s.fresh
  r.2.modWork fun y => { y with pans := y.pans ++ [{ id := r.1, block := c.b.id, key, n, m, u, tvec := c.w.tvec, timer := c.b.pantimer.toNat, opened := s.cycle, expired := false, fflags := fl, mflags := ml, threads := xs }] }

/-- File the active lanes into the pan of the next packet. -/
def Ctx.file (c : Ctx) (n m : BitVec 5) : Out :=
  let key := c.b.kernel.nextPacket c.f.pc
  let u := (List.range m.toNat).map (fun r => c.f.getU (BitVec.ofNat 6 r))
  if c.act == 0#32 then .next ((c.s.setFrag (finish c c.f key)).markRetired)
  else
    let xs := c.filings n.toNat
    match c.s.openPan? c.b.id key with
    | none =>
        if c.s.panFree c.b then c.departTo (c.s.newPan c key n.toNat m.toNat u xs c.f.fflags c.f.mflags) key else c.park .pan
    | some p =>
        if p.differs n.toNat m.toNat u then c.trap .uniformMismatch c.act
        else
          let room := 32 - p.threads.length
          let s := c.s.setPan (p.add (xs.take room) c.f.fflags c.f.mflags)
          if xs.length ≤ room then c.departTo s key
          else if c.s.panFree c.b then c.departTo (s.newPan c key n.toNat m.toNat u (xs.drop room) c.f.fflags c.f.mflags) key
          else c.park .pan

/-- REFORM and YIELD are legal outside handler mode, within VREG and SREG (R157, R327). -/
def filingLegal (n m : Nat) (c : Ctx) : Bool := !c.f.handler && n ≤ c.b.kernel.vreg && m ≤ c.b.kernel.sreg

def execReform (h : Head) (n : BitVec 5) (m : BitVec 4) (s : State) : Out :=
  issueWhen s 2 h .none [] (filingLegal n.toNat m.toNat) fun c => c.file n (m.setWidth 5)

def execYield (h : Head) (n : BitVec 5) (m : BitVec 4) (s : State) : Out :=
  issueWhen s 2 h .none [] (filingLegal n.toNat m.toNat) fun c =>
    if c.b.preq.isNone then c.retire c.f else c.file n (m.setWidth 5)

/-! ## SPAWN (R67, R68, R158) -/

/-- The first byte of a thread's local memory (R36). -/
def tlsBase (g : Grid) (b : Block) (tid : Nat) : DWord :=
  BitVec.ofNat 64 (g.launch.tlsva.toNat + (b.index * b.quota.qthr + tid) * g.launch.tlsb)

/-- Place the thread of one lane, if R67 and R108 allow it. A spawned thread brings the flags of R36, which are 0 (R68). -/
def spawnLane (c : Ctx) (key : DWord) (s : State) (l : Nat) : State × Bool :=
  let u := [c.f.getU 0]
  let live := s.liveThreads c.b.id
  let mk := fun (s : State) =>
    let r := s.fresh
    let tid := lowestFree (live.map (·.tid)) 1024 0
    let t := { Thread.born r.1 tid (tlsBase c.g c.b tid) with
               vtid := 0x80000000#32 ||| ((match c.thread? l with | some t => t.vtid | none => 0) &&& 0x3FFFFFFF#32) }
    (({ thread := t, v := (List.range 4).map (fun r => c.f.getV (BitVec.ofNat 6 r) l), p := 0, fresh := true } : Filed), r.2)
  if c.b.quota.qthr ≤ live.length then (s, false)
  else
    match s.openPan? c.b.id key with
    | some p => if p.differs 4 1 u then (s, false) else let x := mk s; (x.2.setPan (p.add [x.1] 0 0), true)
    | none => if s.panFree c.b then let x := mk s; (x.2.newPan c key 4 1 u [x.1] 0 0, true) else (s, false)

/-- For its lanes a FENCE .full .blk of every colour (R257), and it traps no delivery failure: R158 names its traps
(log 69, DEDUCED). -/
def execSpawn (h : Head) (d : BitVec 3) (o : BitVec 20) (s : State) : Out :=
  issue s 2 h (.pred d) [] fun c =>
    let key := c.label o
    c.checkTargets (c.allTo key)
      (if c.act == 0#32 then c.retire c.f
       else
        let ths := c.w.serials c.act
        let s := c.s.fenceWork c.b.id c.g.job scBlk 0xFF ths
        if !s.fenceDone c.b.id scBlk 0xFF ths then c.waitIn s
        else
          let r := (Mask.lanes c.act).foldl (fun (r : State × Mask) l =>
            let x := spawnLane c key r.1 l
            (x.1, if x.2 then r.2 ||| (1#32 <<< l) else r.2)) ((s.soil c.b.id).forgetEarly ths, 0)
          c.retireIn r.1 (c.f.setP d c.act r.2))

/-! ## EXIT (R159) -/

def execExit (h : Head) (s : State) : Out :=
  issue s 1 h .none [] fun c =>
    if c.act == 0#32 then c.retire c.f else c.departTo c.s c.nextPc

/-! ## Pans yield (R69, R109) -/

def execPanTimerExpire (pan : Nat) (s : State) : Out :=
  match s.pan? pan with
  | none => .next s
  | some p => if p.opened + p.timer ≤ s.cycle then .next (s.setPan { p with expired := true }) else .next s

/-- A value of some thread of the block, or zero: what an undefined vector register of a yielded warp holds.
`fr` gives the free choices. -/
def someWord (fs : List Frag) (xs : List Filed) (fr : Nat → Nat) : Word :=
  let k := fr 0 % (fs.length + xs.length + 1)
  if k < fs.length then
    match fs[k]? with | some f => f.getV (BitVec.ofNat 6 (fr 1)) (fr 2 % 32) | none => 0
  else match xs[k - fs.length]? with
    | some x => x.v.getD (fr 1) 0
    | none => 0

def someUni (fs : List Frag) (ps : List Pan) (fr : Nat → Nat) : DWord :=
  let k := fr 0 % (fs.length + ps.length + 1)
  if k < fs.length then
    match fs[k]? with | some f => f.getU (BitVec.ofNat 6 (fr 1)) | none => 0
  else match ps[k - fs.length]? with
    | some p => p.u.getD (fr 1) 0
    | none => 0

def someRow (fs : List Frag) (fr : Nat → Nat) : BitVec 512 :=
  match fs[fr 0 % (fs.length + 1)]? with | some f => (f.getT (BitVec.ofNat 2 (fr 1))).toList.getD (fr 2 % 32) 0 | none => 0

def someAcc (fs : List Frag) (fr : Nat → Nat) : Lanes Word :=
  match fs[fr 0 % (fs.length + 1)]? with | some f => (f.getA (BitVec.ofNat 2 (fr 1))).toList.getD (fr 2 % 32) zeroWords | none => zeroWords

/-- Free choices drawn by one yield. -/
def yieldDraws : Nat := 100000

/-- The fragment of a yielded warp (R109). Its flags are those of its pan, to which a spawned thread brings none (R68, R106; log 88,
DEDUCED). -/
def yieldFrag (s : State) (p : Pan) (id warp : Nat) (fr : Nat → Nat) : Frag :=
  let fs := s.blockFrags p.block
  let ps := s.blockPans p.block
  let filed := ps.flatMap (·.threads)
  let at' := fun (base i : Nat) (j : Nat) => fr (base + 3 * i + j)
  let allFresh := p.threads.all (·.fresh)
  { Frag.born id warp p.key (maskOf (fun l => l < p.threads.length)) s.cycle with
    v := Vector.ofFn (fun (r : Fin 64) => Vector.ofFn (fun (l : Fin 32) => match p.threads[l.val]? with
      | some x => if r.val < x.v.length then x.v.getD r.val 0 else if x.fresh then 0 else someWord fs filed (at' 0 (32 * r.val + l.val))
      | none => someWord fs filed (at' 0 (32 * r.val + l.val))))
    u := Vector.ofFn (fun (r : Fin 64) => if r.val < p.m then p.u.getD r.val 0 else if allFresh then 0 else someUni fs ps (at' 7000 r.val))
    p := Vector.ofFn (fun (r : Fin 7) => maskOf (fun l => match p.threads[l]? with | some x => bit x.p r.val | none => false))
    t := Vector.ofFn (fun (r : Fin 4) => Vector.ofFn (fun (l : Fin 32) => match p.threads[l.val]? with
      | some x => if x.fresh then 0 else someRow fs (at' 8000 (32 * r.val + l.val))
      | none => someRow fs (at' 8000 (32 * r.val + l.val))))
    acc := Vector.ofFn (fun (r : Fin 4) => Vector.ofFn (fun (l : Fin 32) => match p.threads[l.val]? with
      | some x => if x.fresh then zeroWords else someAcc fs (at' 9000 (32 * r.val + l.val))
      | none => someAcc fs (at' 9000 (32 * r.val + l.val))))
    fflags := p.fflags
    mflags := p.mflags }

/-- The L windows of a yielded warp: zero for a spawned thread, free bytes for the others (R68, R173). -/
def yieldWindows (p : Pan) (ql : Nat) (fr : Nat → Nat) : Memory :=
  (List.range 32).foldl (fun m l => match p.threads[l]? with
    | some x => if x.fresh then m
        else Memory.putN m (lwinAddr l 0) ((List.range ql).map (fun i => BitVec.ofNat 8 (fr (10000 + 2048 * l + i))))
    | none => m) []

/-- The stores that the threads of a yielded warp have made and that are still in a fragment store buffer are older stores of
the new fragment (R152, R157, R257) (log 79, DEDUCED). -/
def State.adoptStores (s : State) (b : Nat) (w : Warp) (frag : Nat) : State :=
  let ths := w.serials 0xFFFFFFFF#32
  let mine := fun (x : Piece) => x.threads.any (fun t => ths.contains t)
  (s.cutEntries b (fun _ x => mine x)).modBlock b (fun x => { x with fsb := x.fsb.map (fun e =>
    if e.pieces.any mine then { e with frags := e.frags ++ [frag] } else e) })

def execPanYield (pan ctx : Nat) (s : State) : Out :=
  match s.pan? pan with
  | none => .next s
  | some p =>
      match s.block? p.block with
      | none => .next s
      | some b =>
          let x : BitVec 5 := BitVec.ofNat 5 ctx
          if !(p.due && s.pansYield b && ctx < 32 && s.contextFree b x) then .next s
          else
            let d := s.drawN yieldDraws
            let w := d.2.fresh
            let f := w.2.fresh
            let warp := { Warp.born w.1 b.id x (Vector.ofFn (fun (l : Fin 32) => (p.threads[l.val]?).map (·.thread))) p.tvec with
                          lwin := yieldWindows p b.quota.ql d.1
                          raw := Vector.ofFn (fun (k : Fin 8) => BitVec.ofNat 64 (d.1 (80000 + k.val))) }
            let frag := yieldFrag s p f.1 w.1 d.1
            .next (((f.2.adoptStores b.id warp f.1).modWork fun y => { y with
              pans := y.pans.filter (fun q => q.id != pan), warps := y.warps ++ [warp], frags := y.frags ++ [frag] }).wakePans b.core)

end Sys2Proof.Machine
end

