-- ==== Sys2Proof/Machine/SyncOps.lean ====
section
/-! DEFINITION. Fences, sync objects, bindings, barriers, counters, pins and allowances (12 R256 to R269;
13 R270 to R288). -/

namespace Sys2Proof.Machine

open Sys2Proof

/-! ## FENCE (R270) -/

/-- What a satisfied .full fence of some lanes adds: no younger load is performed before it (R256), and from the scope .gang on
every load sees the REDMs that it covers (R254, R256). -/
def Ctx.fullFence (c : Ctx) (s : State) (scope : BitVec 3) (cmask : BitVec 8) (lanes : Mask) : State :=
  let ths := c.w.serials lanes
  (s.forgetEarly ths).reveal (fun x => x.block == c.b.id && x.covered scope cmask ths)

/-- A .full fence voids what its lanes have read early: no younger load is performed before it (R256). -/
def execFence (h : Head) (full : Bool) (scope : BitVec 3) (cmask : BitVec 8) (s : State) : Out :=
  issue s 2 h .none [] fun c =>
    if !full && cmask == 0#8 then c.retire c.f
    else c.fence scope cmask c.act (fun s => c.retireIn (if full then c.fullFence s scope cmask c.act else s) c.f)

/-! ## ACQ, REL (R271 to R273) -/

/-- A sync object is a 64-bit word of a PRIVATE page of FMT 0 or 8. -/
def syncPageBad (e : BitVec 128) : Bool := !(pteFmt e == 0#4 || pteFmt e == 8#4) || pteShst e != shPrivate

/-- The one access of an instruction that acts once per fragment, at an address of a uniform base. -/
def Ctx.oneAcc (c : Ctx) (sp : Space) (a : DWord) (n : Nat) (k : Access) (extra : BitVec 128 → Bool) : LaneAcc :=
  let l := Mask.lowest c.f.mask
  { lane := l, addr := a, va := laneVa c.w sp l a, len := n, check := c.s.check c.g c.w c.b sp l a n k noKeyRule extra }

/-- Read a word at its home, after the fragment's older stores to it: `n` bytes of the one access. -/
def Ctx.readHome (c : Ctx) (mask : Mask) (xs : List LaneAcc) (n : Nat) (k : Ctx → State → List Byte → LaneOk → Out) : Out :=
  c.resolve (some mask) xs fun ok =>
    match ok with
    | [] => .next c.s
    | y :: _ =>
        let y := { y with acc := { y.acc with len := n } }
        c.settled c.f.mask [(y.place, n)] fun c => c.homeOk (some mask) y fun s bs => k c s bs y

def execAcq (h : Head) (d a : BitVec 6) (imm : BitVec 12) (s : State) : Out :=
  issue s 2 h (.uni d) [.u a] fun c =>
    if c.act == 0#32 then c.retire c.f
    else
      let va := c.f.getU a + disp12 imm
      c.readHome c.act [c.oneAcc .g va 8 .read syncPageBad] 8 fun c s bs _ =>
        c.retireIn ((s.acquire c.w.id c.act c.g.job va).forgetEarly (c.w.serials c.act)) (c.f.setU d (ofBytes 64 bs))

/-- A bound store of a sync object that one of the threads `ths` made. -/
def Piece.boundOf (x : Piece) (sync : DWord) (ths : List Nat) : Bool := x.sync == some sync && x.threads.any (fun t => ths.contains t)

/-- The bound stores of a sync object made by the threads `ths` are all performed at their homes, or held until they are
published (log 68, DEDUCED). -/
def State.boundDone (s : State) (b : Nat) (sync : DWord) (ths : List Nat) : Bool :=
  let mine := fun (e : Entry) => e.pieces.any (fun x => x.boundOf sync ths)
  (match s.block? b with
   | some x => !(x.fsb ++ x.bsb.filter (fun e => !e.held)).any mine
   | none => true)
    && !s.sync.deliveries.any (fun d => d.block == b && !d.failed && d.syncs.contains sync && d.threads.any (fun t => ths.contains t))

/-- Pay for the write of a REL once; a REL that waits for its held stores has paid. -/
def Ctx.payRel (c : Ctx) (s : State) (cost : List (BitVec 11 × Nat)) : State × Bool :=
  if c.f.relPaid == cost then (s, true) else (s.refund c.f.id).pay c.f.id cost

/-- Perform the release of R261 up to the write, whose flits are paid first, and go on once it is done: a REL that parks
for them has released nothing (R7). The held stores are sent then, and the write waits for their acknowledgements. -/
def Ctx.release (c : Ctx) (scope : BitVec 3) (sync : DWord) (cost : List (BitVec 11 × Nat)) (go : Ctx → Out) : Out :=
  let ths := c.w.serials c.act
  let s := (c.s.fenceWork c.b.id c.g.job scope 0xFF ths).startDrain c.b.id
  let mine := fun (e : Entry) => e.pieces.any (fun x => x.boundOf sync ths)
  let s := (s.releaseWhere c.b.id mine).startFor c.b.id mine
  if s.fenceDone c.b.id scope 0xFF ths && s.boundDone c.b.id sync ths then
    match c.payRel s cost with
    | (s, false) => ({ c with f := { c.f with relPaid := [] } } : Ctx).parkIn s .allowance
    | (s, true) =>
        if (match s.block? c.b.id with | some b => b.bsb.any (fun e => e.held && mine e) | none => false) then
          c.waitIn (((s.cutEntries c.b.id (fun _ x => x.boundOf sync ths)).publishHeld c.b.id mine).setFrag { c.f with relPaid := cost })
        else go { c with s := (s.publish c.g.job sync scope ths).soil c.b.id, b := (s.block? c.b.id).getD c.b }
  else c.waitIn s

/-- The write of a REL whose object lies on another device: sent once, retired at its acknowledgement. An .add goes as a
RED of the REL's scope (log 70, DEDUCED). -/
def Ctx.relRemote (c : Ctx) (d : BitVec 11) (pa : Nat) (scope : BitVec 3) (add : Bool) (v : DWord) : Out :=
  let key := c.s.jobKey c.g.job
  let s := if add then c.s.request d key pa (.load c.f.id) (fun t p => .redReq p t (BitVec.ofNat 52 pa) 0 ⟨true, scope⟩ v)
    else c.s.request d key (pa / 256 * 256) (.load c.f.id) (fun t p =>
      .write p t (BitVec.ofNat 52 (pa / 256 * 256)) ((List.range 8).map (fun i => (pa % 256 + i, (bytesOf v 8).getD i 0))) none)
  ({ c with f := { c.f with relSent := true, relPaid := [] } } : Ctx).parkIn s .remoteReply

/-- The write of a REL was refused, or unanswered for 100 µs: it is a posted WRITE or RED (R291, R297), whose failure a fence
reports, and the REL retires (log 78, DEDUCED). -/
def Ctx.relLost (c : Ctx) (va : DWord) : State :=
  let d : Delivery :=
    { tag := 0, block := c.b.id, warp := c.w.id, threads := c.w.serials c.act, colour := 0, va, rank := none, sent := c.s.time,
      failed := true, scope := 6, least := 5, syncs := [], entry := none }
  c.s.modSync fun y => { y with deliveries := y.deliveries ++ [d] }

/-- The flits of a REL's write. -/
def LaneOk.relCost (x : LaneOk) : List (BitVec 11 × Nat) := match x.place with | .far d _ => [(d, 2)] | _ => []

def execRel (h : Head) (a b : BitVec 6) (scope : BitVec 3) (add : Bool) (imm : BitVec 12) (s : State) : Out :=
  issue s 2 h .none [.u a, .u b] fun c =>
    if c.act == 0#32 then c.retireIn (c.s.startDrain c.b.id) c.f
    else
      let va := c.f.getU a + disp12 imm
      let x := c.oneAcc .g va 8 .both syncPageBad
      if c.f.relSent then
        match c.f.replies with
        | [] => c.park .remoteReply
        | r :: _ => c.retireIn (if r.status == 0#8 then c.s else c.relLost va) c.f
      else
        c.resolve (some c.act) [x] fun ok =>
          match ok with
          | [] => .next c.s
          | y :: _ =>
              c.settled c.act [(y.place, 8)] fun c =>
                c.poisonBy (fun y => add && c.homePoisoned y) (some c.act) [y]
                  (c.release scope va y.relCost fun c =>
                    match y.place with
                    | .far d pa => c.relRemote d pa scope add (c.f.getU b)
                    | p =>
                        let old : DWord := ofBytes 64 (c.s.getAt p 8)
                        c.retireIn (c.s.performAt p (bytesOf (if add then old + c.f.getU b else c.f.getU b) 8)) c.f)

/-! ## BIND (R274, R275) -/

/-- A range meets another binding of the block, or holds its sync object. -/
def bindClash (b : Block) (x : Binding) : Bool :=
  b.binds.any (fun y => y.entry != x.entry && y.meets x.base x.length) || x.meets x.sync 8

/-- DEDUCED (log 37). -/
def execBind (ch : Bool) (d a b entry : BitVec 6) (s : State) : Out :=
  issueU s 2 ch .none [.u d, .u a, .u b] fun c =>
    let sync := c.f.getU d
    let base := c.f.getU a
    let len := c.f.getU b
    let bad := fun (cause : Cause) => c.trapWith cause c.f.mask base 0
    if base.toNat % 64 != 0 || len.toNat % 64 != 0 || sync.toNat % 8 != 0 then bad .misaligned
    else if !canonical base || !canonical (base + len - 1) || 2 ^ 40 < len.toNat then bad .noMapping
    else if len != 0#64 && bindClash c.b { entry := entry.toNat, base, length := len.toNat, sync } then bad .permission
    else
      let keep := fun (x : Block) => x.binds.filter (fun y => y.entry != entry.toNat)
      let new := if len == 0#64 then [] else [{ entry := entry.toNat, base, length := len.toNat, sync : Binding }]
      c.retireIn ((c.s.soil c.b.id).modBlock c.b.id (fun x => { x with binds := keep x ++ new })) c.f

/-! ## BAR, GBAR (R277, R278) -/

/-- The most arrivals a fixed count may name: QTHR, or the gang's sum of it. -/
def Ctx.barLimit (c : Ctx) (key : BarKey) : Nat :=
  match key with
  | .bar _ => c.b.quota.qthr
  | .gbar _ => c.b.quota.qthr * c.g.launch.gang

/-- The arrival traps COUNT_RANGE. `n` is 0 for the live-thread kind; `fixed` tells the kinds apart. -/
def barRefused (p : Phase) (fixed : Bool) (n limit arriving : Nat) : Bool :=
  (fixed && (n == 0 || limit < n)) || (p.arrivals != 0 && p.n != n) || (fixed && n < p.arrivals + arriving)

/-- The barrier of BAR and GBAR. -/
def Ctx.barrier (c : Ctx) (key : BarKey) (scope : BitVec 3) (b : BitVec 6) : Out :=
  if c.f.arrived == some key || c.act == 0#32 then c.retire c.f
  else
    let fixed := b != 63#6
    let n := if fixed then (c.f.getU b).toNat else 0
    if barRefused (c.s.phase c.b key) fixed n (c.barLimit key) (Mask.count c.act) then c.trap .countRange c.act
    else
      c.fence scope 0xFF c.act fun s =>
        let s := c.fullFence s scope 0xFF c.act
        let p := s.phase ((s.block? c.b.id).getD c.b) key
        let f := { c.f with arrived := some key, run := .parked .barrier s.cycle }
        let s := (s.setFrag f).putPhase ((s.block? c.b.id).getD c.b) key { arrivals := p.arrivals + Mask.count c.act, n }
        let s := s.completeBar ((s.block? c.b.id).getD c.b) key
        match s.frag? c.f.id with
        | some f => if f.run == .ready then c.retireIn s c.f else .next s
        | none => .next s

def execBar (h : Head) (b : BitVec 6) (id : BitVec 4) (s : State) : Out :=
  issue s 2 h .none [.u b] fun c => c.barrier (.bar id.toNat) scBlk b

def execGbar (h : Head) (b : BitVec 6) (id : BitVec 2) (s : State) : Out :=
  issue s 2 h .none [.u b] fun c => c.barrier (.gbar id.toNat) scGang b

/-! ## Byte barriers (R180, R279 to R282) -/

/-- The fields of a byte barrier. -/
structure ByteBar where
  pending : Int
  phase : Word
  arrivals : Word
deriving DecidableEq, Repr

def State.byteBar (s : State) (p : Place) : ByteBar :=
  { pending := (ofBytes 64 (s.getAt p 8)).toInt, phase := ofBytes 32 (s.getAt (p.at 8) 4), arrivals := ofBytes 32 (s.getAt (p.at 12) 4) }

def State.putByteBar (s : State) (p : Place) (x : ByteBar) : State :=
  s.performAt p (bytesOf (BitVec.ofInt 64 x.pending) 8 ++ bytesOf x.phase 4 ++ bytesOf x.arrivals 4)

def pendMin : Int := -(2 ^ 63)
def pendMax : Int := 2 ^ 63 - 1

/-- A step that takes PENDING to `n`: reaching 0 by a change turns the phase. -/
def ByteBar.to (x : ByteBar) (n : Int) : ByteBar :=
  if n = 0 && x.pending != 0 then { pending := 0, phase := x.phase + 1, arrivals := 0 } else { x with pending := n }

/-- A landing of some bytes (R234, R280): below the least PENDING it clamps for good (log 38, DEDUCED). -/
def ByteBar.land (x : ByteBar) (bytes : Nat) : ByteBar :=
  if x.pending = pendMin then x else x.to (max pendMin (x.pending - bytes))

/-- Land bytes at a block's barrier. -/
def State.landBar (s : State) (b a bytes : Nat) : State :=
  let p := Place.buf b .a a
  s.putByteBar p ((s.byteBar p).land bytes)

/-- The one access of a byte-barrier instruction, after older stores to it. -/
def Ctx.withBar (c : Ctx) (a : BitVec 6) (imm : BitVec 12) (go : Ctx → Place → Out) : Out :=
  c.resolve (some c.f.mask) [c.oneAcc .a (c.f.getU a + disp12 imm) 16 .both noKeyRule] fun ok =>
    match ok with
    | [] => .next c.s
    | y :: _ => c.settled c.f.mask [(y.place, 16)] fun c => c.poisonBy c.homePoisoned (some c.f.mask) [y] (go c y.place)

/-- COUNT_RANGE with the barrier's address (R323). -/
def Ctx.countRange (c : Ctx) (a : BitVec 6) (imm : BitVec 12) : Out :=
  c.trapWith .countRange c.f.mask (c.f.getU a + disp12 imm) c.descriptor

def execBarm (ch : Bool) (a b : BitVec 6) (imm : BitVec 12) (s : State) : Out :=
  issueU s 2 ch .none [.u a, .u b] fun c => c.withBar a imm fun c p =>
    let x := c.s.byteBar p
    let n : Int := (c.f.getU b).toNat
    if 2 ^ 63 ≤ n then c.countRange a imm
    else if x.pending = pendMin then c.retireIn (c.s.putByteBar p { x with arrivals := x.arrivals + 1 }) c.f
    else if pendMax < x.pending + n then c.countRange a imm
    else c.retireIn (c.s.putByteBar p (({ x with arrivals := x.arrivals + 1 } : ByteBar).to (x.pending + n))) c.f

def execBara (ch : Bool) (a b : BitVec 6) (imm : BitVec 12) (s : State) : Out :=
  issueU s 2 ch .none [.u a, .u b] fun c => c.withBar a imm fun c p =>
    let n : Int := if b == 63#6 then 1 else (c.f.getU b).toNat
    let x := c.s.byteBar p
    if x.pending != pendMin && x.pending - n < pendMin then c.countRange a imm
    else
      c.fence scBlk 0xFF c.f.mask fun s =>
        let x := s.byteBar p
        if x.pending = pendMin then c.retireIn (s.putByteBar p { x with arrivals := x.arrivals + 1 }) c.f
        else c.retireIn (s.putByteBar p (({ x with arrivals := x.arrivals + 1 } : ByteBar).to (x.pending - n))) c.f

/-! ## Watches (R283) -/

/-- Watch entries in the L2s, of 256. -/
def State.watchCount (s : State) : Nat := (s.sync.watches.filter (fun w => w.place.isMain)).length

/-- Take a place in the watch of a word, or poll. -/
def State.watch (s : State) (p : Place) (frag : Nat) (watchable : Bool) : State :=
  if !watchable then s.modSync fun y => { y with polls := insertNat frag y.polls }
  else if s.sync.watches.any (fun w => w.place == p) then
    s.modSync fun y => { y with watches := updWhere (fun w => w.place == p) (fun w => { w with frags := insertNat frag w.frags }) y.watches }
  else if p.isMain && 256 ≤ s.watchCount then s.modSync fun y => { y with polls := insertNat frag y.polls }
  else s.modSync fun y => { y with watches := y.watches ++ [{ place := p, frags := [frag] }] }

def execBarw (ch : Bool) (a b : BitVec 6) (imm : BitVec 12) (s : State) : Out :=
  issueU s 2 ch .none [.u a, .u b] fun c => c.withBar a imm fun c p =>
    if (c.s.byteBar p).phase == bits (c.f.getU b) 0 32 then c.parkIn (c.s.watch (p.at 8) c.f.id true) .barrier
    else c.retireIn (c.s.forgetEarly (c.w.serials c.f.mask)) c.f

def execBart (ch : Bool) (d : BitVec 3) (a b : BitVec 6) (imm : BitVec 12) (s : State) : Out :=
  issueU s 2 ch (.pred d) [.u a, .u b] fun c => c.withBar a imm fun c p =>
    let t := (c.s.byteBar p).phase != bits (c.f.getU b) 0 32
    c.retireIn (c.s.forgetEarly (c.w.serials c.f.mask)) (c.f.setP d c.f.mask (if t then 0xFFFFFFFF#32 else 0))

/-- A WAITC page of FMT other than 0 and 8. -/
def counterPageBad (e : BitVec 128) : Bool := !(pteFmt e == 0#4 || pteFmt e == 8#4)

/-- A word that a watch can hold: in a, or on a local CA = 1 page. -/
def LaneOk.watchable (y : LaneOk) : Bool :=
  match y.place, y.leaf with
  | .buf _ _ _, _ => true
  | .far _ _, _ => false
  | _, some lf => pteCa lf.pte
  | _, none => false

def execWaitc (ch : Bool) (a b : BitVec 6) (inA : Bool) (imm : BitVec 12) (s : State) : Out :=
  issueU s 2 ch .none [.u a, .u b] fun c =>
    let sp : Space := if inA then .a else .g
    c.readHome c.f.mask [c.oneAcc sp (c.f.getU a + disp12 imm) 8 .read counterPageBad] 8 fun c s bs y =>
      if (c.f.getU b).toNat ≤ natOfBytes bs then c.retireIn (s.forgetEarly (c.w.serials c.f.mask)) c.f
      else ({ c with f := { c.f with replies := [] } } : Ctx).parkIn (s.watch y.place c.f.id y.watchable) .barrier

/-- A polling waiter is cleared to read again. -/
def execWaitcPoll (frag : Nat) (s : State) : Out :=
  if s.sync.polls.contains frag then
    .next ((s.modSync fun y => { y with polls := y.polls.filter (· != frag) }).modFrag frag
      (fun f => match f.run with | .parked .barrier _ => { f with run := .ready } | _ => f))
  else .next s

/-! ## Pins and the bittern list (R266 to R269, R285 to R287) -/

/-- Every name on the pin board and in the swapped-pin table. -/
def State.pinned (s : State) : List DWord :=
  (s.work.warps.filter (fun w => match s.block? w.block with | some b => b.run != .saved | none => false)).flatMap (fun w => w.pins.toList.filter (· != 0))
    ++ s.sync.swappedPins.map (·.2)

/-- A name is found by a search: while the table is overflowed every name is (R269). -/
def State.isPinned (s : State) (x : DWord) : Bool := !s.sync.pinOverflow.isEmpty || s.pinned.contains x

/-- Set a pin; a name that leaves the board clears the reclaim waits. -/
def Ctx.setPin (c : Ctx) (k : BitVec 3) (x : DWord) : State :=
  let old := (c.w.pins)[k.toNat]'(k.isLt)
  let s := c.s.modWarp c.w.id (fun w => { w with pins := w.pins.set k.toNat x k.isLt, raw := w.raw.set k.toNat 0 k.isLt })
  if old == 0#64 then s else s.wakeReclaim

def execPin (ch : Bool) (k : BitVec 3) (a : BitVec 6) (s : State) : Out :=
  issueU s 1 ch .none [.u a] fun c => c.retireIn (((c.setPin k (c.f.getU a)).soil c.b.id).forgetEarly (c.w.serials c.f.mask)) c.f

def execUnpin (ch : Bool) (k : BitVec 3) (s : State) : Out :=
  issueU s 1 ch .none [] fun c => c.retireIn (c.setPin k 0) c.f

/-- Every older unbound store of the fragment's lanes is performed at its home (R268). -/
def Ctx.unboundDone (c : Ctx) (go : Ctx → Out) : Out :=
  let ths := c.w.serials c.f.mask
  let mine := fun (e : Entry) => e.pieces.any (fun x => x.sync.isNone && x.threads.any (fun t => ths.contains t))
  let s := ((c.s.releaseWhere c.b.id mine).arriveWhere c.b.id mine).startFor c.b.id mine
  match s.block? c.b.id with
  | none => .next s
  | some b =>
      let left := (b.fsb ++ b.wire ++ b.bsb).any mine
        || s.sync.deliveries.any (fun d => d.block == b.id && !d.failed && d.threads.any (fun t => ths.contains t))
      if left then c.waitIn s else go { c with s, b }

/-- The oldest unpinned name of a list. -/
def State.oldestFree (s : State) (l : List DWord) : Option DWord := l.find? (fun x => !s.isPinned x)

def State.bittern (s : State) (j : BitVec 16) : List DWord := match s.job? j with | some x => x.bittern | none => []

def State.setBittern (s : State) (j : BitVec 16) (l : List DWord) : State :=
  s.modWork fun y => { y with jobs := updWhere (fun x => x.num == j) (fun x => { x with bittern := l }) y.jobs }

def execReclaim (ch : Bool) (d a : BitVec 6) (s : State) : Out :=
  issueU s 1 ch (.uni d) [.u a] fun c =>
    let x := c.f.getU a
    if x == 0#64 then c.retire (c.f.setU d 0)
    else
      c.unboundDone fun c =>
        if !c.s.isPinned x then c.retire (c.f.setU d x)
        else
          let l := c.s.bittern c.g.job
          match c.s.oldestFree l with
          | some y => c.retireIn (c.s.setBittern c.g.job (l.erase y ++ [x])) (c.f.setU d y)
          | none =>
              if 1024 ≤ l.length then c.park .reclaim else c.retireIn (c.s.setBittern c.g.job (l ++ [x])) (c.f.setU d 0)

def execReclaimd (ch : Bool) (d : BitVec 6) (s : State) : Out :=
  issueU s 1 ch (.uni d) [] fun c =>
    c.unboundDone fun c =>
      let l := c.s.bittern c.g.job
      match c.s.oldestFree l with
      | some y => c.retireIn (c.s.setBittern c.g.job (l.erase y)) (c.f.setU d y)
      | none => c.retire (c.f.setU d 0)

/-! ## ALW (R288) -/

def execAlw (ch : Bool) (d a : BitVec 6) (s : State) : Out :=
  issueU s 1 ch (.uni d) [.u a] fun c => c.uniform d (BitVec.ofNat 64 (c.s.allowance (bits (c.f.getU a) 0 11)))

end Sys2Proof.Machine
end

