-- ==== Sys2Proof/Machine/Typed.lean ====
section
/-! DEFINITION. Elements of typed pages, tensors and segments (02 R22, R24). -/

namespace Sys2Proof.Machine

open Sys2Proof

/-- Where an element lies from the base of its page or tensor: its bytes, for a nibble whether it is the
high one, and its scale byte. -/
structure ElemLoc where
  off : Nat
  len : Nat
  high : Bool
  scale : Option Nat
deriving DecidableEq, Repr

/-- Q4 units: elements in a unit, bytes of codes, and elements of a block. -/
def q4Unit (bg : BitVec 2) : Nat × Nat × Nat := if bg == 1#2 then (122880, 61440, 32) else (114688, 57344, 16)

/-- Element `i` of a page of the FMT and BG. -/
def elemLoc (fmt : BitVec 4) (bg : BitVec 2) (i : Nat) : ElemLoc :=
  match fmt.toNat with
  | 1 | 8 => { off := 4 * i, len := 4, high := false, scale := none }
  | 2 | 3 => { off := 2 * i, len := 2, high := false, scale := none }
  | 9 =>
      let q := q4Unit bg
      let j := i % q.1
      let u := 65536 * (i / q.1)
      { off := u + j / 2, len := 1, high := j % 2 == 1, scale := some (u + q.2.1 + j / q.2.2) }
  | 10 =>
      let j := i % 131072
      { off := 65536 * (i / 131072) + j / 2, len := 1, high := j % 2 == 1, scale := none }
  | _ => { off := i, len := 1, high := false, scale := none }

/-- The exact value of a floating-point or Q4 element, or of an integer. -/
def elemValue (fmt : BitVec 4) (loc : ElemLoc) (bs : List Byte) (scale : Byte) : Fv :=
  let n := natOfBytes bs
  let code : BitVec 4 := BitVec.ofNat 4 (if loc.high then n / 16 else n)
  match fmt.toNat with
  | 6 => intToFv (BitVec.ofNat 8 n).toInt
  | 7 => intToFv (n % 256 : Nat)
  | 8 => intToFv (BitVec.ofNat 32 n).toInt
  | 9 => q4Decode scale code
  | 10 => q4Value 0 code
  | _ => (fmtOf fmt).decode n

/-- An integer element (FMT 6, 7 and 8). -/
def elemIsInt (fmt : BitVec 4) : Bool := fmt == 6#4 || fmt == 7#4 || fmt == 8#4

/-- The last column of R24: FP32, or INT32 for the integer formats. -/
def elemWord (fmt : BitVec 4) (loc : ElemLoc) (bs : List Byte) (scale : Byte) : Word :=
  let n := natOfBytes bs
  match fmt.toNat with
  | 6 => (BitVec.ofNat 8 n).signExtend 32
  | 7 => BitVec.ofNat 32 (n % 256)
  | 8 => BitVec.ofNat 32 n
  | _ => BitVec.ofNat 32 (Fmt.fp32.round .rne false (elemValue fmt loc bs scale)).1

/-- The alignment that an element base must have (R225). -/
def elemAlign (fmt : BitVec 4) : Nat :=
  match fmt.toNat with
  | 1 | 8 => 4
  | 2 | 3 => 2
  | 9 | 10 => 65536
  | _ => 1

end Sys2Proof.Machine
end

