-- ==== Sys2Proof/Machine/Engine.lean ====
section
/-! DEFINITION. Copy engines: CPY, CPYT, QFENCE and their performing (03 R37, R38; 09 R175, R176, R198, R199;
11 R233 to R239; 12 R265). -/

namespace Sys2Proof.Machine

open Sys2Proof

/-! ## Ranges and their checks (R235) -/

/-- The chunks of a g range, one for each page; an unmapped address stands for one chunk (log 34, DEDUCED). -/
def State.chunksG (s : State) (job : BitVec 16) : Nat → DWord → Nat → List (DWord × Nat)
  | 0, _, _ => []
  | fuel + 1, va, n =>
      if n = 0 then []
      else match s.leaf? job va with
        | none => [(va, n)]
        | some lf =>
            let k := min n (lf.page.toNat + lf.size - va.toNat)
            (va, k) :: s.chunksG job fuel (va + BitVec.ofNat 64 k) (n - k)

/-- The chunks of a w range, one for each segment. -/
def chunksW : Nat → DWord → Nat → List (DWord × Nat)
  | 0, _, _ => []
  | fuel + 1, a, n =>
      if n = 0 then []
      else
        let k := min n (65536 - a.toNat % 65536)
        (a, k) :: chunksW fuel (a + BitVec.ofNat 64 k) (n - k)

/-- The chunks of a range of an engine operation. -/
def State.chunks (s : State) (job : BitVec 16) (sp : Space) (a : DWord) (n : Nat) : List (DWord × Nat) :=
  match sp with
  | .g => s.chunksG job 1024 a n
  | .w | .cw => chunksW 1024 a n
  | _ => if n = 0 then [] else [(a, n)]

/-- Checks of one chunk without the alignment row, which the instruction checks itself. -/
def Ctx.engineCheck (c : Ctx) (sp : Space) (x : DWord × Nat) (k : Access) (keyed extra : BitVec 128 → Bool) : LaneAcc :=
  let l := Mask.lowest c.f.mask
  let check := match sp with
    | .g => c.s.checkG c.b.core c.g.job x.1 x.2 k keyed extra
    | .a => checkBuf c.b .a (c.b.limit .a) x.1 x.2
    | .w => checkBuf c.b .w (c.b.limit .w) x.1 x.2
    | .c => checkBuf c.b .c (c.b.limit .c) x.1 x.2
    | .cw => c.s.checkGang c.g c.b .w x.1 x.2
    | .ca => c.s.checkGang c.g c.b .a x.1 x.2
    | .l | .t => .bad 3 .bufferBounds 0
  { lane := l, addr := x.1, va := x.1, len := x.2, check }

/-- A condition of the instruction itself, as a row of R191. -/
def Ctx.rowIf (c : Ctx) (bad : Bool) (row : Nat) (cause : Cause) (addr : DWord) : List LaneAcc :=
  if bad then [{ lane := Mask.lowest c.f.mask, addr, va := addr, len := 1, check := .bad row cause 0 }] else []

/-- A .cnt word: PRIVATE, FMT 0 or 8, unkeyed. -/
def cntPageBad (e : BitVec 128) : Bool := counterPageBad e || pteShst e != shPrivate

/-- The checks of the completion address (R234). -/
def Ctx.doneChecks (c : Ctx) (ck : Ck) (e : BitVec 6) : List LaneAcc :=
  let a := c.f.getU e
  match ck with
  | .none => []
  | .bar => c.rowIf (a.toNat % 16 != 0) 2 .misaligned a ++ [c.engineCheck .a (a, 16) .both noKeyRule noKeyRule]
  | .cnta => c.rowIf (a.toNat % 8 != 0) 2 .misaligned a ++ [c.engineCheck .a (a, 8) .both noKeyRule noKeyRule]
  | .cnt => c.rowIf (a.toNat % 8 != 0) 2 .misaligned a ++ [c.engineCheck .g (a, 8) .write pteKy cntPageBad]

/-- The completion of an operation whose checks passed. -/
def doneOf (ck : Ck) (ok : List LaneOk) : Done :=
  match ck, ok.getLast? with
  | .none, _ => .none
  | _, none => .none
  | .cnt, some y => .cnt y.place
  | .bar, some y => match y.place with | .buf _ _ a => .bar a | _ => .none
  | .cnta, some y => match y.place with | .buf _ _ a => .cnta a | _ => .none

/-- The span of a checked chunk; a page gives its FMT and BG as the tag. -/
def LaneOk.span (y : LaneOk) : Span :=
  { place := y.place, len := y.acc.len, tag := match y.leaf with | some lf => pteTag lf.pte | none => 0, va := y.acc.va, inW := false }

def Span.cut (x : Span) (from' n : Nat) : Span :=
  { x with place := x.place.at from', len := n, va := x.va + BitVec.ofNat 64 from' }

/-- Pair the source and destination spans of a copy. -/
def zipSpans : Nat → List Span → List Span → List Move
  | 0, _, _ => []
  | fuel + 1, x :: xs, y :: ys =>
      let n := min x.len y.len
      let m : Move := { src := some (x.cut 0 n), dst := some (y.cut 0 n), len := n }
      m :: zipSpans fuel (if x.len = n then xs else x.cut n (x.len - n) :: xs) (if y.len = n then ys else y.cut n (y.len - n) :: ys)
  | _, _, _ => []

/-! ## Entering a queue (R233) -/


def Block.setQueue (b : Block) (q : BitVec 3) (l : List EngOp) : Block := { b with queues := b.queues.set q.toNat l q.isLt }

/-- The warp has 63 operations outstanding in the queue. -/
def Ctx.queueFull (c : Ctx) (q : BitVec 3) : Bool := c.b.queueFull c.w.id q

/-- The operation enters its queue at retirement. -/
def Ctx.enqueue (c : Ctx) (q : BitVec 3) (moves : List Move) (key : BitVec 16) (decrypt : Bool) (segTag : Option (BitVec 6))
    (waits : List Nat) (fence : Option (BitVec 8)) (done : Done) (bytes : Nat) : Out :=
  let r := c.s.fresh
  let op : EngOp :=
    { id := r.1, warp := c.w.id, frag := c.f.id, after := r.1, moves, key, decrypt, segTag, fence, done, barBytes := bytes,
      waits, started := false, wrote := false, fetched := [], outstanding := 0 }
  c.retireIn (r.2.modBlock c.b.id (fun b => b.setQueue q (b.queue q ++ [op]))) c.f

def engineUses (rs : List (BitVec 6)) (ck : Ck) (e : BitVec 6) : List Use := (if ck == .none then rs else rs ++ [e]).map Use.u

/-! ## CPY (R236) -/

def execCpy (ch : Bool) (d a b e : BitVec 6) (dsp ssp : Space) (q : BitVec 3) (ck : Ck) (s : State) : Out :=
  issueU s 2 ch .none (engineUses [d, a, b] ck e) fun c =>
    if c.queueFull q then c.waitIn c.s
    else
      let dst := c.f.getU d
      let src := c.f.getU a
      let n := (c.f.getU b).toNat
      let m := if n ≤ 16777216 then n else 0
      let own := c.rowIf (dst.toNat % 16 != 0) 2 .misaligned dst ++ c.rowIf (src.toNat % 16 != 0) 2 .misaligned src
        ++ c.rowIf (n % 16 != 0) 2 .misaligned dst ++ c.rowIf (16777216 < n) 3 .bufferBounds dst
      let xs := (c.s.chunks c.g.job ssp src m).map (fun x => c.engineCheck ssp x .read noKeyRule noKeyRule)
      let ys := (c.s.chunks c.g.job dsp dst m).map (fun x => c.engineCheck dsp x .write noKeyRule noKeyRule)
      c.resolve (some c.f.mask) (own ++ xs ++ ys ++ c.doneChecks ck e) fun ok =>
        let srcs := (ok.take xs.length).map (fun y => { y.span with inW := ssp == .w })
        let dsts := ((ok.drop xs.length).take ys.length).map LaneOk.span
        c.enqueue q (zipSpans 4096 srcs dsts) 0 false none [] none (doneOf ck ok) m

/-! ## CPYT (R37, R38, R237, R238) -/

/-- A tensor layout record. -/
structure Tlr where
  base : DWord
  dims : List Nat
  strides : List Nat
  fmt : BitVec 4
  bg : BitVec 2
  rank : Nat
  key : BitVec 16
deriving DecidableEq, Repr

/-- Bytes of an element; FMT 0 counts bytes (log 15). -/
def elemSize (fmt : BitVec 4) : Nat :=
  match fmt.toNat with
  | 1 | 8 => 4
  | 2 | 3 => 2
  | _ => 1

def isNibble (fmt : BitVec 4) : Bool := fmt == 9#4 || fmt == 10#4

/-- Elements in a 64 KiB unit of the nibble formats. -/
def unitCount (fmt : BitVec 4) (bg : BitVec 2) : Nat := if fmt == 10#4 then 131072 else (q4Unit bg).1

/-- Read a record from its 64 bytes; none where it breaks R37 or R38. A DIM beyond RANK is not looked at, whether it is 0 or not
(log 76, DESIGN CHOICE). -/
def readTlr (bs : List Byte) : Option Tlr :=
  let w := fun (o n : Nat) => natOfBytes ((bs.drop o).take n)
  let fb := w 0x30 1
  let fmt := BitVec.ofNat 4 fb
  let bg := BitVec.ofNat 2 (fb / 16)
  let rank := w 0x31 1
  let dims := (List.range 4).map (fun i => if i < rank then w (8 + 4 * i) 4 else 1)
  let strides := (List.range 3).map (fun i => if i + 1 < rank then w (0x18 + 8 * i) 8 else 0)
  let base := w 0 8
  let align := if isNibble fmt then 65536 else elemSize fmt
  if 64 ≤ fb || !fmtRow fmt bg || rank < 1 || 4 < rank || dims.any (· == 0) || w 0x34 12 != 0 then none
  else if base % align != 0 || strides.any (fun x => x % align != 0) then none
  else if isNibble fmt && dims.headD 0 % unitCount fmt bg != 0 then none
  else some { base := BitVec.ofNat 64 base, dims, strides, fmt, bg, rank, key := BitVec.ofNat 16 (w 0x32 2) }

def Tlr.tag (t : Tlr) : BitVec 6 := t.bg ++ t.fmt

/-- The VA of index (·, i1, i2, i3) in dimension 0's first element. -/
def Tlr.rowVa (t : Tlr) (i1 i2 i3 : Nat) : DWord :=
  t.base + BitVec.ofNat 64 (i1 * t.strides.getD 0 0 + i2 * t.strides.getD 1 0 + i3 * t.strides.getD 2 0)

def Tlr.inside (t : Tlr) (i1 i2 i3 : Nat) : Bool := i1 < t.dims.getD 1 1 && i2 < t.dims.getD 2 1 && i3 < t.dims.getD 3 1

/-- One run of a box: the VA and length of its tensor bytes, and its place and length in the buffer. -/
structure BoxRun where
  va : DWord
  len : Nat
  buf : Nat
  pitch : Nat
deriving DecidableEq, Repr

/-- The runs of a box (R237). -/
def boxRuns (t : Tlr) (c0 c1 c2 c3 box0 box1 : Nat) : List BoxRun :=
  if isNibble t.fmt then
    let per := unitCount t.fmt t.bg
    (List.range box0).map (fun u =>
      let k := c0 / per + u
      { va := t.rowVa c1 c2 c3 + BitVec.ofNat 64 (65536 * k),
        len := if t.inside c1 c2 c3 && k < t.dims.headD 0 / per then 65536 else 0, buf := 65536 * u, pitch := 65536 })
  else
    let e := elemSize t.fmt
    let pitch := ceilDiv (box0 * e) 16 * 16
    (List.range box1).map (fun r =>
      { va := t.rowVa (c1 + r) c2 c3 + BitVec.ofNat 64 (c0 * e),
        len := if t.inside (c1 + r) c2 c3 then min box0 (t.dims.headD 0 - c0) * e else 0, buf := pitch * r, pitch })

/-- Bytes of the buffer that a box takes. -/
def boxBytes (runs : List BoxRun) : Nat := (runs.map (·.pitch)).sum

/-- Row 6 for a W range under a key: a seal admits only a write of the same handle (R176). -/
def sealClash (b : Block) (a n : Nat) (key : BitVec 16) (reads : Bool) : Bool :=
  (List.range ((a % 65536 + n + 65535) / 65536)).any (fun i => match b.segs[a / 65536 + i]? with
    | some g => match g.sealedBy with | some k => reads || k != key | none => false
    | none => false)

/-- The checks of a buffer range of CPYT. -/
def Ctx.boxCheck (c : Ctx) (w : Bool) (a : DWord) (n : Nat) (key : BitVec 16) (store : Bool) : LaneAcc :=
  let sp : Buf := if w then .w else .a
  let check : Check :=
    if c.b.limit sp < a.toNat + n then .bad 3 .bufferBounds 0
    else if w && sealClash c.b a.toNat n key store then .bad 6 .keyRefused 0
    else .ok (.buf c.b.id sp a.toNat) none
  { lane := Mask.lowest c.f.mask, addr := a, va := a, len := n, check }

def Ctx.keyLoaded (c : Ctx) (key : BitVec 16) : Bool := match c.s.job? c.g.job with | some j => (getKey key j.keys).isSome | none => false

/-- The spans of a run in the tensor, one for each page. -/
def Ctx.runChunks (c : Ctx) (x : BoxRun) : List (DWord × Nat) := c.s.chunksG c.g.job 64 x.va x.len

/-- The moves of one run, from the spans of its tensor bytes. -/
def runMoves (store : Bool) (buf : Span) (x : BoxRun) (spans : List Span) : List Move :=
  let pieces := spans.foldl (fun (r : List Move × Nat) y =>
    let b := buf.cut (x.buf + r.2) y.len
    (r.1 ++ [if store then { src := some b, dst := some y, len := y.len } else { src := some y, dst := some b, len := y.len }], r.2 + y.len)) ([], 0)
  if store || x.pitch ≤ x.len then pieces.1
  else pieces.1 ++ [{ src := none, dst := some (buf.cut (x.buf + x.len) (x.pitch - x.len)), len := x.pitch - x.len }]

/-- The spans of several runs, taken off one list in order. -/
def splitRuns : List (BoxRun × Nat) → List Span → List (BoxRun × List Span)
  | [], _ => []
  | (x, n) :: rest, l => (x, l.take n) :: splitRuns rest (l.drop n)

/-- CPYT after its record is read. -/
def Ctx.copyBox (c : Ctx) (t : Tlr) (dst : DWord) (coords : List Nat) (store w : Bool) (q : BitVec 3) (ck : Ck) (e : BitVec 6) (box1 box0 : Nat) : Out :=
  let co := fun i => coords.getD i 0
  let runs := boxRuns t (co 0) (co 1) (co 2) (co 3) box0 box1
  let keyed := t.key != 0#16
  let nib := isNibble t.fmt
  let broken := nib && (box1 != 1 || !w || dst.toNat % 65536 != 0 || co 0 % unitCount t.fmt t.bg != 0 || 16 < box0)
  let keyRows := keyed && runs.any (fun x => x.va.toNat % 64 != 0 || (if nib then 65536 else box0 * elemSize t.fmt) % 64 != 0)
  let own := c.rowIf (dst.toNat % 16 != 0 || broken || keyRows) 2 .misaligned dst
    ++ c.rowIf (keyed && (!w || !c.keyLoaded t.key)) 6 .keyRefused dst
  let lists := runs.map (fun x => (x, c.runChunks x))
  let pages := (lists.flatMap (·.2)).map (fun x =>
    c.engineCheck .g x (if store then .write else .read) (fun p => pteKy p != keyed) (fun p => pteFmt p != 0#4 && pteTag p != t.tag))
  let buf := c.boxCheck w dst (boxBytes runs) t.key store
  c.resolve (some c.f.mask) (own ++ pages ++ [buf] ++ c.doneChecks ck e) fun ok =>
    let spans := (ok.take pages.length).map LaneOk.span
    let bs := match ok[pages.length]? with | some y => y.span | none => { place := .hbm 0, len := 0, tag := 0, va := 0, inW := false }
    let moves := (splitRuns (lists.map (fun x => (x.1, x.2.length))) spans).flatMap (fun x => runMoves store bs x.1 x.2)
    c.enqueue q moves t.key (keyed && !store) (if w && !store then some t.tag else none) [] none (doneOf ck ok) (boxBytes runs)

/-- DEDUCED (log 39). -/
def execCpyt (ch : Bool) (d a b e : BitVec 6) (st w : Bool) (q : BitVec 3) (ck : Ck) (box1 : BitVec 5) (box0 : BitVec 10) (s : State) : Out :=
  issueU s 2 ch .none (engineUses [d, a, b, b + 1] ck e) fun c =>
    if c.queueFull q then c.waitIn c.s
    else
      let rec' := c.oneAcc .g (c.f.getU a) 64 .read noKeyRule
      c.loadLanes (some c.f.mask) [rec'] fun s data =>
        let c : Ctx := { c with s }
        let dst := c.f.getU d
        let coords := [(bits (c.f.getU b) 0 32).toNat, (bits (c.f.getU b) 32 32).toNat, (bits (c.f.getU (b + 1)) 0 32).toNat, (bits (c.f.getU (b + 1)) 32 32).toNat]
        match readTlr (data rec'.lane) with
        | none => if dst.toNat % 16 != 0 then c.trapWith .misaligned c.f.mask dst c.descriptor
            else c.trapWith .permission c.f.mask (c.f.getU a) c.descriptor
        | some t => c.copyBox t dst coords st w q ck e (box1.toNat + 1) (box0.toNat + 1)

/-! ## QFENCE (R239) -/

def execQfence (ch : Bool) (e : BitVec 6) (q : BitVec 3) (ck : Ck) (mask : BitVec 8) (s : State) : Out :=
  issueU s 2 ch .none (engineUses [] ck e) fun c =>
    if c.queueFull q then c.waitIn c.s
    else
      c.resolve (some c.f.mask) (c.doneChecks ck e) fun ok =>
        let waits := (List.range 8).flatMap (fun i => if bit mask i then (c.b.queues.toList.getD i []).map (·.id) else [])
        c.enqueue q [] 0 false none waits (some mask) (doneOf ck ok) 1

/-! ## Performing (R233 to R235, R265) -/

/-- What an engine of a block reads of a byte at its home, bound stores of other blocks excluded (R263). -/
def State.agentByte (s : State) (block : Nat) (q : Place) : Byte × State :=
  match s.sync.histories.find? (fun h => h.place == q) with
  | none => ((s.getAt q 1).headD 0, s)
  | some h =>
      let os := h.options block [] (Thread.born 0 0 0) 0
      if os.length ≤ 1 then ((os.headD (h.base, 0)).1, s)
      else let r := s.draw; ((os.getD (r.1 % os.length) (h.base, 0)).1, r.2)

def State.agentBytes (s : State) (block : Nat) (p : Place) (n : Nat) : List Byte × State :=
  if !p.isMain || s.sync.histories.isEmpty then (s.getAt p n, s)
  else (List.range n).foldl (fun r i => let x := r.2.agentByte block (p.at i); (r.1 ++ [x.1], x.2)) ([], s)

/-- Pieces of at most 256 bytes of a remote span, within granules. -/
def farPieces (p : Place) (len : Nat) : List (BitVec 11 × Nat × Nat) :=
  match p with
  | .far d a =>
      (List.range ((a % 256 + len + 255) / 256)).map (fun i =>
        let lo := max a (256 * (a / 256 + i))
        let hi := min (a + len) (256 * (a / 256 + i + 1))
        (d, lo, hi - lo))
  | _ => []

def farKey (d : BitVec 11) (a : Nat) : Nat := d.toNat * 2 ^ 52 + a

/-- The bytes that an operation reads for `n` bytes of a source: decryption takes whole units of 64 bytes (R198). -/
def EngOp.reach (o : EngOp) (n : Nat) : Nat := if o.decrypt then ceilDiv n 64 * 64 else n

def EngOp.sources (o : EngOp) : List (BitVec 11 × Nat × Nat) :=
  o.moves.flatMap (fun m => match m.src with | some y => farPieces y.place (o.reach y.len) | none => [])
def EngOp.targets (o : EngOp) : List (BitVec 11 × Nat × Nat) :=
  o.moves.flatMap (fun m => match m.dst with | some y => farPieces y.place y.len | none => [])

/-- Older stores of the issuing fragment to a byte the operation touches. -/
def EngOp.after? (o : EngOp) (e : Entry) : Bool :=
  e.age < o.after && e.frags.contains o.frag &&
    e.pieces.any (fun x => o.moves.any (fun m => [m.src, m.dst].any (fun y => match y with
      | some y => y.place.overlap y.len x.place x.bytes.length
      | none => false)))

/-- An engine operation writes g, a counter there among it, cw or ca: the block stops being clean (R347). -/
def EngOp.soils (o : EngOp) (b : Nat) : Bool :=
  (match o.done with | .cnt _ => true | _ => false) || o.moves.any (fun m => match m.dst with
    | some y => match y.place with | .buf k _ _ => k != b | _ => true
    | none => false)

/-- The bytes of one move, its source at home or fetched, up to the end of the last unit where they are decrypted. -/
def State.moveBytes (s : State) (block : Nat) (o : EngOp) (m : Move) : List Byte × State :=
  match m.src with
  | none => (List.replicate m.len 0, s)
  | some y =>
      match y.place with
      | .far _ _ => ((farPieces y.place (o.reach y.len)).flatMap (fun p => (getKey (farKey p.1 p.2.1) o.fetched).getD []), s)
      | p => s.agentBytes block p (o.reach y.len)

/-- Transform bytes unit by unit, with the VA of each unit as its tweak (R198). -/
def xtsUnits (decrypt : Bool) (key : List Byte) (va : Nat) (bs : List Byte) : List Byte :=
  (List.range (ceilDiv bs.length 64)).flatMap (fun i =>
    let unit := (bs.drop (64 * i)).take 64
    xtsUnit decrypt key (va + 64 * i) (unit ++ List.replicate (64 - unit.length) 0))

/-- Transform the bytes of a keyed move. They are decrypted in whole units, of which a row may take a part. Of a part of a unit
at the end of a row, each whole cipher block is encrypted as in its unit; the bytes of a part of a cipher block are free
values, given by `fr` (log 14, DEDUCED). -/
def EngOp.transform (o : EngOp) (key : List Byte) (m : Move) (bs : List Byte) (fr : Nat → Nat) : List Byte :=
  match o.decrypt, m.src, m.dst with
  | true, some y, _ => (xtsUnits true key y.va.toNat bs).take m.len
  | false, _, some y =>
      let whole := bs.length / 16 * 16
      (xtsUnits false key y.va.toNat (bs.take whole)).take whole ++ (List.range (bs.length - whole)).map (fun i => BitVec.ofNat 8 (fr i))
  | _, _, _ => bs

/-- The FMT tag a source carries when it is read (R175, R236): that of its segment for a source in w, else the page's; a
source in a, c, cw or ca has none. -/
def State.spanTag (s : State) (x : Option Span) : BitVec 6 :=
  match x with
  | none => 0
  | some y => if !y.inW then y.tag else match y.place with
      | .buf b _ a => match s.block? b with | some k => (k.segs.getD (a / 65536) Segment.blank).tag | none => 0
      | _ => 0

/-- Destination segments of a move. -/
def moveSegs (m : Move) : List (Nat × Nat) :=
  match m.dst with
  | some y => match y.place with
    | .buf b .w a => (List.range ((a % 65536 + y.len + 65535) / 65536)).map (fun i => (b, a / 65536 + i))
    | _ => []
  | none => []

/-- Set the tags, and the seals of a keyed load, of the W segments that an operation writes. -/
def State.tagSegs (s : State) (o : EngOp) (tags : List (Move × BitVec 6)) : State :=
  (distinct (o.moves.flatMap moveSegs)).foldl (fun s seg =>
    let ts := distinct ((tags.filter (fun x => (moveSegs x.1).contains seg)).map (·.2))
    let tag := match o.segTag with | some t => t | none => match ts with | [t] => t | _ => 0
    s.modBlock seg.1 (fun b => { b with segs := (List.range b.segs.length).map (fun i =>
      let g := b.segs.getD i Segment.blank
      if i = seg.2 then { tag, sealedBy := if o.decrypt then some o.key else g.sealedBy } else g) })) s

/-- Write one destination: the bytes, the full bits of a and w, and poison carried over (R177, R355). -/
def State.landSpan (s : State) (y : Span) (bs : List Byte) : State :=
  let s := s.performAt y.place bs
  match y.place with
  | .buf b x a => (s.modBlock b (fun k => k.setFull x a bs.length)).wakeFull b
  | _ => s

/-- A source of the operation carries an uncorrectable error. -/
def State.opPoisoned (s : State) (o : EngOp) : Bool :=
  o.moves.any (fun m => match m.src with | some y => s.isPoisoned y.place y.len | none => false)

/-- Mark the lines that the bytes of poisoned lines of a source move to (R355). -/
def State.carryLines (s : State) (src dst : Place) (n : Nat) : State :=
  (List.range n).foldl (fun s i => if s.isPoisoned (src.at i) 1 then s.addPoison (dst.at i) 1 else s) s

/-- Mark the destinations of the bytes that another device has answered with POISON, the packet at an address of it (R355). -/
def State.carryFar (s : State) (moves : List Move) (dev : BitVec 11) (addr : Nat) : State :=
  moves.foldl (fun s m => match m.src, m.dst with
    | some x, some y => match x.place with
      | .far d a => ((farPieces x.place x.len).filter (fun p => d == dev && p.2.1 == addr)).foldl (fun s p => s.addPoison (y.place.at (addr - a)) p.2.2) s
      | _ => s
    | _, _ => s) s

/-- Mark the destinations of poisoned sources of moves (R355). -/
def State.carryPoison (s : State) (moves : List Move) : State :=
  moves.foldl (fun s m => match m.src, m.dst with
    | some x, some y => if s.isPoisoned x.place x.len then s.carryLines x.place y.place (min x.len y.len) else s
    | _, _ => s) s

/-- The place of a poisoned source, else of the first one. -/
def State.badSource (s : State) (o : EngOp) : Place :=
  let ps := o.moves.filterMap (fun m => m.src)
  match ps.find? (fun y => s.isPoisoned y.place y.len) with
  | some y => y.place
  | none => (ps.head?.map (·.place)).getD (.hbm 0)

/-- The request is for one of some operations of a block. -/
def Request.isFor (r : Request) (block : Nat) (ops : List Nat) : Bool :=
  match r.purpose with
  | .engine b _ o => b == block && ops.contains o
  | _ => false

/-- Forget the requests of engine operations, sent and not yet sent. -/
def State.dropOps (s : State) (block : Nat) (ops : List Nat) : State :=
  s.modFab fun y => { y with
    requests := y.requests.filter (fun r => !r.isFor block ops), engineWait := y.engineWait.filter (fun w => !w.request.isFor block ops) }

/-- An operation stops: nothing of it is left, and its completion is never signalled (R235). -/
def State.stopOp (s : State) (block op : Nat) : State :=
  (s.dropOps block [op]).modBlock block (fun b => { b with queues := b.queues.map (fun q => q.filter (fun o => o.id != op)) })

/-- An engine operation meets an uncorrectable error: rollback of a clean block, else a kill (R348) (log 41, DEDUCED). `carry` marks
what the operation would have moved. -/
def State.engineError (s : State) (b : Block) (o : EngOp) (carry : State → State) : State :=
  let r := s.draw
  let u := r.2.placeUnit (r.2.badSource o) b.core r.1
  let s := r.2.startTest u.1 u.2
  if s.isClean b then (s.logError (Unit9.code u.1) 2 2 u.2 (some b)).rollback b
  else (((carry s).stopOp b.id o.id).logError (Unit9.code u.1) 2 3 u.2 (some b)).killBlock b.id Cause.poison.code

def State.modOp (s : State) (b : Nat) (q : BitVec 3) (op : Nat) (g : EngOp → EngOp) : State :=
  s.modBlock b (fun k => k.setQueue q (updWhere (fun o => o.id == op) g (k.queue q)))

/-- Add 1 to a completion word. -/
def State.countAt (s : State) (p : Place) : State := s.performAt p (bytesOf ((ofBytes 64 (s.getAt p 8) : DWord) + 1) 8)

/-- Signal the completion (R234) and take the operation off its queue. Bytes land at a barrier in two parts
of free size. The RED that counts on another device has scope .sys (log 70, DEDUCED). -/
def State.completeOp (s : State) (b : Block) (job : BitVec 16) (q : BitVec 3) (o : EngOp) : State :=
  let s := match o.done with
    | .none => s
    | .bar a =>
        let r := s.draw
        let n := if o.barBytes < 16 then o.barBytes else 16 * (r.1 % (o.barBytes / 16 + 1))
        let s1 := if n = 0 then r.2 else r.2.landBar b.id a n
        if o.barBytes = n then s1 else s1.landBar b.id a (o.barBytes - n)
    | .cnta a => s.countAt (.buf b.id .a a)
    | .cnt (.far d a) => s.engineRequest d (s.jobKey job) a .posted (fun t p => .redReq p t (BitVec.ofNat 52 a) 0 ⟨true, scSys⟩ 1)
    | .cnt p => s.countAt p
  s.modBlock b.id (fun k => k.setQueue q ((k.queue q).filter (fun x => x.id != o.id)))

/-- Write what the operation writes; remote destinations are sent. -/
def State.writeOp (s : State) (b : Block) (job : BitVec 16) (q : BitVec 3) (o : EngOp) : State :=
  let key := match s.job? job with | some j => (match getKey o.key j.keys with | some k => bytesOf k 64 | none => []) | none => []
  let s := if o.soils b.id then s.soil b.id else s
  let tags := o.moves.map (fun m => (m, s.spanTag m.src))
  let r := o.moves.foldl (fun (r : List (Move × List Byte) × State) m =>
    let x := r.2.moveBytes b.id o m
    if o.key == 0#16 || m.src.isNone then (r.1 ++ [(m, x.1)], x.2)
    else
      let d := x.2.drawN (x.1.length % 16)
      (r.1 ++ [(m, o.transform key m x.1 d.1)], d.2)) ([], s)
  let s := r.1.foldl (fun s x => match x.1.dst with
    | some y => match y.place with
      | .far d a => (farPieces y.place y.len).foldl (fun s p =>
          s.engineRequest d (s.jobKey job) p.2.1 (.engine b.id q.toNat o.id)
            (fun t h => .ewrite h t (BitVec.ofNat 52 p.2.1) ((x.2.drop (p.2.1 - a)).take p.2.2))) s
      | _ => s.landSpan y x.2
    | none => s) r.2
  s.tagSegs o tags

def moveToG (m : Move) : Bool := match m.dst with | some y => (match y.place with | .buf _ _ _ | .lwin _ _ _ => false | _ => true) | none => false

/-- The operation at the head of a queue runs on in a forced save: it writes g, or is a QFENCE that waits for nothing (R334). -/
def Block.headRuns (b : Block) (o : EngOp) : Bool :=
  o.moves.any moveToG || (o.fence.isSome && !o.waits.any (fun w => b.queues.toList.flatten.any (fun x => x.id == w)))

def execEnginePerform (block : Nat) (q : BitVec 3) (s : State) : Out :=
  match s.block? block with
  | none => .next s
  | some b =>
      match s.grid? b.grid, b.queue q with
      | some g, o :: _ =>
          let all := b.queues.toList.flatten
          if b.run == .saved || s.gangRestoring b || s.filling g.job || (b.saving && !b.headRuns o) || o.waits.any (fun w => all.any (fun x => x.id == w)) || 0 < o.outstanding then .next s
          else if o.wrote then .next (s.completeOp b g.job q o)
          else if (b.fsb ++ b.wire ++ b.bsb).any o.after? then
            .next (((s.releaseWhere block o.after?).arriveWhere block o.after?).publishHeld block o.after?)
          else if s.opPoisoned o then .next (s.engineError b o (fun s => s.carryPoison o.moves))
          else if !o.started && !o.sources.isEmpty then
            let s := o.sources.foldl (fun s p => s.engineRequest p.1 (s.jobKey g.job) p.2.1 (.engine block q.toNat o.id)
              (fun t h => .eread h t (BitVec.ofNat 52 p.2.1) p.2.2)) s
            .next (s.modOp block q o.id (fun x => { x with started := true, outstanding := o.sources.length }))
          else
            let s := s.writeOp b g.job q o
            if o.targets.isEmpty then .next (s.completeOp b g.job q o)
            else .next (s.modOp block q o.id (fun x => { x with started := true, wrote := true, outstanding := o.targets.length }))
      | _, _ => .next s

/-- A remote read or write of the head operation has had no answer for 100 µs: the block is killed (R235). -/
def execEngineRemoteTimeout (block : Nat) (q : BitVec 3) (s : State) : Out :=
  match s.block? block with
  | none => .next s
  | some b =>
      match b.queue q with
      | [] => .next s
      | o :: _ =>
          let late := s.fab.requests.any (fun r => r.purpose == .engine block q.toNat o.id && r.sent + 100000 ≤ s.time)
          if !late then .next s
          else .next ((s.stopOp block o.id).killBlock block Cause.fabricDelivery.code)

end Sys2Proof.Machine
end

