-- ==== Sys2Proof/Machine/Image.lean ====
section
/-! DEFINITION. The image of a saved block: its save area, and reading it back (09 R176; 18 R334 to R337, R340). -/

namespace Sys2Proof.Machine

open Sys2Proof

/-! ## The save area (R336, R337; log 20) -/

def le (n x : Nat) : List Byte := bytesOf (BitVec.ofNat (8 * n) x) n

/-- Zero bytes up to a multiple of 64. -/
def pad64 (bs : List Byte) : List Byte := bs ++ List.replicate ((64 - bs.length % 64) % 64) 0

def eachLane (n : Nat) (f : Nat → Nat) : List Byte := (List.range 32).flatMap (fun l => le n (f l))

/-- The park code of R112. -/
def Park.code : Park → Nat
  | .remoteReply => 1
  | .allowance => 2
  | .fullEmpty => 3
  | .barrier => 4
  | .page => 5
  | .pan => 6
  | .reclaim => 7

/-- The fragment whose lanes hold a vlane, else the first of the warp. -/
def ownerOf (fs : List Frag) (l : Nat) : Option Frag :=
  match fs.find? (fun f => f.mask.getLsbD l) with
  | some f => some f
  | none => fs.head?

def threadField (w : Warp) (l d : Nat) (g : Thread → Nat) : Nat := match w.threads.toList.getD l none with | some t => g t | none => d

/-- The return stacks: a depth for each lane, modulo 256 (log 20), then its eight entries, newest first. -/
def stackBytes (w : Warp) : List Byte :=
  eachLane 1 (fun l => threadField w l 0 (·.depth)) ++
    (List.range 32).flatMap (fun l => (List.range 8).flatMap (fun i => le 8 (threadField w l 0 (fun t => (t.stack.getD i 0).toNat))))

def fragBytes (k : Kernel) (f : Frag) : List Byte :=
  let park := match f.run with | .parked p _ => p.code | _ => 0
  pad64 (le 8 f.pc.toNat ++ le 4 f.mask.toNat ++ le 4 (park + 16 * b2n f.handler) ++ le 4 f.fflags.toNat ++ le 4 f.mflags.toNat)
    ++ (List.range k.sreg).flatMap (fun r => le 8 (f.getU (BitVec.ofNat 6 r)).toNat)

/-- A warp record. -/
def warpRecord (k : Kernel) (ql : Nat) (w : Warp) (fs : List Frag) : List Byte :=
  let own := fun (l : Nat) (g : Frag → Nat) => match ownerOf fs l with | some f => g f | none => 0
  let handler := (fs.findIdx? (·.handler)).getD 0xFF
  let t := w.frame
  pad64 ([1, BitVec.ofNat 8 fs.length, BitVec.ofNat 8 k.vreg, BitVec.ofNat 8 k.sreg, BitVec.ofNat 8 k.treg, BitVec.ofNat 8 k.areg, BitVec.ofNat 8 handler, 0] ++ le 4 ql)
    ++ eachLane 2 (fun l => threadField w l 0xFFFF (·.tid))
    ++ pad64 ([w.tvec, t.tpc, t.tcause, t.tmask, t.taddr, t.tinfo, t.tparent, t.tsib, w.dctl.setWidth 64, w.mstfail].flatMap (fun x => le 8 x.toNat))
    ++ eachLane 4 (fun l => threadField w l 0 (·.xen.toNat)) ++ eachLane 4 (fun l => threadField w l 0 (·.tsub.toNat))
    ++ eachLane 4 (fun l => threadField w l 0 (·.tlsbase.toNat))
    ++ pad64 ((List.range 7).flatMap (fun r => le 4 (maskOf (fun l => own l (fun f => b2n (bit (f.getP (BitVec.ofNat 3 r)) l)) == 1)).toNat))
    ++ (List.range 8).flatMap (fun k => le 8 (w.pins.toList.getD k 0 ||| w.raw.toList.getD k 0).toNat)
    ++ pad64 (stackBytes w)
    ++ fs.flatMap (fragBytes k)
    ++ (List.range k.vreg).flatMap (fun r => eachLane 4 (fun l => own l (fun f => (f.getV (BitVec.ofNat 6 r) l).toNat)))
    ++ (List.range k.treg).flatMap (fun r => eachLane 64 (fun l => own l (fun f => ((f.getT (BitVec.ofNat 2 r)).toList.getD l 0).toNat)))
    ++ (List.range k.areg).flatMap (fun r => (List.range 32).flatMap (fun l =>
        eachLane 4 (fun j => own l (fun f => (((f.getA (BitVec.ofNat 2 r)).toList.getD l zeroWords).toList.getD j 0).toNat))))
    ++ pad64 ((List.range 32).flatMap (fun l => w.lwin.getN (lwinAddr l 0) ql))

/-- A bit for each granule, lowest first. -/
def fullBytes (full : List Nat) (bytes : Nat) : List Byte :=
  (List.range (bytes / 128)).map (fun i => BitVec.ofNat 8 ((List.range 8).foldl (fun m j => if full.contains (8 * i + j) then m + 2 ^ j else m) 0))

/-- The bytes of the W quota as they lie in the save area at `va`: sealed segments are encrypted. -/
def wBytes (b : Block) (keys : List (BitVec 16 × BitVec 512)) (va : Nat) : List Byte :=
  (List.range b.quota.qw).flatMap (fun i =>
    let bs := b.w.getN (65536 * i) 65536
    match (b.segs.getD i Segment.blank).sealedBy with
    | none => bs
    | some h =>
        let key := match getKey h keys with | some k => bytesOf k 64 | none => []
        (List.range 1024).flatMap (fun j => xtsUnit false key (va + 65536 * i + 64 * j) ((bs.drop (64 * j)).take 64)))

def phaseBytes (p : Phase) : List Byte := le 4 p.arrivals ++ le 4 p.n

def filedBytes (x : Filed) : List Byte :=
  let t := x.thread
  le 4 t.tid ++ x.v.flatMap (fun y => le 4 y.toNat) ++ le 4 x.p.toNat ++ le 4 t.xen.toNat ++ le 4 t.tsub.toNat ++ le 8 t.tlsbase.toNat
    ++ le 8 t.depth ++ (List.range 8).flatMap (fun i => le 8 (t.stack.getD i 0).toNat)

def panBytes (p : Pan) : List Byte :=
  le 8 p.key.toNat ++ le 4 p.n ++ le 4 p.m ++ le 4 p.threads.length
    ++ p.u.flatMap (fun y => le 8 y.toNat) ++ le 8 p.tvec.toNat ++ le 4 (p.fflags.toNat + 64 * p.mflags.toNat) ++ p.threads.flatMap filedBytes

/-- An unpublished bound store: its address, a frame's by the page's VA, its sync object and its byte. -/
def boundBytes (p : Place) (x : HistStore) : List Byte :=
  le 8 (match p with | .hbm a => a | .frame _ g o => g.toNat + o | _ => 0) ++ le 8 x.sync.toNat ++ le 8 x.value.toNat

/-- The address by which the image names a span: of the buffer it lies in, else its VA. -/
def Span.imgAddr (x : Span) : Nat := match x.place with | .buf _ _ a => a | _ => x.va.toNat

def opBytes (o : EngOp) : List Byte := o.moves.flatMap (fun m =>
  le 8 ((m.src.map Span.imgAddr).getD 0) ++ le 8 ((m.dst.map Span.imgAddr).getD 0) ++ le 8 m.len)

/-- The replies of a fragment's ATOMs that were out at the save, for each lane: whether one has come, its STATUS and the old
value (R334; log 20). -/
def replyBytes (f : Frag) : List Byte := (List.range 32).flatMap (fun l => match f.replies.find? (fun r => r.lane == l) with
  | some r => le 4 1 ++ le 4 r.status.toNat ++ le 8 (natOfBytes r.bytes)
  | none => le 16 0)

/-- The stores of a block that are bound and unpublished, with their places. -/
def State.unpublished (s : State) (b : Block) : List (Place × HistStore) :=
  s.sync.histories.flatMap (fun h => (h.stores.filter (fun x => x.block == b.id && x.tags.isEmpty)).map (fun x => (h.place, x)))

/-- Those of them that are held in the block's store buffer (log 68, DEDUCED): the VA of each, its sync object and its bytes. -/
def heldBytes (b : Block) : List Byte :=
  b.bsb.flatMap (fun e => e.pieces.flatMap (fun x => (List.range x.bytes.length).flatMap (fun i =>
    le 8 (x.va.toNat + i) ++ le 8 (x.sync.getD 0).toNat ++ le 8 (x.bytes.getD i 0).toNat)))

/-- The block record, from the header to its sections, and after these the replies of ATOMs; `va` is where it starts. -/
def blockRecord (s : State) (b : Block) (warps : Nat) (va : Nat) (keys : List (BitVec 16 × BitVec 512)) : List Byte :=
  let q := b.quota
  let ps := s.blockPans b.id
  let first := pad64 (le 4 warps ++ le 4 ps.length ++ le 4 q.qa ++ le 4 q.qw ++ le 4 q.qc ++ le 4 q.ql ++ le 4 q.qpan)
    ++ b.a.getN 0 (q.qa * 4096) ++ pad64 (fullBytes b.fullA (q.qa * 4096))
  let gbars := match s.grid? b.grid with
    | some g => if b.index % g.launch.gang = 0 then (List.range 4).flatMap (fun i => phaseBytes (s.phase b (.gbar i))) else []
    | none => []
  first ++ wBytes b keys (va + first.length)
    ++ pad64 (b.segs.flatMap (fun g => [g.tag.setWidth 8, BitVec.ofNat 8 (b2n g.sealedBy.isSome)]) ++ fullBytes b.fullW (q.qw * 65536))
    ++ b.c.getN 0 (q.qc * 4096)
    ++ pad64 (b.bars.toList.flatMap phaseBytes ++ gbars)
    ++ (List.range 64).flatMap (fun i => match b.binds.find? (fun x => x.entry == i) with
        | some x => le 8 x.base.toNat ++ le 8 x.length ++ le 8 x.sync.toNat ++ le 8 1
        | none => List.replicate 32 0)
    ++ (let u := (s.unpublished b).flatMap (fun x => boundBytes x.1 x.2) ++ heldBytes b
        pad64 (le 8 (u.length / 24) ++ u))
    ++ pad64 (b.queues.toList.flatMap (fun l => le 8 l.length) ++ b.queues.toList.flatten.flatMap opBytes)
    ++ pad64 (ps.flatMap panBytes) ++ ((s.blockWarps b.id).flatMap (fun w => s.warpFrags w.id)).flatMap replyBytes

/-- Write bytes into the job's save region, line by line, through its translations. -/
def State.writeArea (s : State) (job : BitVec 16) (va : DWord) (bs : List Byte) : State :=
  (List.range (ceilDiv bs.length 64)).foldl (fun s i =>
    let a := va + BitVec.ofNat 64 (64 * i)
    match s.leaf? job a with
    | some lf => match lf.place a with
      | .hbm p => s.performAt (.hbm p) ((bs.drop (64 * i)).take 64)
      | _ => s
    | none => s) s

/-! ## Reading an image back (R335, R340) -/

/-- The bytes of an image through the job's translations, none where one of its lines has no place in HBM any more. -/
def State.readArea (s : State) (job : BitVec 16) (va : DWord) (n : Nat) : Option (List Byte) :=
  (List.range (ceilDiv n 64)).foldl (fun (acc : Option (List Byte)) i =>
    let a := va + BitVec.ofNat 64 (64 * i)
    match acc, s.leaf? job a with
    | some bs, some lf => match lf.place a with
      | .hbm p => some (bs ++ s.mem.hbm.getN p 64)
      | _ => none
    | _, _ => none) (some [])

/-- A field of an image, least significant byte first. -/
def imgField (bs : List Byte) (off n : Nat) : Nat := natOfBytes ((bs.drop off).take n)

/-- A thread as the warp record gives it: %xen, %tsub, the low half of %tlsbase and the hardware entries of the return stack. The
depth has one byte there; what lies above it comes back from the model's copy (log 20, DESIGN CHOICE). -/
def imgThread (bs : List Byte) (l : Nat) (t : Thread) : Thread :=
  let depth := t.depth / 256 * 256 + imgField bs (0x300 + l) 1
  { t with
    xen := BitVec.ofNat 32 (imgField bs (0x100 + 4 * l) 4) &&& 0x1F#32, tsub := BitVec.ofNat 32 (imgField bs (0x180 + 4 * l) 4)
    tlsbase := BitVec.ofNat 64 (t.tlsbase.toNat / 2 ^ 32 * 2 ^ 32 + imgField bs (0x200 + 4 * l) 4)
    depth, stack := (List.range (min depth 8)).map (fun i => BitVec.ofNat 64 (imgField bs (0x320 + 64 * l + 8 * i) 8)) }

/-- Where the vector registers of a record start. -/
def imgX (k : Kernel) (frags : Nat) : Nat := 0xB40 + frags * (64 + 8 * k.sreg)

/-- The warp as its record gives it; its pins come back from the pin tables (R269), and a k register that nothing has written
reads as the record says (R109). -/
def imgWarp (bs : List Byte) (k : Kernel) (ql frags : Nat) (w : Warp) : Warp :=
  let d := fun (i : Nat) => BitVec.ofNat 64 (imgField bs (0x80 + 8 * i) 8)
  let win := imgX k frags + 128 * k.vreg + 2048 * k.treg + 4096 * k.areg
  { w with
    tvec := d 0, frame := { tpc := d 1, tcause := d 2, tmask := d 3, taddr := d 4, tinfo := d 5, tparent := d 6, tsib := d 7 }
    dctl := bits (d 8) 0 3, mstfail := d 9
    raw := Vector.ofFn (fun (i : Fin 8) => if w.raw[i] == 0#64 then 0 else BitVec.ofNat 64 (imgField bs (0x2C0 + 8 * i.val) 8))
    threads := Vector.ofFn (fun (l : Fin 32) => (w.threads[l]).map (imgThread bs l.val))
    lwin := (List.range 32).foldl (fun m l => Memory.putN m (lwinAddr l 0) ((bs.drop (win + l * ql)).take ql)) [] }

/-- The `i`-th fragment as the record gives it; registers that the kernel does not have keep what they hold. -/
def imgFrag (bs : List Byte) (k : Kernel) (frags i : Nat) (f : Frag) : Frag :=
  let e := 0xB40 + i * (64 + 8 * k.sreg)
  let x := imgX k frags
  let y := x + 128 * k.vreg
  let z := y + 2048 * k.treg
  { f with
    pc := BitVec.ofNat 64 (imgField bs e 8), handler := imgField bs (e + 12) 4 / 16 % 2 == 1
    fflags := BitVec.ofNat 6 (imgField bs (e + 16) 4) &&& 0x1F#6, mflags := BitVec.ofNat 6 (imgField bs (e + 20) 4) &&& 0x37#6
    u := Vector.ofFn (fun (r : Fin 64) => if r.val < k.sreg then BitVec.ofNat 64 (imgField bs (e + 64 + 8 * r.val) 8) else f.u[r])
    p := Vector.ofFn (fun (r : Fin 7) => BitVec.ofNat 32 (imgField bs (0x280 + 4 * r.val) 4))
    v := Vector.ofFn (fun (r : Fin 64) => if r.val < k.vreg then
      Vector.ofFn (fun (l : Fin 32) => BitVec.ofNat 32 (imgField bs (x + 128 * r.val + 4 * l.val) 4)) else f.v[r])
    t := Vector.ofFn (fun (r : Fin 4) => if r.val < k.treg then
      Vector.ofFn (fun (l : Fin 32) => BitVec.ofNat 512 (imgField bs (y + 2048 * r.val + 64 * l.val) 64)) else f.t[r])
    acc := Vector.ofFn (fun (r : Fin 4) => if r.val < k.areg then
      Vector.ofFn (fun (l : Fin 32) => Vector.ofFn (fun (j : Fin 32) => BitVec.ofNat 32 (imgField bs (z + 4096 * r.val + 128 * l.val + 4 * j.val) 4)))
      else f.acc[r]) }

/-- The granules whose bits are set in some bytes of full/empty bits. -/
def imgFull (bs : List Byte) : List Nat := (List.range (8 * bs.length)).filter (fun i => bit (bs.getD (i / 8) 0) (i % 8))

/-- Where the sections of a block record start (R337): A's bits, W, W's tags and bits, C, the barriers, the bindings, the
unpublished stores, the engines, the pans. -/
structure ImgAt where
  fullA : Nat
  w : Nat
  segs : Nat
  c : Nat
  bars : Nat
  binds : Nat
  bound : Nat
  ops : Nat
  pans : Nat
deriving DecidableEq, Repr

def up64 (n : Nat) : Nat := ceilDiv n 64 * 64

/-- The sections of a block's record; `first` says that it holds the phases of its gang's GBARs. -/
def imgAt (bs : List Byte) (b : Block) (first : Bool) : ImgAt :=
  let na := b.quota.qa * 4096
  let w := 64 + na + up64 (na / 128)
  let segs := w + b.quota.qw * 65536
  let c := segs + up64 (2 * b.segs.length + b.quota.qw * 512)
  let bars := c + b.quota.qc * 4096
  let binds := bars + up64 (128 + (if first then 32 else 0))
  let bound := binds + 2048
  let ops := bound + up64 (8 + 24 * imgField bs bound 8)
  { fullA := 64 + na, w, segs, c, bars, binds, bound, ops
    pans := ops + up64 (64 + 24 * (b.queues.toList.flatten.map (fun o => o.moves.length)).sum) }

def imgPhase (bs : List Byte) (off : Nat) : Phase := { arrivals := imgField bs off 4, n := imgField bs (off + 4) 4 }

/-- A segment of W as the record at `va` gives it: one that is sealed is decrypted (R176). -/
def imgSegment (bs : List Byte) (b : Block) (keys : List (BitVec 16 × BitVec 512)) (va off i : Nat) : List Byte :=
  let x := (bs.drop (off + 65536 * i)).take 65536
  match (b.segs.getD i Segment.blank).sealedBy with
  | none => x
  | some h =>
      let key := match getKey h keys with | some k => bytesOf k 64 | none => []
      (List.range 1024).flatMap (fun j => xtsUnit true key (va + off + 65536 * i + 64 * j) ((x.drop (64 * j)).take 64))

/-- A span that the image names by another address lies there. -/
def State.imgSpan (s : State) (job : BitVec 16) (x : Span) (a len : Nat) : Span :=
  if a = x.imgAddr then { x with len }
  else match x.place with
  | .buf k u _ => { x with place := .buf k u a, len }
  | _ =>
      let va := BitVec.ofNat 64 a
      { x with va, len, place := (match s.leaf? job va with | some lf => lf.place va | none => x.place) }

/-- The moves of an operation as the image gives them from an offset on. -/
def State.imgMoves (s : State) (job : BitVec 16) (bs : List Byte) (off : Nat) (ms : List Move) : List Move :=
  (List.range ms.length).filterMap (fun i => ms[i]?.map (fun m =>
    let e := off + 24 * i
    let n := imgField bs (e + 16) 8
    let one := fun (x : Span) (a : Nat) => s.imgSpan job x a (if x.len = m.len then n else min x.len n)
    { src := m.src.map (fun x => one x (imgField bs e 8)), dst := m.dst.map (fun x => one x (imgField bs (e + 8) 8)), len := n : Move }))

/-- The engine queues of a block: the operations that its counts leave, with the moves of the image. -/
def State.imgQueues (s : State) (job : BitVec 16) (bs : List Byte) (off : Nat) (b : Block) : Vector (List EngOp) 8 :=
  let all := b.queues.toList.flatten
  let place := fun (o : EngOp) => off + 64 + 24 * ((all.takeWhile (fun x => x.id != o.id)).map (fun x => x.moves.length)).sum
  Vector.ofFn (fun (q : Fin 8) => ((b.queues[q]).take (imgField bs (off + 8 * q.val) 8)).map (fun o => { o with moves := s.imgMoves job bs (place o) o.moves }))

/-- A filed thread as the image gives it at an offset; what names the thread stays. -/
def imgFiled (bs : List Byte) (off n : Nat) (x : Filed) : Filed :=
  let e := off + 4 + 4 * n
  let depth := imgField bs (e + 20) 8
  { x with
    v := (List.range n).map (fun r => BitVec.ofNat 32 (imgField bs (off + 4 + 4 * r) 4)), p := BitVec.ofNat 7 (imgField bs e 4)
    thread := { x.thread with
      xen := BitVec.ofNat 32 (imgField bs (e + 4) 4) &&& 0x1F#32, tsub := BitVec.ofNat 32 (imgField bs (e + 8) 4)
      tlsbase := BitVec.ofNat 64 (imgField bs (e + 12) 8), depth
      stack := (List.range (min depth 8)).map (fun i => BitVec.ofNat 64 (imgField bs (e + 28 + 8 * i) 8)) } }

/-- A pan as the image gives it at an offset, and the offset after it. -/
def imgPan (bs : List Byte) (off : Nat) (p : Pan) : Pan × Nat :=
  let n := imgField bs (off + 8) 4
  let m := imgField bs (off + 12) 4
  let e := off + 20 + 8 * m
  let flags := imgField bs (e + 8) 4
  let size := 4 + 4 * n + 92
  ({ p with
     key := BitVec.ofNat 64 (imgField bs off 8), n, m, u := (List.range m).map (fun i => BitVec.ofNat 64 (imgField bs (off + 20 + 8 * i) 8))
     tvec := BitVec.ofNat 64 (imgField bs e 8), fflags := BitVec.ofNat 6 flags &&& 0x1F#6, mflags := BitVec.ofNat 6 (flags / 64) &&& 0x37#6
     threads := (List.range p.threads.length).filterMap (fun i => p.threads[i]?.map (imgFiled bs (e + 12 + size * i) n)) },
   e + 12 + size * p.threads.length)

/-- The buffers, tags, seals, barriers, bindings and engines of a block as its record at `va` gives them. -/
def State.imgBlock (s : State) (job : BitVec 16) (keys : List (BitVec 16 × BitVec 512)) (bs : List Byte) (va : Nat) (at' : ImgAt) (b : Block) : Block :=
  let ns := b.segs.length
  { b with
    a := Memory.putN [] 0 ((bs.drop 64).take (b.quota.qa * 4096)), fullA := imgFull ((bs.drop at'.fullA).take (b.quota.qa * 32))
    w := (List.range b.quota.qw).foldl (fun m i => Memory.putN m (65536 * i) (imgSegment bs b keys va at'.w i)) []
    fullW := imgFull ((bs.drop (at'.segs + 2 * ns)).take (b.quota.qw * 512))
    segs := (List.range ns).map (fun i => { tag := BitVec.ofNat 6 (imgField bs (at'.segs + 2 * i) 1)
                                            sealedBy := if imgField bs (at'.segs + 2 * i + 1) 1 % 2 = 0 then none else (b.segs.getD i Segment.blank).sealedBy })
    c := Memory.putN [] 0 ((bs.drop at'.c).take (b.quota.qc * 4096))
    bars := Vector.ofFn (fun (i : Fin 16) => imgPhase bs (at'.bars + 8 * i.val))
    binds := (List.range 64).filterMap (fun i =>
      let e := at'.binds + 32 * i
      if imgField bs (e + 24) 8 = 0 then none
      else some { entry := i, base := BitVec.ofNat 64 (imgField bs e 8), length := imgField bs (e + 8) 8, sync := BitVec.ofNat 64 (imgField bs (e + 16) 8) })
    queues := s.imgQueues job bs at'.ops b }

/-- The replies that the image gives for a fragment from an offset on. -/
def imgReplies (bs : List Byte) (off : Nat) (f : Frag) : Frag :=
  if f.relSent then f
  else { f with replies := f.replies.map (fun r =>
    if imgField bs (off + 16 * r.lane) 4 = 0 then r
    else { r with status := BitVec.ofNat 8 (imgField bs (off + 16 * r.lane + 4) 4), bytes := bytesOf (BitVec.ofNat 64 (imgField bs (off + 16 * r.lane + 8) 8)) 8 }) }

/-- The image of a block's area, where it has one and its lines have places still. -/
def State.image? (s : State) (b : Block) (job : BitVec 16) : Option (List Byte) :=
  if b.area == 0#64 then none else s.readArea job b.area b.areaLen

/-- Bring a block's registers, buffers, barriers, bindings, engines and pans back from its save image, where software may have
changed them since (R340); what no field of R336 and R337 defines comes back from the model's own copy (log 20). -/
def State.readImage (s : State) (b : Block) (job : BitVec 16) : State :=
  match s.image? b job, s.grid? b.grid with
  | some img, some g =>
      let keys := match s.job? job with | some j => j.keys | none => []
      let r := (s.blockWarps b.id).foldl (fun (r : State × Nat) w =>
        let fs := r.1.warpFrags w.id
        let bs := img.drop r.2
        let s := r.1.setWarp (imgWarp bs b.kernel b.quota.ql fs.length w)
        let s := (List.range fs.length).foldl (fun s i => match fs[i]? with
          | some f => s.setFrag (imgFrag bs b.kernel fs.length i f)
          | none => s) s
        (s, r.2 + (warpRecord b.kernel b.quota.ql w fs).length)) (s, 0)
      let bs := img.drop r.2
      let first := b.index % g.launch.gang = 0
      let at' := imgAt bs b first
      let s := r.1.modBlock b.id (r.1.imgBlock job keys bs (b.area.toNat + r.2) at')
      let s := if first then (List.range 4).foldl (fun s i => s.putPhase b (.gbar i) (imgPhase bs (at'.bars + 128 + 8 * i))) s else s
      let p := (s.blockPans b.id).foldl (fun (r : State × Nat) p => let x := imgPan bs r.2 p; (r.1.setPan x.1, x.2)) (s, at'.pans)
      let from' := at'.pans + up64 (p.2 - at'.pans)
      let fs := (p.1.blockWarps b.id).flatMap (fun w => p.1.warpFrags w.id)
      (List.range fs.length).foldl (fun s i => match fs[i]? with | some f => s.setFrag (imgReplies bs (from' + 512 * i) f) | none => s) p.1
  | _, _ => s

/-- The image of a block as its state stands, to lie at `va`. -/
def State.imageOf (s : State) (b : Block) (job : BitVec 16) (va : Nat) : List Byte :=
  let keys := match s.job? job with | some j => j.keys | none => []
  let ws := s.blockWarps b.id
  let head := ws.flatMap (fun w => warpRecord b.kernel b.quota.ql w (s.warpFrags w.id))
  head ++ blockRecord s b ws.length (va + head.length) keys

/-- Whether a block's image stands for it: it is saved, or not restored yet. -/
def Block.imaged (b : Block) : Bool := (b.run == .saved || b.restoring) && b.area != 0#64

/-- The state with a block as its save area gives it, where its image stands for it. -/
def State.imageRead (s : State) (block : Nat) : State :=
  match s.block? block with
  | none => s
  | some b => match s.grid? b.grid with
    | none => s
    | some x => if b.imaged then s.readImage b x.job else s

/-- Change a block: in its save area too, where its image stands for it (R334, R340; log 20). -/
def State.throughImage (s : State) (block : Nat) (g : State → State) : State :=
  match s.block? block with
  | none => g s
  | some b => match s.grid? b.grid with
    | none => g s
    | some x =>
        if !(b.imaged && (s.image? b x.job).isSome) then g s
        else
          let s := g (s.imageRead block)
          match s.block? block with
          | some b => s.writeArea x.job b.area (s.imageOf b x.job b.area.toNat)
          | none => s

end Sys2Proof.Machine
end

