-- ==== Sys2Proof/Machine/Fabric.lean ====
section
/-! DEFINITION. Packets of the REQ and RSP classes as they arrive, delivery failures and returned flits
(12 R259; 14 R290 to R300, R305). -/

namespace Sys2Proof.Machine

open Sys2Proof

/-- TMO of a group in nanoseconds (R200). -/
def Group.tmoNs (g : Group) : Nat := (if g.tmo = 0 then 2000 else g.tmo) * 1000

/-! ## Ingress (R290, R293, R297, R300) -/

def returnsZero (dev : BitVec 11) : Returns := { dev, req := 0, page := 0, delReq := 0, delRsp := 0, delPage := 0, since := none }

/-- The report to a peer, changed. -/
def State.modReturns (s : State) (dev : BitVec 11) (g : Returns → Returns) : State :=
  s.modFab fun y =>
    if y.returns.any (fun r => r.dev == dev) then { y with returns := updWhere (fun r => r.dev == dev) g y.returns }
    else { y with returns := y.returns ++ [g (returnsZero dev)] }

/-- A packet has arrived and frees its buffer: it is counted and its flits are to be returned. -/
def Returns.arrive (r : Returns) (cls : BitVec 2) (flits now : Nat) : Returns :=
  let r := { r with since := some (r.since.getD now) }
  match cls.toNat with
  | 0 => { r with req := r.req + flits, delReq := r.delReq + 1 }
  | 1 => { r with delRsp := r.delRsp + 1 }
  | 2 => { r with page := r.page + flits, delPage := r.delPage + 1 }
  | _ => r

/-- The key stands in the membership table of the port; every table admits key 0. -/
def State.admits (s : State) (p : Arrival) : Bool :=
  p.port.toNat < 18 && (p.key == 0#32 || s.fab.members.any (fun m => m.1 == p.port.toNat && m.2.contains p.key))

def State.dropPacket (s : State) : State := s.modFab fun y => { y with dropped := y.dropped + 1 }

/-- The header cannot stand at the port where it arrives: a reserved field or code, a LEN that is not what the packet's
kind carries, at most 4 (R290, R291). A restricted link drops no packet that is on it already (R296). -/
def malformed (p : Arrival) (data : Nat) : Bool := p.bad || 4 < p.len.toNat || p.len.toNat != data

/-- The class reaches main memory, which takes no access yet (R372). -/
def State.shut (s : State) (cls : BitVec 2) : Bool := (cls == clsReq || cls == clsPage) && !s.memoryOpen

/-- Take a packet with `data` data flits in: drop it, or credit the flits it returns and go on. MGT packets return none (log 46, DEDUCED);
one that comes while its class is shut is dropped (log 87, DESIGN CHOICE). -/
def State.ingress (s : State) (p : Arrival) (cls : BitVec 2) (data : Nat) (k : State → State) : Out :=
  let s := if cls == clsMgt then s else s.modReturns p.src (fun r => r.arrive cls (1 + data) s.time)
  if malformed p data || !s.admits p || s.shut cls then .next s.dropPacket
  else .next (k (s.returnFlits p.src p.aret.toNat))

/-- The job of a key. -/
def State.keyJob? (s : State) (key : BitVec 32) : Option Job := s.work.jobs.find? (fun j => j.key == key)

/-! ## Requests at their home (R291, R305) -/

/-- LOCAL of a physical address (R181). -/
def localOf (a : BitVec 52) : Nat := a.toNat % 2 ^ 40

/-- A byte of the range lies in a frame that a collective holds (R305). -/
def State.heldAt (s : State) (p : Place) (n : Nat) : Bool :=
  s.coll.ranges.any (fun r => r.coll.isSome && r.spans.any (fun x => x.place.overlap x.len p n))

/-- The STATUS of a request at its home. -/
def State.homeStatus (s : State) (a n : Nat) (reads : Bool) : BitVec 8 :=
  if s.capacity < a + n then 3
  else if s.heldAt (.hbm a) n then 2
  else if reads && s.isPoisoned (.hbm a) n then 1
  else 0

def State.reply (s : State) (p : Arrival) (mk : Arrival → Instr) : State := s.send p.src clsRsp p.key mk

/-- ACK or NACK. -/
def State.answer (s : State) (p : Arrival) (tag : BitVec 12) (st : BitVec 8) : State :=
  s.reply p (fun h => if st == 0#8 then .ack h tag else .nack h tag st)

/-- Bytes at their home for a reader of another device. -/
def State.homeBytes (s : State) (a n : Nat) : List Byte × State := s.agentBytes 0 (.hbm a) n

def setLines (m : BitVec 4) : List Nat := (List.range 4).filter (fun i => bit m i)

/-- A request that is refused here is answered by the reply of its kind, RDATA or AREPLY, with its STATUS and no data, not by a
NACK (R291; log 85, DEDUCED). -/
def execRead (p : Arrival) (tag : BitVec 12) (addr : BitVec 52) (lines : BitVec 4) (s : State) : Out :=
  s.ingress p clsReq 0 fun s =>
    let a := localOf addr / 256 * 256
    let ls := setLines lines
    let sts := ls.map (fun i => s.homeStatus (a + 64 * i) 64 true)
    match sts.find? (· != 0#8) with
    | some st => s.reply p (fun h => .rdata h tag st [])
    | none =>
        let r := ls.foldl (fun (r : List Byte × State) i => let x := r.2.homeBytes (a + 64 * i) 64; (r.1 ++ x.1, x.2)) ([], s)
        r.2.reply p (fun h => .rdata h tag 0 r.1)

/-- Write masked bytes from a base. -/
def State.writeMasked (s : State) (base : Place) (bs : List (Nat × Byte)) : State :=
  (bs.foldl (fun s (x : Nat × Byte) => s.performAt (base.at x.1) [x.2]) s).clearWritten (bs.map (fun x => (base.at x.1, 1)))

/-- The frame of an MST copy at this member (R229): a local PRIVATE page with W, whole in one page. -/
def State.copyPlace? (s : State) (key : BitVec 32) (va : DWord) (n : Nat) : Option Place :=
  match s.keyJob? key with
  | none => none
  | some j =>
      match s.leaf? j.num va with
      | none => none
      | some lf =>
          if pteW lf.pte && pteShst lf.pte == shPrivate && va.toNat + n ≤ lf.page.toNat + lf.size then
            match lf.place va with | .hbm a => some (.hbm a) | _ => none
          else none

def execWrite (p : Arrival) (tag : BitVec 12) (addr : BitVec 52) (bytes : List (Nat × Byte)) (mstVa : Option DWord) (s : State) : Out :=
  s.ingress p clsReq (dataFlits (bytes.map (·.1))) fun s =>
    let n := (bytes.map (·.1)).foldl max 0 + 1
    match mstVa with
    | none =>
        let a := localOf addr / 256 * 256
        let st := (bytes.map (fun x => s.homeStatus (a + x.1) 1 false)).find? (· != 0#8)
        (match st with | some _ => s | none => s.writeMasked (.hbm a) bytes).answer p tag (st.getD 0)
    | some va =>
        match s.copyPlace? p.key va n with
        | none => s.answer p tag 4
        | some q => if s.heldAt q n then s.answer p tag 2 else (s.writeMasked q bytes).answer p tag 0

/-- The scope decides only which fences of the requester order it (R227). -/
def execAtomReq (p : Arrival) (tag : BitVec 12) (addr : BitVec 52) (aop : BitVec 4) (form : AtomForm) (x y : DWord) (s : State) : Out :=
  s.ingress p clsReq 1 fun s =>
    let a := localOf addr
    let st := s.homeStatus a (if form.wide then 8 else 4) true
    if st != 0#8 then s.reply p (fun h => .areply h tag st 0)
    else
      let r := s.atomicAt (.hbm a) aop form.wide x y
      r.2.reply p (fun h => .areply h tag 0 r.1)

def execRedReq (p : Arrival) (tag : BitVec 12) (addr : BitVec 52) (aop : BitVec 4) (form : AtomForm) (x : DWord) (s : State) : Out :=
  s.ingress p clsReq 1 fun s =>
    let a := localOf addr
    let st := s.homeStatus a (if form.wide then 8 else 4) true
    (if st != 0#8 then s else (s.atomicAt (.hbm a) aop form.wide x 0).2).answer p tag st

def execRedmReq (p : Arrival) (tag : BitVec 12) (addr : BitVec 52) (aop : BitVec 4) (words : List (Nat × Word)) (s : State) : Out :=
  s.ingress p clsReq (dataFlits (words.map (·.1))) fun s =>
    let a := localOf addr / 256 * 256
    let st := (words.map (fun x => s.homeStatus (a + x.1) 4 true)).find? (· != 0#8)
    (match st with
     | some _ => s
     | none => words.foldl (fun (s : State) (x : Nat × Word) => s.redmAt (.hbm (a + x.1)) aop x.2) s).answer p tag (st.getD 0)

def execEread (p : Arrival) (tag : BitVec 12) (addr : BitVec 52) (count : Nat) (s : State) : Out :=
  s.ingress p clsReq 0 fun s =>
    let a := localOf addr
    let st := s.homeStatus a count true
    if st != 0#8 then s.reply p (fun h => .rdata h tag st [])
    else let r := s.homeBytes a count; r.2.reply p (fun h => .rdata h tag 0 r.1)

def execEwrite (p : Arrival) (tag : BitVec 12) (addr : BitVec 52) (bytes : List Byte) (s : State) : Out :=
  s.ingress p clsReq (ceilDiv bytes.length 64) fun s =>
    let a := localOf addr
    let st := s.homeStatus a bytes.length false
    (if st != 0#8 then s else s.performAt (.hbm a) bytes).answer p tag st

/-! ## Replies (R291, R298) -/

def State.request? (s : State) (dev : BitVec 11) (tag : BitVec 12) : Option Request :=
  s.fab.requests.find? (fun r => r.dst == dev && r.tag == tag)

def State.dropRequest (s : State) (r : Request) : State := s.modFab fun y => { y with requests := y.requests.erase r }

/-- Clear a fragment that waits for replies once every request of it is answered. -/
def State.wakeReplied (s : State) (frag : Nat) : State :=
  if s.awaits frag then s
  else s.modFrag frag (fun f => match f.run with | .parked .remoteReply _ => { f with run := .ready } | _ => f)

/-- The block of a fragment. -/
def State.blockOf? (s : State) (frag : Nat) : Option Nat := ((s.frag? frag).bind (fun f => s.warp? f.warp)).map (·.block)

/-- Keep replies with their fragment: in the save area too, where its block is saved (R334). -/
def State.addReplies (s : State) (frag : Nat) (rs : List Reply) : State :=
  let keep := fun (s : State) => s.modFrag frag (fun f => { f with replies := f.replies ++ rs })
  (match s.blockOf? frag with | some b => s.throughImage b keep | none => keep s).wakeReplied frag

/-- The replies, one for each line, that a packet's lines give. -/
def lineReplies (r : Request) (st : BitVec 8) (bytes : List Byte) : List Reply :=
  let ls := setLines r.lines
  (List.range ls.length).map (fun i =>
    { dev := r.dst, addr := r.addr + 64 * ls.getD i 0, lane := 0, status := st, bytes := (bytes.drop (64 * i)).take 64 })

/-- An engine request is answered: by its bytes, by an acknowledgement, or by a refusal (R235, R348). -/
def State.engineAnswer (s : State) (r : Request) (block queue op : Nat) (st : BitVec 8) (bytes : List Byte) : State :=
  match s.block? block with
  | none => s
  | some b =>
      let q := BitVec.ofNat 3 queue
      match (b.queue q).find? (fun o => o.id == op) with
      | none => s
      | some o =>
          if st == 0#8 then
            s.modOp block q op (fun x => { x with
              fetched := if bytes.isEmpty then x.fetched else x.fetched ++ [(farKey r.dst r.addr, bytes)]
              outstanding := x.outstanding - 1 })
          else if st == 1#8 then s.engineError b o (fun s => s.carryFar o.moves r.dst r.addr)
          else (s.stopOp block op).killBlock block Cause.fabricDelivery.code

/-- A read of a collective's source on another device is answered (R303); a refusal marks it. -/
def State.collFetched (s : State) (sgid : BitVec 12) (pair : Nat) (dev : BitVec 11) (addr : Nat) (st : BitVec 8) (bytes : List Byte) : State :=
  s.modColl fun y => { y with colls := updWhere (fun k => k.sgid == sgid && k.pair == pair) (fun k => { k with
    reading := k.reading.map (· - 1), refused := k.refused || st != 0#8, fetched := k.fetched ++ [(farKey dev addr, bytes)] }) y.colls }

/-- A write of a landing on another device is answered (R306, R307). -/
def State.collWritten (s : State) (sgid : BitVec 12) (pair : Nat) (st : BitVec 8) : State :=
  s.modColl fun y => { y with colls := updWhere (fun k => k.sgid == sgid && k.pair == pair) (fun k => { k with
    landing := k.landing.map (fun x => (x.1, x.2.1, x.2.2 - 1)), refused := k.refused || st != 0#8 }) y.colls }

/-- A part of a completion record on another device is answered (R55). -/
def State.recordAnswered (s : State) (id : Nat) : State :=
  s.modWork fun y => { y with records := updWhere (fun r => r.id == id) (fun r => { r with left := r.left - 1 }) y.records }

/-- The delivery of a posted request, found by its tag (R259). -/
def State.modDelivery (s : State) (tag : BitVec 12) (g : Delivery → Option Delivery) : State :=
  s.modSync fun y => { y with deliveries := y.deliveries.filterMap (fun d => if d.tag == tag && !d.failed then g d else some d) }

/-- The warps that hold a thread of a delivery now; the one that made the store where none does (log 73, DEDUCED). -/
def State.deliveryWarps (s : State) (d : Delivery) : List Nat :=
  let hold := (s.blockWarps d.block).filter (fun w => d.threads.any (fun t => (w.serials 0xFFFFFFFF#32).contains t))
  if hold.isEmpty then [d.warp] else hold.map (·.id)

/-- The ranks that the valid groups of a block's job give a device. -/
def State.ranksOf (s : State) (block : Nat) (dev : BitVec 11) : List Nat :=
  match (s.block? block).bind (fun b => s.grid? b.grid) with
  | none => []
  | some g => distinct ((s.work.groups.filter (fun x => bit x.flags 0 && x.job == g.job)).flatMap (fun x =>
      (List.range x.n).filter (fun r => bits (x.members.getD r 0) 0 11 == dev)))

/-- The bit of %mstfail that a failed delivery sets: the rank of a multicast copy, or, of another store or RED that a member may
have dropped for its job key, a rank that a group gives that member (R259; log 73, DEDUCED). -/
def State.failedRank (s : State) (d : Delivery) (silent : Option (BitVec 11)) : Option Nat × State :=
  match d.rank, silent.map (s.ranksOf d.block) with
  | some r, _ => (some r, s)
  | none, some (r :: rs) => let x := s.draw; ((r :: rs)[x.1 % (rs.length + 1)]?, x.2)
  | none, _ => (none, s)

/-- The bit of a rank in %mstfail is set in a cycle. -/
def Warp.noteFailure (w : Warp) (r cycle : Nat) : Warp :=
  { w with mstfail := w.mstfail ||| (1#64 <<< r), mstNew := ((if w.mstNew.2 = cycle then w.mstNew.1 else 0) ||| (1#64 <<< r), cycle) }

/-- The delivery failed, by a NACK or because nothing came from the device `silent` for 100 µs (R259). -/
def State.failDelivery (s : State) (tag : BitVec 12) (silent : Option (BitVec 11) := none) : State :=
  let ds := s.sync.deliveries.filter (fun d => d.tag == tag && !d.failed)
  let s := ds.foldl (fun s d => let x := s.failedRank d silent; match x.1 with
    | some r => (s.deliveryWarps d).foldl (fun s i => s.modWarp i (fun w => w.noteFailure r s.cycle)) x.2
    | none => x.2) s
  s.modDelivery tag (fun d => some { d with failed := true })

/-- Take a reply: its request is over. Reserved STATUS codes are never sent and are dropped. -/
def State.replied (s : State) (p : Arrival) (tag : BitVec 12) (st : BitVec 8) (k : State → Request → State) : State :=
  if 5 ≤ st.toNat then s.dropPacket
  else match s.request? p.src tag with
  | none => s
  | some r => k (s.dropRequest r) r

def execRdata (p : Arrival) (tag : BitVec 12) (status : BitVec 8) (bytes : List Byte) (s : State) : Out :=
  s.ingress p clsRsp (ceilDiv bytes.length 64) fun s => s.replied p tag status fun s r =>
    match r.purpose with
    | .load f => s.addReplies f (lineReplies r status bytes)
    | .engine b q o => s.engineAnswer r b q o status bytes
    | .collRead g k => s.collFetched g k r.dst r.addr status bytes
    | .atomic _ _ | .posted | .coll _ _ | .collWrite _ _ | .record _ => s

def execAreply (p : Arrival) (tag : BitVec 12) (status : BitVec 8) (old : DWord) (s : State) : Out :=
  s.ingress p clsRsp 1 fun s => s.replied p tag status fun s r =>
    match r.purpose with
    | .atomic f l => s.addReplies f [{ dev := r.dst, addr := r.addr, lane := l, status, bytes := bytesOf old 8 }]
    | .load _ | .engine _ _ _ | .posted | .coll _ _ | .collRead _ _ | .collWrite _ _ | .record _ => s

def execAck (p : Arrival) (tag : BitVec 12) (s : State) : Out :=
  s.ingress p clsRsp 0 fun s => s.replied p tag 0 fun s r =>
    match r.purpose with
    | .load f => s.addReplies f [{ dev := r.dst, addr := r.addr, lane := 0, status := 0, bytes := [] }]
    | .engine b q o => s.engineAnswer r b q o 0 []
    | .posted => s.modDelivery tag (fun _ => none)
    | .collWrite g k => s.collWritten g k 0
    | .record k => s.recordAnswered k
    | .atomic _ _ | .coll _ _ | .collRead _ _ => s

def execNack (p : Arrival) (tag : BitVec 12) (status : BitVec 8) (s : State) : Out :=
  s.ingress p clsRsp 0 fun s =>
    if status == 0#8 then s.dropPacket
    else s.replied p tag status fun s r =>
      match r.purpose with
      | .load f => s.addReplies f [{ dev := r.dst, addr := r.addr, lane := 0, status, bytes := [] }]
      | .atomic f l => s.addReplies f [{ dev := r.dst, addr := r.addr, lane := l, status, bytes := [] }]
      | .engine b q o => s.engineAnswer r b q o status []
      | .posted => s.failDelivery tag
      | .collRead g k => s.collFetched g k r.dst r.addr status []
      | .collWrite g k => s.collWritten g k status
      | .record k => s.recordAnswered k
      | .coll _ _ => s

/-! ## Silence (R297) -/

/-- Requests that have had no answer for 100 µs. -/
def Request.late (r : Request) (now : Nat) : Bool := r.sent + 100000 ≤ now

/-- The replies that stand for an unanswered request. -/
def unansweredReplies (r : Request) : List Reply :=
  match r.purpose with
  | .atomic _ l => [{ dev := r.dst, addr := r.addr, lane := l, status := unanswered, bytes := [] }]
  | _ => if r.lines == 0#4 then [{ dev := r.dst, addr := r.addr, lane := 0, status := unanswered, bytes := [] }]
      else lineReplies r unanswered []

def execRemoteLoadTimeout (frag : Nat) (s : State) : Out :=
  let late := s.fab.requests.filter (fun r => r.isOf [frag] && r.late s.time)
  if late.isEmpty then .next s
  else
    let s := late.foldl (fun s r => s.dropRequest r) s
    .next (s.addReplies frag (late.flatMap unansweredReplies))

/-- A posted request, whose acknowledgement no instruction waits for. -/
def Request.isPosted (r : Request) : Bool := match r.purpose with | .posted | .record _ => true | _ => false

def execStoreAckTimeout (tag : BitVec 12) (s : State) : Out :=
  match s.fab.requests.find? (fun r => r.tag == tag && r.isPosted) with
  | none => .next s
  | some r =>
      if !r.late s.time then .next s
      else match r.purpose with
        | .record k => .next ((s.dropRequest r).recordAnswered k)
        | _ => .next ((s.dropRequest r).failDelivery tag (some r.dst))

/-! ## Returned flits and delivery counts (R293, R294, R300) -/

/-- The count of a class in a report. -/
def Sent.reached (x : Sent) (h : InjectHold) : Bool := x.of h.cls == h.target

/-- The register set anew: the limit less what is sent and not returned since the commit (R297). What the
oldest waiter needs goes to its reservation first. Flits sent before the commit are lost where its packets count as
dropped. -/
def Allowance.restart (a : Allowance) (limit : Nat) (lost : Bool) : Allowance :=
  let flight := if lost then a.flight.filter (fun x => !x.old) else a.flight
  let total := limit - (flight.filter (fun x => !x.engine && !x.old)).foldl (fun n x => n + x.flits) 0
  let need := match a.waiters with | [] => 0 | w :: _ => w.2
  { a with limit, flight, reserved := min total need, free := total - min total need }

def State.restartAllowance (s : State) (lost : Bool) (dev : BitVec 11) : State :=
  match s.route? dev with
  | some r =>
      if isPort r.req then ((s.modAllowance dev (fun a => a.restart r.alim.toNat lost)).clearCovered dev).flushEngines dev else s
  | none => s

/-- End some injection holds, and send what they kept back. -/
def State.endHolds (s : State) (lost : Bool) (done : InjectHold → Bool) : State :=
  if s.fab.injectHolds.any done then
    let devs := (s.fab.injectHolds.filter (fun h => done h && h.cls == clsReq)).map (·.dev)
    let s := s.modFab fun y => { y with injectHolds := y.injectHolds.filter (fun h => !done h) }
    (devs.foldl (fun s d => s.restartAllowance lost d) s).flush
  else s

def execAret (p : Arrival) (retReq retPage : Half) (delReq delRsp delPage : Word) (s : State) : Out :=
  s.ingress p clsMgt 0 fun s =>
    let d : Sent := { dev := p.src, req := delReq, rsp := delRsp, page := delPage }
    let s := s.returnFlits p.src retReq.toNat
    let s := s.modFab fun y => { y with
      pageFlits := y.pageFlits.map (fun x => if x.1 == p.src then (x.1, x.2 - retPage.toNat) else x)
      delivered := y.delivered.filter (fun x => x.dev != p.src) ++ [d] }
    (s.flushPages p.src).endHolds false (fun h => h.dev == p.src && d.reached h)

/-- Something is to be reported to the peer, and has been for 200 ns. -/
def Returns.due (r : Returns) (now : Nat) : Bool := match r.since with | some t => t + 200 ≤ now | none => false

def execAllowanceReturnTimer (peer : BitVec 11) (s : State) : Out :=
  match s.fab.returns.find? (fun r => r.dev == peer) with
  | none => .next s
  | some r =>
      if !r.due s.time then .next s
      else
        let nq := min r.req 65535
        let np := min r.page 65535
        let s := s.modReturns peer (fun r => { r with
          req := r.req - nq, page := r.page - np, since := if r.req = nq ∧ r.page = np then none else r.since })
        let h : Arrival := { port := 0, src := selfDev, key := 0, aret := 0, hop := 0, len := 0, bad := false }
        .next (s.inject { dst := peer, cls := clsMgt,
                          body := .aret h (BitVec.ofNat 16 nq) (BitVec.ofNat 16 np) r.delReq r.delRsp r.delPage })

/-- Packets still missing 100 µs after a route load count as dropped (R294). -/
def execRouteHoldTimeout (dst : BitVec 11) (cls : BitVec 2) (s : State) : Out :=
  .next (s.endHolds true (fun h => h.dev == dst && h.cls == cls && decide (h.since + 100000 ≤ s.time)))

/-- A link enters the restricted state, or changes the channels it cannot reserve (R296); 12 is the channel of
MGT. Firmware reports it to the fabric manager, and packets kept back for a channel that is there again go out. -/
def State.restrict (s : State) (port : Nat) (missing : List Nat) : State :=
  let s := s.modFab fun y => { y with
    restricted := y.restricted.filter (fun x => x.1 != port) ++ (if missing.isEmpty then [] else [(port, missing)]) }
  let s := s.modFw fun y => { y with linkReports := y.linkReports ++ [(port, missing)] }
  (s.fab.allowances.map (·.dev)).foldl (fun s d => s.clearCovered d) s.flush

/-- Firmware logs the restriction of a link (R359); its class and kind are those of a failed Roswald lane (log 64, DESIGN CHOICE). -/
def execLinkRestrict (port : BitVec 5) (missing : List Nat) (s : State) : Out :=
  .next (if missing.isEmpty then s.restrict port.toNat missing
    else (s.logError 7 6 8 (BitVec.ofNat 32 port.toNat) none).restrict port.toNat missing)

end Sys2Proof.Machine
end

