-- ==== Sys2Proof/Machine/BaseDie.lean ====
section
/-! DEFINITION. Requests as they reach a base die (09 R192 to R197); none is accepted before HBM takes accesses (22 R372). -/

namespace Sys2Proof.Machine

open Sys2Proof

/-- The local address of a channel's byte, the mapping of R194 read backwards. -/
def State.addrOf? (s : State) (channel : BitVec 8) (offset : Nat) : Option Nat :=
  if !s.memoryOpen then none else (s.liveChannels.idxOf? channel.toNat).map (fun i => 256 * (offset / 256 * s.nlive + i) + offset % 256)

/-- A base die answers a tag with bytes and POISON bits. -/
def State.dieReply (s : State) (tag : BitVec 12) (bytes : List Byte) (poison : List Bool) : State :=
  s.modRepair fun y => { y with hbmReplies := y.hbmReplies ++ [(tag, bytes, poison)] }

/-- Read lines from an address. -/
def State.readLines (s : State) (tag : BitVec 12) (a n : Nat) : State :=
  s.dieReply tag (s.mem.hbm.getN a (64 * n)) ((List.range n).map (fun i => s.isPoisoned (.hbm (a + 64 * i)) 64))

def execRead64 (tag : BitVec 12) (channel : BitVec 8) (offset : BitVec 31) (s : State) : Out :=
  match s.addrOf? channel (offset.toNat / 64 * 64) with
  | none => .next s
  | some a => .next (s.readLines tag a 1)

def execRead256 (tag : BitVec 12) (channel : BitVec 8) (offset : BitVec 31) (s : State) : Out :=
  match s.addrOf? channel (offset.toNat / 256 * 256) with
  | none => .next s
  | some a => .next (s.readLines tag a 4)

def execHbmWrite (tag : BitVec 12) (channel : BitVec 8) (offset : BitVec 31) (bytes : List (Nat × Byte)) (s : State) : Out :=
  match s.addrOf? channel (offset.toNat / 256 * 256) with
  | none => .next s
  | some a => .next ((s.writeMasked (.hbm a) (bytes.filter (fun x => x.1 < 256))).dieReply tag [] [])

def execHbmAtom (tag : BitVec 12) (channel : BitVec 8) (offset : BitVec 31) (aop : BitVec 4) (wide : Bool) (x y : DWord) (s : State) : Out :=
  match s.addrOf? channel offset.toNat with
  | none => .next s
  | some a =>
      if s.isPoisoned (.hbm a) (if wide then 8 else 4) then .next (s.dieReply tag (List.replicate 8 0) [true])
      else
        let r := s.atomicAt (.hbm a) aop wide x y
        .next (r.2.dieReply tag (bytesOf r.1 8) [false])

def execHbmRedm (tag : BitVec 12) (channel : BitVec 8) (offset : BitVec 31) (aop : BitVec 4) (words : List (Nat × Word)) (s : State) : Out :=
  match s.addrOf? channel (offset.toNat / 256 * 256) with
  | none => .next s
  | some a =>
      .next (((words.filter (fun x => x.1 < 256)).foldl (fun (s : State) (x : Nat × Word) => s.redmAt (.hbm (a + x.1)) aop x.2) s).dieReply tag [] [])

end Sys2Proof.Machine
end

