-- ==== Sys2Proof/Machine/Matrix.lean ====
section
/-! DEFINITION. Tiles, the matrix unit and the accumulators (02 R31; 11 R240 to R248). -/

namespace Sys2Proof.Machine

open Sys2Proof

/-! ## LDT, STT (R240) -/

/-- The row accesses of LDT and STT: 64 bytes each, aligned to 16. -/
def Ctx.tileRows (c : Ctx) (x : Buf) (a : BitVec 6) (pitch : BitVec 11) (imm : BitVec 12) : List LaneAcc :=
  (Mask.lanes c.act).map (fun i =>
    let addr := c.f.getU a + disp12 imm + BitVec.ofNat 64 (16 * pitch.toNat * i)
    { lane := i, addr, va := addr, len := 64,
      check := if addr.toNat % 16 != 0 then .bad 2 .misaligned 0 else checkBuf c.b x (c.b.limit x) addr 64 })

def execLdt (h : Head) (d : BitVec 2) (a : BitVec 6) (sp : Space) (pitch : BitVec 11) (imm : BitVec 12) (s : State) : Out :=
  issue s 2 h (.tile d) [.u a] fun c =>
    c.loadLanes none (c.tileRows (if sp == .w then .w else .a) a pitch imm) fun s data =>
      c.retireIn s (c.f.setT d c.act (fun i => ofBytes 512 (data i)))

/-- The stores of a tile enter the fragment store buffer with colour 0, which STT has no field to change
(log 16). -/
def execStt (h : Head) (d : BitVec 2) (a : BitVec 6) (pitch : BitVec 11) (imm : BitVec 12) (s : State) : Out :=
  issue s 2 h .none [.t d, .u a] fun c =>
    c.resolve none (c.tileRows .a a pitch imm) fun ok =>
      c.storePieces c.s 0 false (ok.map (fun x => c.piece .a x (bytesOf ((c.f.getT d).toList.getD x.acc.lane 0) 64)))

/-! ## One element of a product (R31, R244) -/

/-- One result element: the exact sum rounded once, or clamped to INT32. -/
def mmaElem (int zero : Bool) (old : Word) (xs ys : List Fv) : Word × Flags :=
  let ps := List.zipWith Fv.mul xs ys
  if int then
    let s := (if zero then 0 else old.toInt) + (ps.map (Fv.numOver 0)).sum
    let r := max (-2147483648) (min 2147483647 s)
    (BitVec.ofInt 32 r, if r = s then 0 else Flags.sat)
  else
    let r := Fmt.fp32.round .rne false (sumFv .rne ((if zero then .fin false 0 0 else fp32 old) :: ps))
    (BitVec.ofNat 32 r.1, r.2)

/-- Elements in a 64-byte row. -/
def rowCount (fmt : BitVec 4) : Nat := 512 / mmaWidth fmt

/-- The decoded elements of a tile row. -/
def tileElems (fmt : BitVec 4) (row : BitVec 512) : List Fv :=
  (List.range (rowCount fmt)).map (fun k =>
    let loc := elemLoc fmt 0 k
    elemValue fmt loc ((List.range loc.len).map (fun i => bits row (8 * (loc.off + i)) 8)) 0)

/-- Write the rows of ACTIVE of the product of tile `a` and the B rows. -/
def Ctx.multiply (c : Ctx) (s : State) (d a : BitVec 2) (zero : Bool) (af : BitVec 4) (brow : Nat → List Fv) : Out :=
  let ys := (List.range 32).map brow
  let rows := (Mask.lanes c.act).map (fun i =>
    let xs := tileElems af ((c.f.getT a).toList.getD i 0)
    let old := (c.f.getA d).toList.getD i zeroWords
    (i, (List.range 32).map (fun j => mmaElem (mmaInt af) zero (old.toList.getD j 0) xs (ys.getD j []))))
  let fl := rows.foldl (fun m r => r.2.foldl (fun m x => m ||| x.2) m) 0
  let row := fun i => (getKey i rows).getD []
  c.retireIn s ({ c.f with mflags := c.f.mflags ||| fl }.setA d c.act (fun i => Vector.ofFn (fun (j : Fin 32) => ((row i).getD j.val (0, 0)).1)))

/-! ## Operand B (R243) -/

/-- Bytes of operand B read so far, by address. -/
def byteIn (l : List (Nat × List Byte)) (a : Nat) : Byte :=
  match l.find? (fun x => x.1 ≤ a && a < x.1 + x.2.length) with
  | some x => x.2.getD (a - x.1) 0
  | none => 0

/-- An element of B by its place from `base`, from the bytes read. -/
def bElem (fmt : BitVec 4) (bg : BitVec 2) (base i : Nat) (byte : Nat → Byte) : Fv :=
  let loc := elemLoc fmt bg i
  elemValue fmt loc ((List.range loc.len).map (fun k => byte (base + loc.off + k)))
    (match loc.scale with | some o => byte (base + o) | none => 0)

/-- Read the accesses of operand B as its lowest active lane, with the address that names each. -/
def Ctx.readB (c : Ctx) (ok : List LaneOk) : List (Nat × List Byte) × State :=
  ok.foldl (fun r x =>
    let y := r.2.loadBytes c.f c.w c.b x.acc.lane x.place x.acc.len (x.home c.f)
    (r.1 ++ [(match x.place with | .buf _ _ o => o | _ => x.acc.addr.toNat, y.1)], y.2)) ([], c.s)

/-- Check, fetch and read operand B. -/
def Ctx.fetchB (c : Ctx) (xs : List LaneAcc) (k : State → List (Nat × List Byte) → Out) : Out :=
  c.resolveRead (some c.act) xs fun ok =>
    c.fetchLines ok
      (c.replyTrap (some c.act) false ok c.f.lineStatus
        (c.poisonCheck (some c.act) ok (let r := c.readB ok; k r.2 r.1)))

/-- The format of B in W: BF with the segment's tag, none where the pair is wrong. -/
def resolveTag (tag : BitVec 6) (bf af : BitVec 4) : Option (BitVec 4 × BitVec 2) :=
  let f := bits tag 0 4
  if bf == 0#4 then (if tag == 0#6 || !mmaPair af f then none else some (f, bits tag 4 2))
  else if bf == 9#4 then (if f == 9#4 then some (f, bits tag 4 2) else none)
  else if tag == 0#6 || tag == bf.setWidth 6 then some (bf, 0) else none

/-- The block and W offset that a B address in w or cw names. -/
def Ctx.wTarget (c : Ctx) (gang : Bool) (a : DWord) : Option (Block × Nat) :=
  if !gang then some (c.b, a.toNat)
  else if bits a 24 40 != 0#40 || c.g.launch.gang ≤ (bits a 20 4).toNat then none
  else (c.s.gangMember c.g c.b (bits a 20 4).toNat).map (fun m => (m, (bits a 0 20).toNat))

/-- An access of operand B to bytes of W, sealed segments read freely (R176). -/
def Ctx.wAcc (c : Ctx) (a : DWord) (m : Block) (o n : Nat) : LaneAcc :=
  { lane := Mask.lowest c.act, addr := a, va := a, len := n, check := .ok (.buf m.id .w o) none }

/-- A condition of the instruction on operand B. -/
def Ctx.bRow (c : Ctx) (bad : Bool) (row : Nat) (cause : Cause) (addr : DWord) : List LaneAcc :=
  if bad then [{ lane := Mask.lowest c.act, addr, va := addr, len := 1, check := .bad row cause 0 }] else []

/-- Operand B in w or cw. -/
def Ctx.mmaW (c : Ctx) (gang : Bool) (d a : BitVec 2) (zero : Bool) (addr : DWord) (bf af : BitVec 4) : Out :=
  let o := if gang then (bits addr 0 20).toNat else addr.toNat
  let broken := o % 64 != 0 || 65536 < o % 65536 + 2048
  let target := c.wTarget gang addr
  let outside := match target with | some t => decide (t.1.limit .w < t.2 + 2048) | none => true
  let fmt := match target with
    | some t => resolveTag ((t.1.segs.getD (o / 65536) Segment.blank).tag) bf af
    | none => none
  let q := o % 65536
  let q4 := match fmt with | some f => f.1 == 9#4 | none => false
  let area := match fmt with | some f => (q4Unit f.2).2.1 | none => 0
  let per := match fmt with | some f => (q4Unit f.2).2.2 | none => 1
  let own := c.bRow broken 2 .misaligned addr ++ c.bRow (outside || (q4 && area < q + 2048)) 3 .bufferBounds addr
    ++ c.bRow fmt.isNone 5 .permission addr
  let reads := match target with
    | some t => c.wAcc addr t.1 t.2 2048 ::
        (if q4 then [c.wAcc addr t.1 (t.2 - q + area + 2 * q / per) (ceilDiv (4096 + 2 * q % per) per)] else [])
    | none => []
  c.fetchB (if own.isEmpty then reads else own) fun s got =>
    match fmt with
    | none => c.retireIn s c.f
    | some f =>
        let row := fun j => (List.range (rowCount af)).map (fun k =>
          if q4 then bElem f.1 f.2 (o - q) (2 * q + 128 * j + k) (byteIn got)
          else bElem f.1 0 (o + 64 * j) k (byteIn got))
        c.multiply s d a zero af row

/-- The bytes of row `j` of B in a tensor, by VA. -/
def Tlr.rowBytes (t : Tlr) (c0 c1 j n : Nat) : List Nat :=
  let base := (t.rowVa (c1 + j) 0 0).toNat
  (List.range n).flatMap (fun k =>
    if t.inside (c1 + j) 0 0 && c0 + k < t.dims.headD 0 then
      let loc := elemLoc t.fmt t.bg (c0 + k)
      ((List.range loc.len).map (fun i => base + loc.off + i)) ++ (match loc.scale with | some o => [base + o] | none => [])
    else [])

/-- The addresses within each 64-byte line, as runs. -/
def lineRuns (as : List Nat) : List (Nat × Nat) :=
  (distinct (as.map (· / 64))).map (fun l =>
    let here := as.filter (fun a => a / 64 == l)
    let lo := here.foldl min (64 * l + 63)
    (lo, here.foldl max lo + 1 - lo))

/-- Operand B in a tensor, after its record is read (log 49, DEDUCED). -/
def Ctx.mmaTlr (c : Ctx) (t : Tlr) (d a : BitVec 2) (zero : Bool) (va coords : DWord) (bf af : BitVec 4) : Out :=
  let c0 := (bits coords 0 32).toNat
  let c1 := (bits coords 32 32).toNat
  let n := rowCount af
  let keyed := t.key != 0#16
  let as := (List.range 32).flatMap (fun j => t.rowBytes c0 c1 j n)
  let runs := if keyed then (distinct (as.map (· / 64))).map (fun l => (64 * l, 64)) else lineRuns as
  let rowStart := fun j => (t.rowVa (c1 + j) 0 0).toNat + (elemLoc t.fmt t.bg c0).off
  let own := c.bRow (keyed && (List.range 32).any (fun j => t.inside (c1 + j) 0 0 && rowStart j % 64 != 0)) 2 .misaligned va
    ++ c.bRow ((bf != 0#4 && bf != t.fmt) || !mmaPair af t.fmt) 5 .permission va
    ++ c.bRow (keyed && !c.keyLoaded t.key) 6 .keyRefused va
  let accs := runs.map (fun (r : Nat × Nat) =>
    let v := BitVec.ofNat 64 r.1
    ({ lane := Mask.lowest c.act, addr := v, va := v, len := r.2,
       check := c.s.checkG c.b.core c.g.job v r.2 .read (fun p => pteKy p != keyed) (fun p => pteFmt p != 0#4 && pteTag p != t.tag) } : LaneAcc))
  c.fetchB (own ++ accs) fun s got =>
    let key := match c.s.job? c.g.job with | some j => (match getKey t.key j.keys with | some k => bytesOf k 64 | none => []) | none => []
    let got := if keyed then got.map (fun x => (x.1, xtsUnit true key x.1 x.2)) else got
    let row := fun j => (List.range n).map (fun k =>
      if t.inside (c1 + j) 0 0 && c0 + k < t.dims.headD 0 then bElem t.fmt t.bg (t.rowVa (c1 + j) 0 0).toNat (c0 + k) (byteIn got)
      else .fin false 0 0)
    c.multiply s d a zero af row

/-! ## MMA, MMAZ (R242 to R245) -/

def mmaUses (a : BitVec 2) (b e : BitVec 6) (bsrc : BSrc) : List Use :=
  .t a :: (match bsrc with
    | .tile => [.t (bits b 0 2)]
    | .tlr => [.u b, .u e]
    | _ => [.u b])

/-- The meaning of MMA and MMAZ. -/
def Ctx.mma (c : Ctx) (zero : Bool) (d a : BitVec 2) (b e : BitVec 6) (bsrc : BSrc) (bf af : BitVec 4) : Out :=
  if c.act == 0#32 then c.retire c.f
  else match bsrc with
  | .tile => c.multiply c.s d a zero af (fun j => tileElems bf ((c.f.getT (bits b 0 2)).toList.getD j 0))
  | .w => c.mmaW false d a zero (c.f.getU b) bf af
  | .cw => c.mmaW true d a zero (c.f.getU b) bf af
  | .tlr =>
      let va := c.f.getU b
      let acc : LaneAcc := { lane := Mask.lowest c.act, addr := va, va, len := 64,
                             check := c.s.check c.g c.w c.b .g (Mask.lowest c.act) va 64 .read noKeyRule noKeyRule }
      c.loadLanes (some c.act) [acc] fun s data =>
        let c : Ctx := { c with s }
        match readTlr (data acc.lane) with
        | none => c.trapWith .permission c.act va c.descriptor
        | some t => c.mmaTlr t d a zero va (c.f.getU e) bf af

def execMma (h : Head) (d a : BitVec 2) (b e : BitVec 6) (_ : Bool) (bsrc : BSrc) (bf af : BitVec 4) (s : State) : Out :=
  issue s 2 h (.acc d) (mmaUses a b e bsrc) fun c => c.mma false d a b e bsrc bf af

def execMmaz (h : Head) (d a : BitVec 2) (b e : BitVec 6) (_ : Bool) (bsrc : BSrc) (bf af : BitVec 4) (s : State) : Out :=
  issue s 2 h (.acc d) (mmaUses a b e bsrc) fun c => c.mma true d a b e bsrc bf af

/-! ## Accumulators (R246 to R248) -/

/-- The column of a lane. -/
def accColumn (f : Frag) (b : BitVec 6) (cv : Bool) (l : Nat) : Nat := if cv then (f.getV b l).toNat % 32 else b.toNat % 32

def accUses (a : Use) (b : BitVec 6) (cv : Bool) : List Use := a :: (if cv then [.v b 1] else [])

def execAccrd (h : Head) (d : BitVec 6) (a : BitVec 2) (b : BitVec 6) (cv : Bool) (s : State) : Out :=
  issue s 1 h (.vec d 1) (accUses (.a a) b cv) fun c =>
    c.retire (c.f.setV d c.act (fun l => ((c.f.getA a).toList.getD l zeroWords).toList.getD (accColumn c.f b cv l) 0))

/-- Row `l` of an accumulator. -/
def accRow (f : Frag) (a : BitVec 2) (l : Nat) : Lanes Word := (f.getA a).toList.getD l zeroWords

def execAccwr (h : Head) (d : BitVec 2) (a b : BitVec 6) (cv : Bool) (s : State) : Out :=
  issue s 1 h (.acc d) (accUses (.v a 1) b cv) fun c =>
    c.retire (c.f.setA d c.act (fun l => Vector.ofFn (fun (j : Fin 32) =>
      if j.val = accColumn c.f b cv l then c.f.getV a l else (accRow c.f d l)[j])))

/-- The one access of ACCLD and ACCST, and the place of its first row. -/
def Ctx.accAcc (c : Ctx) (a : BitVec 6) (imm : BitVec 12) : LaneAcc :=
  let addr := c.f.getU a + disp12 imm
  { lane := Mask.lowest c.act, addr, va := addr, len := 4096,
    check := if addr.toNat % 128 != 0 then .bad 2 .misaligned 0 else checkBuf c.b .c (c.b.limit .c) addr 4096 }

/-- The active rows of a checked access. -/
def Ctx.accRows (c : Ctx) (ok : List LaneOk) : List LaneOk :=
  ok.flatMap (fun x => (Mask.lanes c.act).map (fun i =>
    { acc := { x.acc with lane := i, len := 128 }, place := x.place.at (128 * i), leaf := none }))

def execAccld (h : Head) (d : BitVec 2) (a : BitVec 6) (imm : BitVec 12) (s : State) : Out :=
  issue s 2 h (.acc d) [.u a] fun c =>
    if c.act == 0#32 then c.retire c.f
    else c.resolve (some c.act) [c.accAcc a imm] fun ok =>
      let rows := c.accRows ok
      c.poisonCheck none rows
        (let r := c.readAll rows
         c.retireIn r.2 (c.f.setA d c.act (fun i =>
           let bs := (getKey i r.1).getD []
           Vector.ofFn (fun (j : Fin 32) => ofBytes 32 ((bs.drop (4 * j.val)).take 4)))))

def execAccst (h : Head) (d : BitVec 2) (a : BitVec 6) (imm : BitVec 12) (s : State) : Out :=
  issue s 2 h .none [.a d, .u a] fun c =>
    if c.act == 0#32 then c.retire c.f
    else c.resolve (some c.act) [c.accAcc a imm] fun ok =>
      c.storePieces c.s 0 false ((c.accRows ok).map (fun x =>
        c.piece .c x ((accRow c.f d x.acc.lane).toList.flatMap (fun w => bytesOf w 4))))

def execAccz (h : Head) (d : BitVec 2) (s : State) : Out :=
  issue s 1 h (.acc d) [] fun c => c.retire (c.f.setA d c.act (fun _ => zeroWords))

/-- TXP: the transpose of an accumulator, or of a tile of 16-bit elements. -/
def execTxp (h : Head) (d a : BitVec 2) (b16 : Bool) (s : State) : Out :=
  issue s 1 h (if b16 then .tile d else .acc d) [if b16 then .t a else .a a] fun c =>
    if b16 then
      c.retire (c.f.setT d c.act (fun i => ofBytes 512 ((List.range 32).flatMap (fun j =>
        bytesOf (bits ((c.f.getT a).toList.getD j 0) (16 * i) 16) 2))))
    else c.retire (c.f.setA d c.act (fun i => Vector.ofFn (fun (j : Fin 32) => (accRow c.f a j.val).toList.getD i 0)))

end Sys2Proof.Machine
end

