-- ==== Sys2Proof/Machine/Collective.lean ====
section
/-! DEFINITION. Collectives: COLL, COLLW, their steps at one member, and TIDE holds
(02 R33; 14 R302 to R312; 22 R365). -/

namespace Sys2Proof.Machine

open Sys2Proof

/-! ## The parameter block (R302) -/

/-- The fields of a block of 128 bytes. -/
def readParams (bs : List Byte) : CollParams :=
  let w := fun (o n : Nat) => natOfBytes ((bs.drop o).take n)
  { op := BitVec.ofNat 8 (w 0 1), dtype := BitVec.ofNat 8 (w 1 1), rop := BitVec.ofNat 8 (w 2 1)
    innet := w 3 1 % 2 == 1, bar := w 3 1 / 2 % 2 == 1, sgid := BitVec.ofNat 12 (w 4 2), root := w 6 1
    barspan := w 7 1, count := w 8 8, src := BitVec.ofNat 64 (w 0x10 8), dst := BitVec.ofNat 64 (w 0x18 8)
    chunk := w 0x20 4, barblk := w 0x24 1 % 16, baroff := w 0x28 4, crva := BitVec.ofNat 64 (w 0x30 8)
    digest := BitVec.ofNat 64 (w 0x38 8) }

/-- Every reserved field is zero. -/
def paramsClean (bs : List Byte) : Bool :=
  let w := fun (o n : Nat) => natOfBytes ((bs.drop o).take n)
  w 3 1 / 4 == 0 && w 4 2 / 4096 == 0 && w 0x24 1 / 16 == 0 && w 0x25 3 == 0 && w 0x2C 4 == 0 && w 0x40 64 == 0

def CollParams.reduces (p : CollParams) : Bool := p.op == 1#8 || p.op == 2#8 || p.op == 5#8

/-- The FMT of the elements. -/
def CollParams.fmt (p : CollParams) : BitVec 4 := bits p.dtype 0 4

def CollParams.esize (p : CollParams) : Nat :=
  match p.dtype.toNat with
  | 1 | 8 => 4
  | 2 | 3 => 2
  | _ => 1

/-- B of R303. -/
def CollParams.total (p : CollParams) : Nat := p.count * p.esize

/-- C of R303; the blocks of an all-to-all are its chunks. -/
def CollParams.chunks (p : CollParams) (n : Nat) : Nat := if p.op == 6#8 then n else ceilDiv p.total p.chunk

def CollParams.chunkLen (p : CollParams) (n c : Nat) : Nat :=
  if p.op == 6#8 then p.total / n else min p.chunk (p.total - c * p.chunk)

/-- The bytes of the chunks with c mod N = r, packed at CHUNK × (c div N). -/
def CollParams.packed (p : CollParams) (n r : Nat) : Nat :=
  let k := p.chunks n
  if k ≤ r then 0
  else
    let c := r + n * ((k - 1 - r) / n)
    p.chunk * (c / n) + p.chunkLen n c

/-- Bytes of SRC and of DST on rank r (R303). -/
def CollParams.srcLen (p : CollParams) (n r : Nat) : Nat :=
  match p.op.toNat with
  | 3 => p.packed n r
  | 4 => if r = p.root then p.total else 0
  | _ => p.total

def CollParams.dstLen (p : CollParams) (n r : Nat) : Nat :=
  match p.op.toNat with
  | 2 => p.packed n r
  | 5 => if r = p.root then p.total else 0
  | _ => p.total

/-- Where chunk c lies in SRC; for an all-to-all, the block for rank c. -/
def CollParams.srcOff (p : CollParams) (n c : Nat) : Nat :=
  match p.op.toNat with
  | 3 => p.chunk * (c / n)
  | 6 => p.total / n * c
  | _ => p.chunk * c

def CollParams.dstOff (p : CollParams) (n c : Nat) : Nat :=
  match p.op.toNat with
  | 2 => p.chunk * (c / n)
  | 6 => p.total / n * c
  | _ => p.chunk * c

/-- The rank that holds the bytes of a chunk of an all-gather or broadcast. -/
def CollParams.holder (p : CollParams) (n c : Nat) : Nat := if p.op == 4#8 then p.root else c % n

/-- The chunk lands at rank k. -/
def CollParams.lands (p : CollParams) (n k c : Nat) : Bool :=
  match p.op.toNat with
  | 2 => c % n == k
  | 5 => k == p.root
  | _ => true

/-- `(a − b) mod n` for ranks. -/
def rankDiff (n a b : Nat) : Nat := (a + n - b % n) % n

/-- The step at which a chunk lands at rank k (R304). -/
def CollParams.landStep (p : CollParams) (n k c : Nat) : Nat :=
  match p.op.toNat with
  | 1 => n + rankDiff n k c
  | 2 => n
  | 5 => n + rankDiff n p.root c
  | 6 => rankDiff n k c
  | _ => rankDiff n k (p.holder n c)

/-- The chunks that land at rank k in their order (R304). -/
def CollParams.landOrder (p : CollParams) (n k : Nat) : List Nat :=
  (List.range (2 * n + 1)).flatMap (fun st =>
    (List.range (p.chunks n)).filter (fun c => p.lands n k c && p.landStep n k c == st))

/-- The chunk steps that rank k is sent, by chunk and STYPE. -/
def CollParams.expected (p : CollParams) (n k : Nat) : List (Nat × BitVec 8) :=
  if n ≤ 1 then []
  else (List.range (p.chunks n)).flatMap (fun c =>
    let o := c % n
    match p.op.toNat with
    | 1 => if o = k then [(c, 2#8)] else [(c, 1#8), (c, 3#8)]
    | 2 => if o = k then [(c, 2#8)] else [(c, 1#8)]
    | 5 => (if o = k then [(c, 2#8)] else [(c, 1#8)]) ++ (if o ≠ k ∧ rankDiff n k o ≤ rankDiff n p.root o then [(c, 3#8)] else [])
    | 6 => if c = k then [] else [(c, 4#8)]
    | _ => if p.holder n c = k then [] else [(c, 4#8)])

def CollParams.tuple (p : CollParams) : CTuple :=
  { op := p.op, dtype := p.dtype, rop := p.rop, innet := p.innet, count := BitVec.ofNat 64 p.count,
    chunk := BitVec.ofNat 32 p.chunk, root := BitVec.ofNat 8 p.root, digest := p.digest }

/-! ## Tables -/

def Coll.is (x : Coll) (sgid : BitVec 12) (pair : Nat) : Bool := x.sgid == sgid && x.pair == pair

def State.coll? (s : State) (sgid : BitVec 12) (pair : Nat) : Option Coll := s.coll.colls.find? (fun x => x.is sgid pair)

def State.setColl (s : State) (k : Coll) : State :=
  s.modColl fun y => { y with colls := updWhere (fun x => x.is k.sgid k.pair) (fun _ => k) y.colls }

/-- The next pairing index of a group. -/
def State.collCount (s : State) (sgid : BitVec 12) : Nat := (getKey sgid s.coll.counts).getD 0

/-! ## Sending steps (R292) -/

/-- The bytes of a chunk step in packets of at most 256 (log 48, DEDUCED). -/
def State.sendStep (s : State) (k : Coll) (to' : Nat) (stype : BitVec 8) (c step : Nat) (flags : BitVec 5) (bs : List Byte) : State :=
  match s.group? k.sgid with
  | none => s
  | some g =>
      (List.range (ceilDiv bs.length 256)).foldl (fun s i =>
        let m : CStep :=
          { stype, srcRank := BitVec.ofNat 6 k.rank, sgid := k.sgid, pair := BitVec.ofNat 32 k.pair, chunk := BitVec.ofNat 64 c,
            offset := BitVec.ofNat 32 (256 * i), step := BitVec.ofNat 8 step, flags, bytes := (bs.drop (256 * i)).take 256 }
        s.engineRequest (g.dev to') (s.jobKey k.job) 0 (.coll k.sgid k.pair) (fun t h => .cstep h t m)) s

/-- Send the member's tuple to every other member (R309). -/
def State.sendTuple (s : State) (k : Coll) : State :=
  match s.group? k.sgid with
  | none => s
  | some g => g.others.foldl (fun s r =>
      s.engineRequest (g.dev r) (s.jobKey k.job) 0 (.coll k.sgid k.pair)
        (fun t h => .cmatch h t k.sgid (BitVec.ofNat 32 k.pair) (BitVec.ofNat 6 k.rank) k.par.tuple)) s

/-! ## The end of a collective (R307, R365) -/

/-- The hold that a successful end sets on the matrix work of its job, and rank 0's message. -/
def State.startTide (s : State) (k : Coll) : State :=
  let g := s.power.pgov
  if !g.tideEn || g.step == 0#12 || k.n ≤ 1 then s
  else
    let t0 := s.time + 1000 * g.tlead.toNat
    let ends := fun t => t + k.rank % 16 * g.step.toNat * 100
    let hold : TideHold := { sgid := k.sgid, pair := k.pair, job := k.job, rank := k.rank, fallback := t0,
                             ends := if k.rank = 0 then some (ends t0) else k.tide.map ends }
    let s := s.modColl fun y => { y with tideHolds := y.tideHolds ++ [hold] }
    match s.group? k.sgid with
    | none => s
    | some grp =>
        if k.rank ≠ 0 then s
        else grp.others.foldl (fun s r =>
          s.send (grp.dev r) clsMgt 0 (fun h => .tide h k.sgid (BitVec.ofNat 32 k.pair) (BitVec.ofNat 64 t0))) s

/-- End a collective at this member: its ranges go, its record is written, STATUS last. -/
def State.endColl (s : State) (k : Coll) (status : Nat) (failed : DWord) : State :=
  let s := s.modColl fun y =>
    { y with colls := y.colls.filter (fun x => !x.is k.sgid k.pair), ranges := y.ranges.filter (fun r => r.coll != some (k.sgid, k.pair)) }
  let rest := bytesOf k.flags 1 ++ List.replicate 5 0 ++ bytesOf failed 8 ++ bytesOf (BitVec.ofNat 64 s.time : DWord) 8 ++ bytesOf k.par.digest 8
  let s := (s.performAt (k.record.at 2) rest).performAt k.record (bytesOf (BitVec.ofNat 16 status) 2)
  if status = 1 then s.startTide k else s

/-- The mask of a list of ranks. -/
def rankMask (rs : List Nat) : DWord := rs.foldl (fun m r => m ||| (1#64 <<< r)) 0

/-! ## Ending early (R307, R311) -/

/-- A request of a collective's engine. -/
def Request.ofColl (r : Request) (k : Coll) : Bool :=
  r.purpose == .coll k.sgid k.pair || r.purpose == .collRead k.sgid k.pair || r.purpose == .collWrite k.sgid k.pair

/-- The tag of a request of a collective's engine. -/
def collTag : Instr → Option (BitVec 12)
  | .cstep _ t _ | .cmatch _ t _ _ _ _ | .eread _ t _ _ | .ewrite _ t _ _ => some t
  | _ => none

/-- The flits of a packet that is not sent after all are under way no longer. -/
def Allowance.unsend (a : Allowance) (cost : Nat) : Allowance :=
  { a with flight := a.flight.eraseP (fun x => x.engine && x.flits == cost) }

/-- Drop what a collective has still to send: it sends nothing more (R311). -/
def State.dropColl (s : State) (k : Coll) : State :=
  let mine := fun (p : Packet) => s.fab.requests.any (fun r => r.ofColl k && r.dst == p.dst && collTag p.body == some r.tag)
  let out := s.fab.held.filter mine
  let s := out.foldl (fun s p => s.modAllowance p.dst (fun a => a.unsend (1 + packetData p.body))) s
  s.modFab fun y => { y with
    held := y.held.filter (fun p => !mine p), engineWait := y.engineWait.filter (fun w => !w.request.ofColl k)
    requests := y.requests.filter (fun r => !(r.ofColl k && out.any (fun p => p.dst == r.dst && collTag p.body == some r.tag))) }

/-- Writes of a landing on another device are out. -/
def State.landingOut (s : State) (k : Coll) : Bool := s.fab.requests.any (fun r => r.purpose == .collWrite k.sgid k.pair)

/-- End a collective early: at once, or when no write of a landing on another device is out any more (R307). -/
def State.closeColl (s : State) (k : Coll) (status : Nat) (failed : DWord) : State :=
  let s := s.dropColl k
  if s.landingOut k then s.setColl { k with closing := some (status, failed) } else s.endColl k status failed

/-! ## Landing (R304, R306) -/

/-- The parts of DST, through the translations held, that `n` bytes at an offset take: each with its offset from there. -/
def Coll.parts (k : Coll) (off n : Nat) : List (Place × Nat × Nat) :=
  (k.dst.foldl (fun (r : List (Place × Nat × Nat) × Nat) x =>
    let lo := max off r.2
    let hi := min (off + n) (r.2 + x.len)
    ((if lo < hi then r.1 ++ [(x.place.at (lo - r.2), lo - off, hi - lo)] else r.1), r.2 + x.len)) ([], 0)).1

/-- The writes to other devices that a landing takes (log 17, DEDUCED). -/
def Coll.farWrites (k : Coll) (off n : Nat) : Nat := ((k.parts off n).map (fun x => (farPieces x.1 x.2.2).length)).sum

/-- Write bytes at an offset of DST. A frame of another device is written by EWRITE (log 17, DEDUCED). -/
def State.landDst (s : State) (k : Coll) (off : Nat) (bs : List Byte) : State :=
  (k.parts off bs.length).foldl (fun s x =>
    let part := (bs.drop x.2.1).take x.2.2
    match x.1 with
    | .far d a => (farPieces (.far d a) x.2.2).foldl (fun s p =>
        s.engineRequest d (s.jobKey k.job) p.2.1 (.collWrite k.sgid k.pair)
          (fun t h => .ewrite h t (BitVec.ofNat 52 p.2.1) ((part.drop (p.2.1 - a)).take p.2.2))) s
    | q => s.performAt q part) s

/-- The gang block of the issuing gang with the given number. -/
def State.gangBlockAt (s : State) (k : Coll) (i : Nat) : Option Block :=
  match s.grid? k.grid with
  | none => none
  | some g => s.work.blocks.find? (fun b => b.grid == k.grid && b.gang == k.gang && b.index % g.launch.gang == i)

/-- Subtract a landing's bytes at its barrier: in the save area too, where the gang block is saved (R306). -/
def State.landBarrier (s : State) (k : Coll) (c n : Nat) : State :=
  if !k.par.bar then s
  else match s.gangBlockAt k (k.par.barblk + c % k.par.barspan) with
  | some b => s.throughImage b.id (fun s => s.landBar b.id (k.par.baroff + 16 * (c / k.par.barspan)) n)
  | none => s

/-- Land what is ready, in order; a landing on another device is awaited before its bytes are subtracted and the next
one is made (R306). -/
def State.landReady (s : State) (sgid : BitVec 12) (pair : Nat) : Nat → State
  | 0 => s
  | fuel + 1 =>
      match s.coll? sgid pair with
      | none => s
      | some k =>
          if k.landing.isSome then s
          else match (k.par.landOrder k.n k.rank)[k.landed]? with
          | none => s
          | some c =>
              match k.ready.find? (fun x => x.1 == c) with
              | none => s
              | some x =>
                  let n := x.2.1.length
                  let far := k.farWrites (k.par.dstOff k.n c) n
                  let s := s.setColl { k with
                    landed := k.landed + 1, flags := k.flags ||| x.2.2, ready := k.ready.filter (fun y => y.1 != c)
                    landing := if far = 0 then none else some (c, n, far) }
                  let s := s.landDst k (k.par.dstOff k.n c) x.2.1
                  (if far = 0 then s.landBarrier k c n else s).landReady sgid pair fuel

/-- The landing on another device is performed: its bytes are subtracted. -/
def State.endLanding (s : State) (k : Coll) : State :=
  match k.landing with
  | some (c, n, 0) => (s.setColl { k with landing := none }).landBarrier k c n
  | _ => s

/-- Every chunk step has come and every landing is made. -/
def Coll.finished (k : Coll) : Bool :=
  k.landing.isNone && k.landed == (k.par.landOrder k.n k.rank).length && (k.par.expected k.n k.rank).all (fun e => k.got.contains e)

/-- Land, and end with SUCCESS when nothing is left. -/
def State.progress (s : State) (sgid : BitVec 12) (pair : Nat) : State :=
  match s.coll? sgid pair with
  | none => s
  | some k =>
      let s := (s.endLanding k).landReady sgid pair (k.par.chunks k.n)
      match s.coll? sgid pair with
      | some k => if k.finished then s.endColl k 1 0 else s
      | none => s

/-! ## The sums (R33) -/

/-- One step of the ring by ROP. -/
def ropStep (p : CollParams) (x y : Word) : Word × Flags :=
  if p.rop == 0#8 then addSum p.fmt x y
  else if p.fmt == 8#4 then
    (if p.rop == 1#8 then (if x.toInt ≤ y.toInt then y else x) else (if x.toInt ≤ y.toInt then x else y), 0)
  else let r := Fmt.fp32.minmax (p.rop == 1#8) x.toNat y.toNat; (BitVec.ofNat 32 r.1, r.2)

/-- NV for a signalling NaN that widening makes quiet (R16). -/
def widenFlags (fmt : BitVec 4) (bs : List Byte) : BitVec 5 :=
  if gradWidth fmt = 2 && (List.range (bs.length / 2)).any (fun i => ((fmtOf fmt).decode (natOfBytes ((bs.drop (2 * i)).take 2))).isSnan)
  then 16 else 0

/-- This rank's bytes of a chunk. -/
def Coll.own (k : Coll) (c : Nat) : List Byte := (k.data.drop (k.par.srcOff k.n c)).take (k.par.chunkLen k.n c)

def wordsBytes (ws : List Word) : List Byte := ws.flatMap (fun w => bytesOf w 4)

/-- Sums in 32 bits from their bytes. -/
def bytesWords (bs : List Byte) : List Word := (List.range (bs.length / 4)).map (fun i => ofBytes 32 ((bs.drop (4 * i)).take 4))

/-- The first partial sum of a chunk, at its owner. -/
def Coll.firstSum (k : Coll) (c : Nat) : List Byte × BitVec 5 :=
  (wordsBytes (widenBytes k.par.fmt (k.own c)), widenFlags k.par.fmt (k.own c))

/-- Add this rank's contribution to a running sum. -/
def Coll.addOwn (k : Coll) (c : Nat) (bs : List Byte) (fl : BitVec 5) : List Byte × BitVec 5 :=
  let rs := List.zipWith (ropStep k.par) (bytesWords bs) (widenBytes k.par.fmt (k.own c))
  (wordsBytes (rs.map (·.1)), rs.foldl (fun m r => m ||| bits r.2 0 5) (fl ||| widenFlags k.par.fmt (k.own c)))

/-- The complete sum converted to DTYPE. -/
def Coll.convert (k : Coll) (bs : List Byte) (fl : BitVec 5) : List Byte × BitVec 5 :=
  let rs := (bytesWords bs).map (narrowSum k.par.fmt)
  (rs.flatMap (·.1), rs.foldl (fun m r => m ||| bits r.2 0 5) fl)

/-! ## Chunk steps (R304) -/

def State.makeReady (s : State) (k : Coll) (c : Nat) (bs : List Byte) (fl : BitVec 5) : State :=
  match s.coll? k.sgid k.pair with
  | none => s
  | some x => s.setColl { x with ready := x.ready ++ [(c, bs, fl)] }

/-- The complete sum of a chunk is at its owner. -/
def State.ownerResult (s : State) (k : Coll) (c : Nat) (bs : List Byte) (fl : BitVec 5) : State :=
  let r := k.convert bs fl
  let s := if k.par.lands k.n k.rank c then s.makeReady k c r.1 r.2 else s
  let on := k.n ≠ 1 ∧ (k.par.op = 1#8 ∨ (k.par.op = 5#8 ∧ k.rank ≠ k.par.root))
  if on then s.sendStep k ((k.rank + 1) % k.n) 3 c (k.n + 1) r.2 r.1 else s

/-- A chunk step has come whole. -/
def State.takeStep (s : State) (k : Coll) (stype : BitVec 8) (c step : Nat) (bs : List Byte) (fl : BitVec 5) : State :=
  let next := (k.rank + 1) % k.n
  match stype.toNat with
  | 1 =>
      let r := k.addOwn c bs fl
      if next = c % k.n then s.sendStep k next 2 c k.n r.2 r.1 else s.sendStep k next 1 c (step + 1) r.2 r.1
  | 2 => s.ownerResult k c bs fl
  | 3 =>
      let s := if k.par.lands k.n k.rank c then s.makeReady k c bs fl else s
      let more := if k.par.op = 1#8 then next ≠ c % k.n else k.rank ≠ k.par.root
      if more then s.sendStep k next 3 c (step + 1) fl bs else s
  | 4 =>
      let s := s.makeReady k c bs fl
      if k.par.op ≠ 6#8 ∧ next ≠ k.par.holder k.n c then s.sendStep k next 4 c (step + 1) fl bs else s
  | _ => s

/-- Bytes that a chunk step carries in all. -/
def Coll.stepBytes (k : Coll) (stype : BitVec 8) (c : Nat) : Nat :=
  if stype == 1#8 || stype == 2#8 then k.par.chunkLen k.n c / k.par.esize * 4 else k.par.chunkLen k.n c

/-- Put bytes at an offset of a buffer. -/
def overlayBytes (buf : List Byte) (off : Nat) (bs : List Byte) : List Byte :=
  let base := buf ++ List.replicate (off + bs.length - buf.length) 0
  base.take off ++ bs ++ base.drop (off + bs.length)

/-- Take one packet of a step: collect it, and act on the step when it is whole. -/
def State.onStep (s : State) (k : Coll) (m : CStep) : State :=
  let c := m.chunk.toNat
  let old := (k.partials.find? (fun x => x.1 == c)).getD (c, 0, [], 0)
  let n := old.2.1 + m.bytes.length
  let buf := overlayBytes old.2.2.1 m.offset.toNat m.bytes
  let fl := old.2.2.2 ||| m.flags
  let others := k.partials.filter (fun x => x.1 != c)
  if n < k.stepBytes m.stype c then s.setColl { k with partials := others ++ [(c, n, buf, fl)] }
  else
    let k := { k with partials := others, got := k.got ++ [(c, m.stype)] }
    ((s.setColl k).takeStep k m.stype c m.step.toNat buf fl).progress k.sgid k.pair

/-! ## Starting (R308 to R310) -/

/-- The reads of other devices that the source takes (log 17, DEDUCED). -/
def Coll.farReads (k : Coll) : List (BitVec 11 × Nat × Nat) := k.src.flatMap (fun x => farPieces x.place x.len)

/-- Send the reads of other devices. -/
def State.askSrc (s : State) (k : Coll) : State :=
  k.farReads.foldl (fun s p => s.engineRequest p.1 (s.jobKey k.job) p.2.1 (.collRead k.sgid k.pair)
    (fun t h => .eread h t (BitVec.ofNat 52 p.2.1) p.2.2)) (s.setColl { k with reading := some k.farReads.length })

/-- Read the source through the translations held. -/
def State.readSrc (s : State) (k : Coll) : List Byte × State :=
  k.src.foldl (fun r x =>
    match x.place with
    | .far _ _ => (r.1 ++ (farPieces x.place x.len).flatMap (fun p => (getKey (farKey p.1 p.2.1) k.fetched).getD []), r.2)
    | p => let y := r.2.agentBytes k.block p x.len; (r.1 ++ y.1, y.2)) ([], s)

/-- The stores of a block that its buffer holds, with those sent to other devices and not acknowledged, by age; a bound store
that waits for its release apart (log 68). -/
def State.bufferedAges (s : State) (block : Nat) : List Nat :=
  (match s.block? block with | some b => (b.bsb.filter (fun e => !e.held)).map (·.age) | none => [])
    ++ (s.sync.deliveries.filter (fun d => d.block == block && !d.failed)).filterMap (·.entry)

/-- The stores held when the COLL retired are performed at their homes. -/
def State.srcSettled (s : State) (k : Coll) : Bool := !(s.bufferedAges k.block).any k.older.contains

/-- The member may send data. -/
def State.collReady (s : State) (k : Coll) : Bool :=
  !k.started && k.closing.isNone && k.equal.length + 1 == k.n && s.srcSettled k
    && !s.coll.colls.any (fun x => x.sgid == k.sgid && x.pair < k.pair)

/-- A source of the collective carries an uncorrectable error. -/
def State.collPoisoned (s : State) (k : Coll) : Bool := k.src.any (fun x => s.isPoisoned x.place x.len)

/-- The chunks that this rank sends first, or lands by a local copy. -/
def Coll.mine (k : Coll) : List Nat := (List.range (k.par.chunks k.n)).filter (fun c => k.par.holder k.n c == k.rank)

/-- The first steps of a member. -/
def State.firstSteps (s : State) (k : Coll) : State :=
  let next := (k.rank + 1) % k.n
  match k.par.op.toNat with
  | 6 =>
      let s := s.makeReady k k.rank (k.own k.rank) 0
      (List.range (k.n - 1)).foldl (fun s i =>
        let to' := (k.rank + i + 1) % k.n
        s.sendStep k to' 4 k.rank (i + 1) 0 (k.own to')) s
  | 3 | 4 => k.mine.foldl (fun s c =>
      let s := s.makeReady k c (k.own c) 0
      if k.n = 1 then s else s.sendStep k next 4 c 1 0 (k.own c)) s
  | _ => k.mine.foldl (fun s c =>
      let x := k.firstSum c
      if k.n = 1 then s.ownerResult k c x.1 x.2 else s.sendStep k next 1 c 1 x.2 x.1) s

/-- The parts of a range's spans that `n` bytes at an offset take. -/
def spansAt (xs : List Span) (off n : Nat) : List Span :=
  (xs.foldl (fun (r : List Span × Nat) x =>
    let lo := max off r.2
    let hi := min (off + n) (r.2 + x.len)
    (if lo < hi then r.1 ++ [x.cut (lo - r.2) (hi - lo)] else r.1, r.2 + x.len)) ([], 0)).1

/-- The chunks of which this rank copies its own bytes to its own DST (R304). -/
def Coll.copied (k : Coll) : List Nat := if k.par.reduces then [] else if k.par.op == 6#8 then [k.rank] else k.mine

/-- Poison what this member copies of a poisoned line to its own DST (R355). -/
def State.poisonDst (s : State) (k : Coll) : State :=
  k.copied.foldl (fun s c =>
    let n := k.par.chunkLen k.n c
    s.carryPoison (zipSpans 4096 (spansAt k.src (k.par.srcOff k.n c) n) (spansAt k.dst (k.par.dstOff k.n c) n))) s

/-- The bytes of DST that have not landed when a member ends with STATUS 3 are undefined (R311): free values. -/
def State.spoilDst (s : State) (k : Coll) : State :=
  ((k.par.landOrder k.n k.rank).drop k.landed).foldl (fun s c =>
    (k.parts (k.par.dstOff k.n c) (k.par.chunkLen k.n c)).foldl (fun s x => match x.1 with
      | .far _ _ => s
      | q => let d := s.drawN x.2.2; d.2.performAt q ((List.range x.2.2).map (fun i => BitVec.ofNat 8 (d.1 i)))) s) s

/-- A member fails: the ranks that it names are `failed` (R311, R355). -/
def State.failColl (s : State) (k : Coll) (failed : List Nat) : State := (s.spoilDst k).closeColl k 3 (rankMask failed)

/-- Start a member: read the source, first what lies on other devices, send the first steps, take the steps that came
early. -/
def State.startColl (s : State) (k : Coll) : State :=
  if s.collPoisoned k then (s.failColl k [k.rank]).poisonDst k
  else if k.reading.isNone && !k.farReads.isEmpty then s.askSrc k
  else if (k.reading.getD 0) != 0 then s
  else
    let r := s.readSrc k
    let early := k.inbox
    let k := { k with started := true, data := r.1, inbox := [] }
    let s := ((r.2.setColl k).firstSteps k).progress k.sgid k.pair
    early.foldl (fun s m => match s.coll? k.sgid k.pair with | some k => s.onStep k m | none => s) s

/-- Decide on the tuples of an open collective and start it when it may (R309). A member whose own read or write another
device has refused ends as one that met an error (R355) (log 72, DEDUCED). -/
def State.kickColl (s : State) (k : Coll) : State :=
  match k.closing with
  | some x => if s.landingOut k then s else s.endColl k x.1 x.2
  | none =>
  if k.refused then s.failColl k [k.rank]
  else if (match k.landing with | some (_, _, 0) => true | _ => false) then s.progress k.sgid k.pair
  else if !k.started && !k.differ.isEmpty && k.equal.length + k.differ.length + 1 == k.n then s.endColl k 2 (rankMask k.differ)
  else if s.collReady k then s.startColl k else s

/-- Let every open collective go on. -/
def State.kickColls (s : State) : State :=
  s.coll.colls.foldl (fun s x => match s.coll? x.sgid x.pair with | some k => s.kickColl k | none => s) s

/-! ## COLL (R308) -/

/-- The values of R302 and the conditions of R308's third row. -/
def Ctx.collValid (c : Ctx) (bs : List Byte) (p : CollParams) (g : Option Group) : Bool :=
  match g with
  | none => false
  | some g =>
      let recOk := match c.s.leaf? c.g.job p.crva with
        | some lf => pteW lf.pte && pteShst lf.pte == shPrivate && (match lf.place p.crva with | .hbm _ => true | _ => false)
        | none => false
      let sl := p.srcLen g.n g.rank
      let dl := p.dstLen g.n g.rank
      paramsClean bs && bit g.flags 0 && bit g.flags 2 && g.job == c.g.job
        && 1 ≤ p.op.toNat && p.op.toNat ≤ 6
        && (if p.reduces then (p.dtype == 1#8 || p.dtype == 2#8 || p.dtype == 3#8 || p.dtype == 8#8) && p.rop.toNat ≤ 2
            else 1 ≤ p.dtype.toNat && p.dtype.toNat ≤ 8 && p.rop == 0#8)
        && 1 ≤ p.count && p.count ≤ 2 ^ 40
        && (if p.op == 4#8 || p.op == 5#8 then p.root < g.n else p.root == 0)
        && (if p.bar then 1 ≤ p.barspan && p.barspan ≤ 16 && p.barblk + p.barspan ≤ c.g.launch.gang else p.barspan == 0)
        && (if p.op == 6#8 then p.total % (256 * g.n) == 0 else p.chunk % 256 == 0 && 256 ≤ p.chunk && p.chunk ≤ 16777216)
        && recOk
        && (p.src == p.dst || sl == 0 || dl == 0 || !(p.src.toNat < p.dst.toNat + dl && p.dst.toNat < p.src.toNat + sl))

/-- The barrier of some landing chunk lies outside the A quota: the last one lies highest. -/
def barriersOutside (p : CollParams) (n r qa : Nat) : Bool :=
  p.bar && (match (List.range (p.chunks n)).reverse.find? (fun c => p.lands n r c) with
    | some c => qa * 4096 < p.baroff + 16 * (c / p.barspan) + 16
    | none => false)

/-- The held ranges of a collective. -/
def collRanges (k : Coll) : List Range :=
  let sl := k.par.srcLen k.n k.rank
  let dl := k.par.dstLen k.n k.rank
  let one := fun (base : DWord) (len : Nat) (spans : List Span) =>
    ({ job := k.job, base, len, coll := some (k.sgid, k.pair), spans } : Range)
  if k.par.src == k.par.dst then [one k.par.src (max sl dl) (k.src ++ k.dst)]
  else [one k.par.src sl k.src, one k.par.dst dl k.dst]

/-- A tuple joins those that are equal to the member's or those that differ. -/
def Coll.addTuple (k : Coll) (rank : Nat) (t : CTuple) : Coll :=
  if t = k.par.tuple then { k with equal := insertNat rank k.equal } else { k with differ := insertNat rank k.differ }

/-- Take what came before the COLL of its pairing index. -/
def Coll.takeEarly (k : Coll) (es : List EarlyColl) : Coll :=
  es.foldl (fun k e => match e with
    | .tuple g p r t => if k.is g p then k.addTuple r t else k
    | .step m => if k.is m.sgid m.pair.toNat then { k with inbox := k.inbox ++ [m] } else k) k

def EarlyColl.of (sgid : BitVec 12) (pair : Nat) : EarlyColl → Bool
  | .tuple g p _ _ => g == sgid && p == pair
  | .step m => m.sgid == sgid && m.pair.toNat == pair

/-- A COLL whose checks passed: it opens at this member and retires. Its tuple goes out at once, whatever earlier collectives of the
group are still open (R310; log 86, DEDUCED). -/
def Ctx.openColl (c : Ctx) (p : CollParams) (g : Group) (src dst : List Span) : Out :=
  let s := (c.s.startDrain c.b.id).soil c.b.id
  let pair := s.collCount p.sgid
  let rec' : Place := match s.leaf? c.g.job p.crva with | some lf => lf.place p.crva | none => .hbm 0
  let k : Coll :=
    { sgid := p.sgid, pair, job := c.g.job, block := c.b.id, grid := c.g.key, gang := c.b.gang, n := g.n, rank := g.rank, par := p,
      src, dst, record := rec', equal := [], differ := [], older := s.bufferedAges c.b.id, started := false, data := [], fetched := [], reading := none, landing := none, refused := false, closing := none, inbox := [], ready := [],
      partials := [], got := [], landed := 0, flags := 0, tide := none, retiredAt := s.time,
      heard := (g.others).map (fun i => (i, s.time)) }
  let k := k.takeEarly s.coll.early
  let s := s.modColl fun y => { y with
    colls := y.colls ++ [k], counts := setKey p.sgid (pair + 1) y.counts, ranges := y.ranges ++ collRanges k
    early := y.early.filter (fun e => !e.of p.sgid pair) }
  let s := ((s.performAt rec' [0, 0]).sendTuple k).kickColls
  c.retireIn s c.f

/-- The 64-byte halves of a block of 128 bytes at `va`, read for the fragment. -/
def Ctx.blockAccs (c : Ctx) (va : DWord) : List LaneAcc :=
  [va, va + 64].map (fun a =>
    { lane := Mask.lowest c.f.mask, addr := a, va := a, len := 64,
      check := c.s.check c.g c.w c.b .g (Mask.lowest c.f.mask) a 64 .read noKeyRule noKeyRule })

def execColl (ch : Bool) (a : BitVec 6) (s : State) : Out :=
  issueU s 1 ch .none [.u a] fun c =>
    let va := c.f.getU a
    let bad := fun (x : Cause) => c.trapWith x c.f.mask va c.descriptor
    if 64 ≤ c.s.coll.colls.length then c.waitIn c.s
    else if va.toNat % 128 != 0 then bad .misaligned
    else c.fetchB (c.blockAccs va) fun s got =>
      let c : Ctx := { c with s }
      let bs := (List.range 128).map (fun i => byteIn got (va.toNat + i))
      let p := readParams bs
      if p.crva.toNat % 32 != 0 || p.src.toNat % p.esize != 0 || p.dst.toNat % p.esize != 0 || p.baroff % 16 != 0 then bad .misaligned
      else match c.s.group? p.sgid with
      | none => bad .permission
      | some g =>
          if !c.collValid bs p (some g) then bad .permission
          else if barriersOutside p g.n g.rank c.b.quota.qa then bad .bufferBounds
          else
            let xs := (c.s.chunksG c.g.job (p.srcLen g.n g.rank / 65536 + 2) p.src (p.srcLen g.n g.rank)).map
              (fun x => c.engineCheck .g x .read noKeyRule noKeyRule)
            let ys := (c.s.chunksG c.g.job (p.dstLen g.n g.rank / 65536 + 2) p.dst (p.dstLen g.n g.rank)).map
              (fun x => c.engineCheck .g x .write noKeyRule noKeyRule)
            c.resolve (some c.f.mask) (xs ++ ys) fun ok =>
              c.openColl p g ((ok.take xs.length).map LaneOk.span) ((ok.drop xs.length).map LaneOk.span)

/-! ## COLLW (R312) -/

/-- Act on the record's STATUS, FFLAGS and FAILED. -/
def Ctx.collWait (c : Ctx) (s : State) (d : BitVec 6) (va : DWord) (y : LaneOk) (rec' : List Byte) : Out :=
  let c : Ctx := { c with s }
  let failed : DWord := ofBytes 64 ((rec'.drop 8).take 8)
  match natOfBytes (rec'.take 2) with
  | 0 => ({ c with f := { c.f with replies := [] } } : Ctx).parkIn (s.watch y.place c.f.id y.watchable) .barrier
  | 1 => c.retireIn (s.forgetEarly (c.w.serials c.f.mask)) (c.f.setU d ((rec'.getD 2 0).setWidth 64))
  | 2 => c.trapWith .collMismatch c.f.mask va failed
  | 3 => c.trapWith .fabricDelivery c.f.mask 0 failed
  | 4 => c.trapWith .fabricDelivery c.f.mask 0 0
  | _ => c.trapWith .permission c.f.mask va c.descriptor

def execCollw (ch : Bool) (d a : BitVec 6) (s : State) : Out :=
  issueU s 1 ch (.uni d) [.u a] fun c =>
    let va := c.f.getU a
    c.readHome c.f.mask (c.rowIf (va.toNat % 32 != 0) 2 .misaligned va ++ [c.oneAcc .g va 8 .read noKeyRule]) 16 fun c s bs y =>
      c.collWait s d va y bs

/-! ## Steps and tuples as they arrive (R304, R309) -/

/-- The rank was heard. -/
def Coll.hear (k : Coll) (rank now : Nat) : Coll := { k with heard := setKey rank now k.heard }

/-- The pairing index has been used here already. -/
def State.collPast (s : State) (sgid : BitVec 12) (pair : Nat) : Bool := pair < s.collCount sgid

def execCstep (p : Arrival) (tag : BitVec 12) (m : CStep) (s : State) : Out :=
  s.ingress p clsReq (ceilDiv m.bytes.length 64) fun s =>
    if m.stype == 0#8 || 5 ≤ m.stype.toNat || m.bytes.isEmpty || 256 < m.bytes.length then s.dropPacket
    else
      let s := match s.coll? m.sgid m.pair.toNat with
        | some k =>
            let k := k.hear m.srcRank.toNat s.time
            if k.closing.isSome then s
            else if k.started then (s.setColl k).onStep k m else (s.setColl { k with inbox := k.inbox ++ [m] }).kickColls
        | none => if s.collPast m.sgid m.pair.toNat then s else s.modColl fun y => { y with early := y.early ++ [EarlyColl.step m] }
      (s.answer p tag 0).kickColls

def execCmatch (p : Arrival) (tag : BitVec 12) (sgid : BitVec 12) (pair : Word) (srcRank : BitVec 6) (t : CTuple) (s : State) : Out :=
  s.ingress p clsReq 1 fun s =>
    let s := match s.coll? sgid pair.toNat with
      | some k => s.setColl ((k.hear srcRank.toNat s.time).addTuple srcRank.toNat t)
      | none => if s.collPast sgid pair.toNat then s
          else s.modColl fun y => { y with early := y.early ++ [EarlyColl.tuple sgid pair.toNat srcRank.toNat t] }
    (s.answer p tag 0).kickColls

/-! ## Timeouts (R311) -/

/-- A chunk step has arrived whole, taken or not. -/
def Coll.has (k : Coll) (e : Nat × BitVec 8) : Bool :=
  k.got.contains e
    || k.stepBytes e.2 e.1 ≤ ((k.inbox.filter (fun m => m.chunk.toNat == e.1 && m.stype == e.2)).map (·.bytes.length)).foldl (· + ·) 0

/-- The ranks from which a member awaits a packet. -/
def Coll.awaited (k : Coll) : List Nat :=
  if k.closing.isSome then [] else
  let missing := (k.par.expected k.n k.rank).filter (fun e => !k.has e)
  (List.range k.n).filter (fun r => r != k.rank &&
    ((!k.equal.contains r && !k.differ.contains r)
      || (if k.par.op == 6#8 then missing.any (fun e => e.1 == r) else !missing.isEmpty && (r + 1) % k.n == k.rank)))

/-- The awaited ranks that have been silent past TMO. -/
def State.silentRanks (s : State) (k : Coll) : List Nat :=
  match s.group? k.sgid with
  | none => []
  | some g => k.awaited.filter (fun r => (getKey r k.heard).getD k.retiredAt + g.tmoNs < s.time)

/-- A read or write of the member itself has had no answer for 100 µs (log 72, DEDUCED). -/
def State.collUnanswered (s : State) (k : Coll) : Bool :=
  s.fab.requests.any (fun r => (r.purpose == .collRead k.sgid k.pair || r.purpose == .collWrite k.sgid k.pair) && r.late s.time)

def execCollTimeout (sgid : BitVec 12) (pair : Word) (s : State) : Out :=
  match s.coll? sgid pair.toNat with
  | none => .next s
  | some k =>
      let late := s.silentRanks k ++ (if s.collUnanswered k then [k.rank] else [])
      if late.isEmpty then .next s
      else
        let s := s.modFab fun y => { y with requests := y.requests.filter (fun r => !(r.ofColl k && r.late s.time)) }
        .next ((if k.closing.isSome then s else s.failColl k late).kickColls)

/-! ## TIDE (R365) -/

/-- Give an end to the holds that `p` selects. -/
def State.setTide (s : State) (p : TideHold → Bool) (t0 : TideHold → Nat) : State :=
  s.modColl fun y => { y with tideHolds := updWhere p (fun h => { h with ends := some (s.tideEnd h.rank (t0 h)) }) y.tideHolds }

def TideHold.waits (h : TideHold) (sgid : BitVec 12) (pair : Word) : Bool := h.sgid == sgid && h.pair == pair.toNat && h.ends.isNone

def execTide (p : Arrival) (sgid : BitVec 12) (pair : Word) (t0 : DWord) (s : State) : Out :=
  s.ingress p clsMgt 0 fun s =>
    match s.coll? sgid pair.toNat with
    | some k => s.setColl { k with tide := some t0.toNat }
    | none => s.setTide (fun h => h.waits sgid pair && decide (s.time < h.fallback)) (fun _ => t0.toNat)

/-- No TIDE message has come by the member's own TEND + TLEAD. -/
def execTideFallback (sgid : BitVec 12) (pair : Word) (s : State) : Out :=
  .next (s.setTide (fun h => h.waits sgid pair && decide (h.fallback ≤ s.time)) (·.fallback))

/-- The hold is over. -/
def TideHold.over (h : TideHold) (now : Nat) : Bool := match h.ends with | some t => decide (t ≤ now) | none => false

/-- The holds of a job whose time has come end. -/
def execTideHoldEnd (job : BitVec 16) (s : State) : Out :=
  .next (s.modColl fun y => { y with tideHolds := y.tideHolds.filter (fun h => !(h.job == job && h.over s.time)) })

end Sys2Proof.Machine
end

