-- ==== Sys2Proof/Machine/Boot.lean ====
section
/-! DEFINITION. The device window, boot, and resets (03 R44; 22 R366 to R373). -/

namespace Sys2Proof.Machine

open Sys2Proof

/-! ## The aperture (R44, R372) -/

/-- Every frame of the range is granted to the host. -/
def State.granted (s : State) (host a n : Nat) : Bool :=
  (List.range ((a % 65536 + n + 65535) / 65536)).all (fun i =>
    s.fw.grants.any (fun g => g.host == host && g.frame ≤ a / 65536 + i && a / 65536 + i < g.frame + g.count))

/-- The access of an admitted host to granted frames below the live capacity, none of them held by a
collective (log 52, PRESUMED) (log 53, DEDUCED). -/
def State.apertureOk (s : State) (host a n : Nat) : Bool :=
  Config.admitted host && s.memoryOpen && a + n ≤ s.capacity && s.granted host a n && !s.heldAt (.hbm a) n

/-- A read of a poisoned line returns POISON and no bytes (R355). -/
def execApertureRead (host : Nat) (loc : BitVec 40) (count : Nat) (s : State) : Out :=
  if s.apertureOk host loc.toNat count then
    let r := s.homeBytes loc.toNat count
    .next (r.2.modFw fun y => { y with hostReads := y.hostReads ++ [if s.isPoisoned (.hbm loc.toNat) count then none else some r.1] })
  else .next s

def execApertureWrite (host : Nat) (loc : BitVec 40) (bytes : List Byte) (s : State) : Out :=
  if s.apertureOk host loc.toNat bytes.length then .next (s.performAt (.hbm loc.toNat) bytes) else .next s

/-! ## Window registers (R44, R45) -/

/-- The request ring and RQTAIL take writes of admitted hosts once the ROM is done; every other offset without a row of its own
ignores them. -/
def execRegisterWrite (off : BitVec 40) (write : HostWrite DWord) (s : State) : Out :=
  let o := off.toNat
  if s.fw.dstat.rom || !Config.admitted write.host then .next s
  else if 0x1000 ≤ o ∧ o + 8 ≤ 0x41000 then .next (s.modFw fun y => { y with request := y.request.putN (o - 0x1000) (bytesOf write.value 8) })
  else if o = 0x41000 then .next (s.modFw fun y => { y with rqTail := write.value })
  else .next s

def execStagingWrite (port : BitVec 3) (off : BitVec 24) (bytes : List Byte) (s : State) : Out :=
  if s.fw.dstat.rom && (port == 0#3 || port == 4#3) && off.toNat + bytes.length ≤ 16777216 then
    .next (s.modFw fun y => { y with staging := y.staging.putN off.toNat bytes })
  else .next s

/-! ## What a host reads of the window (R44) -/

/-- DSTAT as its 64-bit value (R370). -/
def Dstat.value (d : Dstat) : DWord :=
  0#48 ++ d.err ++ 0#2 ++ BitVec.ofBool d.warm ++ BitVec.ofBool d.fabReady ++ BitVec.ofBool d.memReady ++ BitVec.ofBool d.fwRun
    ++ BitVec.ofBool d.fwOk ++ BitVec.ofBool d.rom

/-- A record of the error log (R359). -/
def ErrorRecord.bytes (r : ErrorRecord) : List Byte :=
  bytesOf r.time 8 ++ [r.cls, r.kind, r.action, 0] ++ bytesOf r.unit 4 ++ bytesOf r.grid 8 ++ bytesOf r.block 4 ++ bytesOf r.job 2 ++ [0, 0]

/-- The control block of a queue (R41). -/
def Queue.control (q : Queue) : List Byte :=
  let status := match q.status with | .running => 0 | .error => 1 | .faulted => 2
  [q.tail, q.head, q.retired, q.errseq, status].flatMap (fun x => bytesOf (BitVec.ofNat 64 x) 8) ++ List.replicate 24 0

/-- A byte of a queue's region (R40). -/
def Queue.byte (q : Queue) (o : Nat) : Byte :=
  if o < 256 * q.size then BitVec.ofNat 8 (((getKey (o / 256) q.ring).getD 0).toNat / 2 ^ (8 * (o % 256)))
  else q.control.getD (o - 256 * q.size) 0

/-- A byte of the error-log ring: record n lies at slot n mod 32,768. -/
def Firmware.logByte (y : Firmware) (o : Nat) : Byte :=
  let slot := o / 32
  let age := (y.elogCount + 32768 - 1 - slot) % 32768
  if y.elog.length ≤ age then 0
  else match y.elog[y.elog.length - 1 - age]? with | some r => r.bytes.getD (o % 32) 0 | none => 0

/-- The byte at an offset of the window outside the aperture; reserved offsets and those that only take writes read as zero. -/
def State.windowByte (s : State) (o : Nat) : Byte :=
  let y := s.fw
  if o < 8 then (bytesOf y.dstat.value 8).getD o 0
  else if y.dstat.rom then 0
  else if 0x1000 ≤ o && o < 0x41000 then y.request.get (o - 0x1000)
  else if 0x41000 ≤ o && o < 0x41018 then ([y.rqTail, y.rqHead, y.rpHead].flatMap (fun x => bytesOf x 8)).getD (o - 0x41000) 0
  else if 0x100000 ≤ o && o < 0x200000 then y.logByte (o - 0x100000)
  else if 0x200000 ≤ o && o < 0x200008 then (bytesOf (BitVec.ofNat 64 y.elogCount) 8).getD (o - 0x200000) 0
  else if 0x2000000000 ≤ o && o < 0x4000000000 then
    (s.queueOf (BitVec.ofNat 12 ((o - 0x2000000000) / 0x2000000))).byte ((o - 0x2000000000) % 0x2000000)
  else 0

/-- A host may read these bytes of the window outside the aperture: while ROM is set DSTAT alone, on ports 0 and 4 (R367); then
one on the admission list all but the staging area, and a queue's region only once HBM takes accesses (R44, R372). -/
def State.readable (s : State) (port host o n : Nat) : Bool :=
  if s.fw.dstat.rom then (port == 0 || port == 4) && o + n ≤ 8
  else Config.admitted host && o + n ≤ 0x8000000000 && !(o < 0x11000000 && 0x10000000 < o + n) && (o + n ≤ 0x2000000000 || s.memoryOpen)

/-- A host reads bytes of the window outside the aperture. -/
def State.hostRead (s : State) (port host o n : Nat) : State :=
  if !s.readable port host o n then s
  else s.modFw fun y => { y with hostReads := y.hostReads ++ [some ((List.range n).map (fun i => s.windowByte (o + i)))] }

/-! ## RSASSA-PSS (log 23) -/

/-- `m ^ 65537 mod n`. -/
def rsaPublic (m n : Nat) : Nat := (List.range 16).foldl (fun x _ => x * x % n) m * m % n

/-- A number from its bytes, the first the most significant, and back. -/
def natOfBe (bs : List Byte) : Nat := natOfBytes bs.reverse
def beBytes (x n : Nat) : List Byte := (bytesOf (BitVec.ofNat (8 * n) x) n).reverse

/-- MGF1 with SHA-256. -/
def mgf1 (seed : List Byte) (n : Nat) : List Byte :=
  ((List.range (ceilDiv n 32)).flatMap (fun i => sha256 (seed ++ beBytes i 4))).take n

/-- The encoded message of 384 bytes, 3,071 bits, fits the message. -/
def pssMatches (em msg : List Byte) : Bool :=
  let h := (em.drop 351).take 32
  let db0 := xorBytes (em.take 351) (mgf1 h 351)
  let db := (db0.headD 0 &&& 0x7F) :: db0.tail
  em.getD 383 0 == 0xBC && !(em.headD 0).msb && (db.take 318).all (· == 0) && db.getD 318 0 == 1
    && sha256 (List.replicate 8 0 ++ sha256 msg ++ db.drop 319) == h

/-- SIG verifies over a message under a modulus: both are numbers in memory, least significant byte first (R3; log 23). -/
def rsaVerify (modulus sig msg : List Byte) : Bool :=
  let n := natOfBytes modulus
  let x := natOfBytes sig
  n != 0 && x < n && pssMatches (beBytes (rsaPublic x n) 384) msg

/-! ## The ROM checks (R366 to R369) -/

def imageField (m : Memory) (off n : Nat) : Nat := natOfBytes (m.getN off n)

def imageLength (m : Memory) : Nat := imageField m 0xC 4

def formatOk (m : Memory) : Bool :=
  imageField m 0 4 == 0x464D5731 && imageField m 4 2 == 1 && imageField m 6 2 == 0 && imageField m 0x30 208 == 0
    && imageLength m % 64 == 0 && 64 ≤ imageLength m && imageLength m ≤ 16776192

/-- The error of the first check that fails. -/
def romError (m : Memory) : Option (BitVec 8) :=
  if !formatOk m then some 4
  else if natOfBe (sha256 (m.getN 0x100 384)) != Config.keyHash.toNat then some 1
  else if !rsaVerify (m.getN 0x100 384) (m.getN 0x280 384) (m.getN 0 256) then some 1
  else if m.getN 0x10 32 != sha256 (m.getN 0x400 (imageLength m)) then some 2
  else if imageField m 8 4 < Config.minSvn.toNat then some 3
  else none

/-- M extended by a DIGEST and an SVN (R369). -/
def extendBy (old : BitVec 256) (digest svn : List Byte) : BitVec 256 := BitVec.ofNat 256 (natOfBe (sha256 (beBytes old.toNat 32 ++ digest ++ svn)))

/-- The measurement of the image (R369). -/
def extend (old : BitVec 256) (m : Memory) : BitVec 256 := extendBy old (m.getN 0x10 32) (m.getN 8 4)

/-- Firmware extends M in the same way, by a digest and a version of its choice. -/
def State.extendM (s : State) : State :=
  if !s.fw.dstat.fwRun then s
  else
    let d := s.drawN 2
    d.2.modFw fun y => { y with measure := extendBy y.measure (bytesOf (BitVec.ofNat 256 (d.1 0)) 32) (bytesOf (BitVec.ofNat 32 (d.1 1)) 4) }

/-- While ROM is set, the window is reached on ports 0 and 4 alone (R367). -/
def execBootgo (write : PortWrite) (s : State) : Out :=
  if write.value != 1#64 || s.fw.dstat.fwRun || !s.fw.dstat.rom || !(write.port == 0#3 || write.port == 4#3) then .next s
  else
    match romError s.fw.staging with
    | some e => .next (s.modFw fun y => { y with staging := [], dstat := { y.dstat with err := e } })
    | none => .next (s.modFw fun y => { y with
        measure := extend y.measure y.staging, staging := [], dstat := { y.dstat with fwOk := true, fwRun := true, rom := false } })

/-! ## Resets (R371 to R373) -/

/-- The state after a reset: what R371 keeps, and the model's own counters (log 1). `warm` keeps HBM. The boot self-test fails
some cores, a free choice, and the others of each die are numbered densely (R9). -/
def State.afterReset (s : State) (warm : Bool) : State :=
  let r := State.reset
  let d := s.drawN 192
  let pass := fun (die : Nat) => ((List.range 96).filter (fun i => d.1 (96 * die + i) % 2 = 1)).length
  { r with
    ctl := { s.ctl with oracle := d.2.ctl.oracle, consuming := none, inPacket := [], waiting := [] }
    work := { r.work with liveCores := (List.range 192).filter (fun c => c % 96 < pass (c / 96)) }
    mem := { r.mem with hbm := if warm then s.mem.hbm else [], poisoned := if warm then s.mem.poisoned else [] }
    repair := { r.repair with retiredChannels := s.repair.retiredChannels, erasures := s.repair.erasures, remaps := s.repair.remaps }
    fw := { r.fw with resetCount := s.fw.resetCount + 1, dstat := { r.fw.dstat with warm } } }

/-- The host's warm reset, once power is down (R373). -/
def execWarmReset (s : State) : Out :=
  if s.fw.resetPending && s.power.now = 0 then .next (s.afterReset true) else .next s

def execColdReset (s : State) : Out := .next (s.afterReset false)

/-- The pin resets at once, as a warm reset does (log 25). -/
def execResetPin (s : State) : Out := .next (s.afterReset true)

/-- A first route table is loaded and the links are trained. -/
def State.fabReady (s : State) : State :=
  s.modFw fun y => { y with dstat := { y.dstat with fabReady := y.dstat.fabReady || (y.links.roswald && !s.fab.routes.isEmpty) } }

def execLinkTraining (link : LinkKind) (ok : Bool) (s : State) : Out :=
  match link with
  | .baseDie => .next (s.modFw fun y => { y with
      links := { y.links with baseDie := ok }
      dstat := if ok then { y.dstat with memReady := true } else { y.dstat with err := 5 } })
  | .roswald =>
      let s := s.modFw fun y => { y with links := { y.links with roswald := ok }, dstat := if ok then y.dstat else { y.dstat with err := 6 } }
      .next (if ok then s.fabReady else s)
  | .ultraEthernet => .next (s.modFw fun y => { y with links := { y.links with ultraEthernet := ok } })

end Sys2Proof.Machine
end

