-- ==== Sys2Proof/Machine/Issue.lean ====
section
/-! DEFINITION. Fetching an instruction, chained groups, and choosing what issues (05 R73 to R78, R84;
06 R111 to R113). -/

namespace Sys2Proof.Machine

open Sys2Proof

/-! ## Pipes and chained groups (R78, R84) -/

inductive Pipe where
  | none | valu | sfu | uni | mem | xln | mma
deriving DecidableEq, Repr

/-- The pipe numbers by which the budget of R113 is drawn down. -/
def Pipe.num : Pipe → Nat
  | .none => 0 | .valu => 1 | .sfu => 2 | .uni => 3 | .mem => 4 | .xln => 5 | .mma => 6

/-- The pipe of a base word; a reserved opcode has none, and neither has a reserved M of 0x7E (R84). -/
def pipeOf (w : Word) : Pipe :=
  let op := (bits w 24 7).toNat
  if op = 0 || op = 0x3F || op = 0x7F || (op = 0x7E && 2 ≤ (bits w 0 2).toNat) then .none
  else if 0x33 ≤ op && op ≤ 0x3A then .sfu
  else if op ≤ 0x3F then .valu
  else if op = 0x4E || op = 0x4F then .mem
  else if op ≤ 0x5A then .uni
  else if op ≤ 0x5F then .xln
  else if op ≤ 0x6F then .mem
  else if op ≤ 0x77 then .mma
  else if op ≤ 0x7C then .mem
  else if op = 0x7E && bits w 0 2 == 1#2 then .mem
  else .uni

abbrev CodePacket := Vector Word 3

def slotWord (p : CodePacket) (k : Nat) : Word := p.toList.getD k 0

/-- Words of the instruction whose base word is `w`. -/
def wordCount (w : Word) : Nat := if isX (bits w 24 7) then 2 else 1

/-- The pipes of the members of a chained group from slot `k` on. -/
def groupPipes (p : CodePacket) : Nat → Nat → List Pipe
  | 0, _ => []
  | n + 1, k =>
      if 3 ≤ k then []
      else
        let w := slotWord p k
        pipeOf w :: (if bit w 31 then groupPipes p n (k + wordCount w) else [])

/-- The member in slot `k` meets a chain fault. -/
def chainFaultAt (p : CodePacket) (k : Nat) : Bool :=
  let w := slotWord p k
  let next := k + wordCount w
  bit w 31 && (decide (3 ≤ next) || (pipeOf w != .none && (groupPipes p 3 next).contains (pipeOf w)))

/-! ## Fetch (R73 to R76) -/

/-- The trap of a code page, by R75. -/
def State.codeTrap (s : State) (job : BitVec 16) (va : DWord) : Option Cause :=
  match s.leaf? job va with
  | none => some .noMapping
  | some lf =>
      if pteX lf.pte && pteShst lf.pte == shPrivate && pteFmt lf.pte == 0#4 && !pteKy lf.pte then none else some .permission

/-- Where a code byte lies. -/
def State.codePlace (s : State) (job : BitVec 16) (va : DWord) : Option Place := (s.leaf? job va).map (·.place va)

/-- A word of code, as it stands in memory when the packet is fetched: after a store into running code that is the new word once the
store has come to its home (R76; log 83, DESIGN CHOICE). The manual names no packet that fetches code from another device, so such a
word is a free value (log 6). -/
def State.fetchWord (s : State) (job : BitVec 16) (va : DWord) : Word × State :=
  match s.codePlace job va with
  | some (.hbm a) => (ofBytes 32 (s.mem.hbm.getN a 4), s)
  | _ => let r := s.draw; (BitVec.ofNat 32 r.1, r.2)

def State.fetchPacket (s : State) (job : BitVec 16) (va : DWord) : CodePacket × State :=
  let x := s.fetchWord job va
  let y := x.2.fetchWord job (va + 4)
  let z := y.2.fetchWord job (va + 8)
  (#v[x.1, y.1, z.1], z.2)

/-- The packet carries an uncorrectable error. -/
def State.codePoisoned (s : State) (job : BitVec 16) (va : DWord) : Bool :=
  [0, 4, 8].any (fun i => match s.codePlace job (va + BitVec.ofNat 64 i) with
    | some p => s.isPoisoned p 4
    | none => false)

/-- The class of the destination that an opcode gives the D field of a word, with the number of its registers; the fields that tell
apart the instructions of one opcode are M and F (R84, R325). -/
def wordDst (x : Enc) : Nat × Nat :=
  let op := x.op.toNat
  let m := x.m.toNat
  if op = 0 || op = 0x3F then (0, 1)
  else if [0x17, 0x1B, 0x28, 0x29, 0x4A, 0x57, 0x5C].contains op then (3, 1)
  else if op = 0x1C then (if m = 0 then 1 else 0, 1)
  else if op ≤ 0x3E || op = 0x5B || op = 0x5D || op = 0x5E || op = 0x68 || op = 0x72 then (1, 1)
  else if op ≤ 0x4C || op = 0x4E then (2, 1)
  else if op = 0x5F then (if m = 0 then 3 else if m = 3 then 0 else 1, 1)
  else if op = 0x60 || op = 0x62 || op = 0x64 then (1, regsOfWd (bits x.f 17 3))
  else if op = 0x6E || op = 0x77 then (4, 1)
  else if op = 0x70 || op = 0x71 || op = 0x73 || op = 0x74 || op = 0x76 then (5, 1)
  else if op = 0x79 || op = 0x7E then (if m = 0 then 2 else 0, 1)
  else if op = 0x7A then (if bits x.f 23 3 == 5#3 then 3 else 0, 1)
  else if op = 0x7B then (if 2 ≤ m then 2 else 0, 1)
  else if op = 0x7C then (if m = 1 || m = 2 then 2 else 0, 1)
  else (0, 1)

/-- The destination descriptor of a word that decodes to no instruction, by its D field. -/
def wordDescriptor (w e : Word) : BitVec 16 :=
  let x := Enc.ofWords w e
  let d := wordDst x
  if d.1 = 0 then 0 else 0#4 ++ BitVec.ofNat 2 (d.2 - 1) ++ x.d ++ BitVec.ofNat 4 d.1

/-- What fetch finds for a fragment at its program counter. -/
inductive Fetched where
  /-- A fetch fault, with %taddr. -/
  | bad (cause : Cause) (addr : DWord)
  /-- An uncorrectable error in the code. -/
  | poison (addr : DWord)
  /-- An encoding that is no instruction (R85), with the descriptor of the destination that its words name (R323, R325). -/
  | illegal (dst : BitVec 16)
  | ok (i : Instr) (chainFault : Bool) (pipe : Pipe)
deriving DecidableEq, Repr

/-- Fetch and decode the instruction at a program counter (log 7, DEDUCED). -/
def State.fetch (s : State) (job : BitVec 16) (k : Kernel) (pc : DWord) : Fetched × State :=
  if !k.inside pc then (.bad .illegalOp pc, s)
  else
    let va := k.packet pc
    let first := s.codeTrap job va
    let last := s.codeTrap job (va + 11)
    match (match first with | some c => some c | none => last) with
    | some c => (.bad c va, s)
    | none =>
        if s.codePoisoned job va then (.poison va, s)
        else
          let r := s.fetchPacket job va
          let off := pc.toNat - va.toNat
          if off % 4 != 0 || !(boundarySlots r.1).contains (off / 4) then (.bad .misaligned va, r.2)
          else
            match decodeSlot r.1 (off / 4) with
            | .error _ => (.illegal (wordDescriptor (slotWord r.1 (off / 4)) (slotWord r.1 (off / 4 + 1))), r.2)
            | .ok i => (.ok i (chainFaultAt r.1 (off / 4)) (pipeOf (slotWord r.1 (off / 4))), r.2)

/-! ## Candidates (R111 to R113, R340, R365) -/

/-- The words of a packet without changing the state. -/
def State.peekPacket (s : State) (job : BitVec 16) (va : DWord) : CodePacket := (s.fetchPacket job va).1

/-- The packet at a program counter holds an instruction of a pipe. -/
def State.nextUses (s : State) (job : BitVec 16) (k : Kernel) (pc : DWord) (pipe : Pipe) : Bool :=
  let p := s.peekPacket job (k.packet pc)
  (boundarySlots p).any (fun i => pipeOf (slotWord p i) == pipe)

/-- The instruction at a program counter, if there is one. -/
def State.nextInstr? (s : State) (job : BitVec 16) (k : Kernel) (pc : DWord) : Option Instr :=
  match (s.fetch job k pc).1 with
  | .ok i _ _ => some i
  | .bad _ _ | .poison _ | .illegal _ => none

def State.budget (s : State) (core : Nat) : Int := ((s.power.budgets.find? (fun x => x.1 == core)).map (·.2)).getD 0

/-- MMA dispatch is withheld: the core's budget is negative, or a TIDE hold of the job stands (R365). -/
def State.mmaHeld (s : State) (b : Block) (g : Grid) : Bool :=
  decide (s.budget b.core < 0) || s.coll.tideHolds.any (fun h => h.job == g.job && s.holds h)

/-- The instruction finds room where it must: in its engine queue (R233), among the device's 64 collectives (R308). -/
def State.hasRoom (s : State) (b : Block) (w : Warp) (i : Instr) : Bool :=
  match i with
  | .cpy _ _ _ _ _ _ _ q _ | .qfence _ _ q _ _ => !b.queueFull w.id q
  | .cpyt _ _ _ _ _ _ _ q _ _ _ => !b.queueFull w.id q
  | .coll _ _ => s.coll.colls.length < 64
  | _ => true

/-- A unit that a packet needs is under a targeted self-test (R356): a lane of the partition, the register file or the buffers of
the core, or the core's matrix unit or SFUs for a packet of their pipe (log 82, DESIGN CHOICE). -/
def State.withheld (s : State) (job : BitVec 16) (b : Block) (w : Warp) (pc : DWord) : Bool :=
  s.repair.tests.any (fun x => (bits x.2 0 8).toNat == b.core &&
    (match x.1 with
     | .lane => (bits x.2 8 2).toNat == w.ctx.toNat / 8
     | .regFile | .buffer => true
     | .matrix => s.nextUses job b.kernel pc .mma
     | .sfu => s.nextUses job b.kernel pc .sfu
     | .l2 | .hbm | .roswald | .bridge => false))

/-! ## Shadows (R351, R352) -/

/-- The result comes from outside the warp's own registers: it goes to the load-value queue (R351). -/
def fromOutside (i : Instr) : Bool :=
  match i with
  | .ld _ _ _ | .sld _ _ _ | .lde _ _ _ | .ldf _ _ _ | .ldt _ _ _ _ _ _ | .accld _ _ _ _ | .atom _ _ _ | .alw _ _ _ | .balw _ _ _ _ | .acq _ _ _ _
  | .reclaim _ _ _ | .reclaimd _ _ | .collw _ _ _ | .spawn _ _ _ | .bart _ _ _ _ _ | .ret _ => true
  | .srr _ _ sl | .vsrr _ _ sl => [0x010, 0x011, 0x040, 0x071].contains sl.toNat
  | _ => false

/-- The operation leaves the registers of the warp, and waits until its shadow has retired the same instruction (R352). Arrivals
at barriers, spills of CALL and CALLI, what starts a page transition, and the shared registers that SRW writes leave them too (log
82, DEDUCED). -/
def leavesRegs (i : Instr) : Bool :=
  match i with
  | .st _ _ _ | .sst _ _ _ | .stf _ _ _ | .stt _ _ _ _ _ | .accst _ _ _ _ | .atom _ _ _ | .red _ _ _ | .redm _ _ _ | .mst _ _ _
  | .cpy _ _ _ _ _ _ _ _ _ | .cpyt _ _ _ _ _ _ _ _ _ _ _ | .qfence _ _ _ _ _ | .coll _ _ | .rel _ _ _ _ _ _ | .bind _ _ _ _ _
  | .pin _ _ _ | .unpin _ _ | .reclaim _ _ _ | .reclaimd _ _ | .reform _ _ _ | .spawn _ _ _ | .yield _ _ _ | .exit _
  | .bar _ _ _ | .gbar _ _ _ | .barm _ _ _ _ | .bara _ _ _ _ | .call _ _ | .calli _ _ _ _ | .touch _ _ | .evict _ _ | .srw _ _ _
  | .preq _ _ | .trap _ _ | .brk _ _ | .rett _ _ => true
  | .ldf _ _ m => m.q == 1#2
  | _ => false

/-- What the shadow of a warp has yet to retire. -/
def State.behind (s : State) (w : Nat) : List Unmatched := s.work.unmatched.filter (fun x => x.warp.id == w)

/-- Entries of the load-value queue of a partition, of 256 (R351). -/
def State.loadValues (s : State) (core part : Nat) : Nat :=
  (s.work.unmatched.filter (fun x => x.queued && x.warp.ctx.toNat / 8 == part &&
    (match (s.warp? x.warp.id).bind (fun w => s.block? w.block) with | some b => b.core == core | none => false))).length

/-- The shadow of a leading warp lets its next instruction go: a shadow that can issue comes first (R351), an operation that leaves the
registers waits for it (R352), and a result from outside needs room in the load-value queue. -/
def State.shadowLets (s : State) (b : Block) (w : Warp) (i : Instr) : Bool :=
  ((s.behind w.id).isEmpty || (s.work.stalled.contains w.id && !leavesRegs i))
    && !(fromOutside i && 256 ≤ s.loadValues b.core (w.ctx.toNat / 8))

/-- The instruction can dispatch (R98, R111; log 63, DEDUCED). -/
def State.canDispatch (s : State) (b : Block) (g : Grid) (w : Warp) (pc : DWord) : Bool :=
  match s.nextInstr? g.job b.kernel pc with
  | some i => s.hasRoom b w i && (!g.launch.shadow || s.shadowLets b w i)
  | none => true

/-- The fragment has begun the packet at its program counter and goes on through it (log 63, DEDUCED). -/
def State.midPacket (s : State) (f : Frag) : Bool := s.ctl.inPacket.contains (f.id, f.pc)

/-- The fragment can issue now. -/
def State.candidate (s : State) (f : Frag) : Bool :=
  f.run == .ready &&
    match s.warp? f.warp with
    | none => false
    | some w =>
        match s.block? w.block with
        | none => false
        | some b =>
            match s.grid? b.grid with
            | none => false
            | some g => b.run == .placed && !b.saving && !s.gangRestoring b && !s.filling g.job && !(s.frozen w && !s.midPacket f) && !(s.nextUses g.job b.kernel f.pc .mma && s.mmaHeld b g)
              && !s.withheld g.job b w f.pc && s.canDispatch b g w f.pc

/-- The partition of a fragment, by core and partition number. -/
def State.partition (s : State) (f : Frag) : Option (Nat × Nat) :=
  match s.warp? f.warp with
  | none => none
  | some w => (s.block? w.block).map (fun b => (b.core, w.ctx.toNat / 8))

/-- The priority class of a fragment. -/
def State.prio (s : State) (f : Frag) : Nat :=
  match s.warp? f.warp with
  | none => 0
  | some w => match s.block? w.block with
    | none => 0
    | some b => match s.grid? b.grid with | none => 0 | some g => g.launch.prio

def State.age (s : State) (f : Frag) : Nat := s.cycle - f.dispatched

/-- The fragment `x` goes before `y` (R111). -/
def State.before (s : State) (x y : Frag) : Bool :=
  let ax := s.age x
  let ay := s.age y
  if 256 ≤ ax || 256 ≤ ay then decide (ay < ax)
  else s.prio y < s.prio x || (s.prio x == s.prio y && decide (ay < ax))

/-- The candidates of each partition that no other goes before. -/
def State.choices (s : State) : List Nat :=
  let cs := s.work.frags.filter s.candidate
  (cs.filter (fun x => !cs.any (fun y => s.partition y == s.partition x && s.before y x))).map (·.id)

/-! ## Dispatch and what follows an instruction -/

/-- MMA and MMAZ, whose residues are compared (R353). -/
def isMma (i : Instr) : Bool :=
  match i with
  | .mma _ _ _ _ _ _ _ _ _ | .mmaz _ _ _ _ _ _ _ _ _ => true
  | _ => false

/-- Draw a core's energy budget down (R113). -/
def State.drawDown (s : State) (core : Nat) (cost : Int) : State :=
  s.modPower fun y => { y with budgets := setKey core (((y.budgets.find? (fun x => x.1 == core)).map (·.2)).getD 0 - cost) y.budgets }

/-- Name the fragment that executes and what fetch found. A packet dispatches with its first instruction: its age starts
anew then (R111), and each of its instructions draws the budget down by its pipe, once (R113). -/
def State.dispatch (s : State) (f : Frag) (core : Nat) (i : Instr) (chainFault : Bool) (pipe : Pipe) : State :=
  let again := s.ctl.waiting.contains f.id
  let s := if s.midPacket f then s.setFrag f else s.setFrag { f with dispatched := s.cycle }
  let s := if again then s else s.drawDown core (Config.energy pipe.num : Int)
  { s with ctl := { s.ctl with cur := some f.id, chainFault, retired := false, consuming := s.ctl.consuming.map (fun x => { x with mma := isMma i, shadow := leavesRegs i }) } }

/-- The first slot of a packet of the fragment's kernel. -/
def State.atPacket (s : State) (f : Frag) : Bool :=
  match (s.warp? f.warp).bind (fun w => s.block? w.block) with
  | none => true
  | some b => b.kernel.packet f.pc == f.pc

/-- Note whether the fragment `f`, as it stood before its instruction, is within a packet after it: it has not
parked, and it waits unretired where it was or has retired short of the packet's end. -/
def State.notePacket (s : State) (f : Frag) (retired : Bool) : State :=
  let rest := s.ctl.inPacket.filter (fun x => x.1 != f.id)
  let entry := match s.frag? f.id with
    | none => []
    | some x => if x.run == .ready && (if retired then !s.atPacket x else x.pc == f.pc) then [(f.id, x.pc)] else []
  { s with ctl := { s.ctl with
    inPacket := rest ++ entry, waiting := s.ctl.waiting.filter (· != f.id) ++ (if retired || entry.isEmpty then [] else [f.id]) } }

/-- The STEP trap that follows a retired instruction of the fragment `f` (R339) (log 8, DEDUCED). -/
def State.stepTrap (s : State) (f : Frag) : State :=
  if f.handler then s
  else
    match s.frag? f.id with
    | none => s
    | some f' =>
        match s.warp? f'.warp with
        | none => s
        | some w =>
            match s.block? w.block with
            | none => s
            | some b =>
                if bit w.dctl 0 && f'.run == .ready then s.takeTrap f' w b { cause := .step, lanes := f'.mask, addr := 0, info := 0 } else s

/-- A fragment that does not wait for an allowance after its instruction has no place among the waiters (R301). -/
def State.leaveWaits (s : State) (f : Nat) : State :=
  match s.frag? f with
  | some x => (match x.run with | .parked .allowance _ => s | _ => s.forgetWaits [f])
  | none => s

/-- What follows an instruction: the note of its packet, and the STEP trap after one that retired. -/
def State.afterIssue (s : State) (f : Frag) : State :=
  let retired := s.ctl.retired
  let s := (({ s with ctl := { s.ctl with cur := none, chainFault := false, retired := false, consuming := none } } : State).notePacket f retired).leaveWaits f.id
  if !retired then s else s.stepTrap f

/-! ## Leading warps (R351, R352) -/

/-- The instruction of the fragment `f` has trapped or ended its block. -/
def State.trapped (s : State) (f : Frag) : Bool :=
  match s.frag? f.id with
  | none => true
  | some x => (x.handler && !f.handler) || (match x.run with | .atEntry _ | .stopped => true | .ready | .parked _ _ => false)

/-- A retired instruction is the shadow's to match, unless it waited for the shadow. -/
def State.noteUnmatched (before s : State) (w : Warp) (i : Instr) : State :=
  if leavesRegs i then s
  else s.modWork fun y => { y with
    unmatched := (y.unmatched.filter (fun x => (s.warp? x.warp.id).isSome)) ++ [{ warp := w, frags := before.warpFrags w.id, queued := fromOutside i : Unmatched }] }

/-- The shadow's cause or lanes of a trap differ: a lane or an SFU is at fault (R352), which one a free value (log 64, DESIGN
CHOICE). -/
def State.mismatch (s : State) (f : Frag) (w : Warp) (b : Block) : State :=
  let d := s.drawN 2
  let u : Unit9 := if d.1 0 % 2 = 0 then .lane else .sfu
  (({ d.2 with ctl := { d.2.ctl with cur := none, chainFault := false, retired := false, consuming := none } } : State)).consume f w b
    (u, coreUnit u b.core (w.ctx.toNat / 8) (d.1 1)) f.mask 0 0

/-- What becomes of an instruction of a leading warp, `out` being the state after it and `s` the one at its fetch: a trap waits until
the shadow has come to it, and there a mismatch is consumed; what has retired is the shadow's to match. -/
def State.leading (s : State) (f : Frag) (w : Warp) (b : Block) (i : Instr) (out : State) : State :=
  let retired := out.ctl.retired
  if !retired && out.trapped f && !(s.behind w.id).isEmpty then s
  else if !retired && out.trapped f && !leavesRegs i && s.ctl.consuming.any (fun x => x.frag == f.id) then s.mismatch f w b
  else
    let t := out.afterIssue f
    if retired then s.noteUnmatched t w i else t

/-- The shadow of a warp retires the oldest instruction it has to, or cannot issue in this cycle. -/
def State.shadowStep (s : State) (w : Nat) (stall : Bool) : State :=
  s.modWork fun y =>
    if stall then { y with stalled := insertNat w y.stalled }
    else { y with unmatched := y.unmatched.takeWhile (fun x => x.warp.id != w) ++ (y.unmatched.dropWhile (fun x => x.warp.id != w)).tail }

/-- What a leading warp has retired beyond its shadow's last match is discarded as a forced save begins, and reissues (R352). -/
def State.unwind (s : State) (w : Nat) : State :=
  match s.behind w with
  | [] => s
  | x :: _ =>
      let ids := (s.warpFrags w).map (·.id)
      let s := s.forgetEarly (x.warp.serials 0xFFFFFFFF#32)
      (s.dropFrags ids).modWork fun y => { y with
        frags := y.frags ++ x.frags
        warps := updWhere (fun v => v.id == w) (fun v => { v with threads := x.warp.threads, tvec := x.warp.tvec, frame := x.warp.frame }) y.warps
        unmatched := y.unmatched.filter (fun z => z.warp.id != w) }

end Sys2Proof.Machine
end

