-- ==== Sys2Proof/Machine/LoadStore.lean ====
section
/-! DEFINITION. Loads, stores, full/empty forms, typed loads and page control (11 R222 to R225, R230 to
R232). -/

namespace Sys2Proof.Machine

open Sys2Proof

/-! ## LD, ST, SLD, SST (R222, R223) -/

def execLd (h : Head) (d : BitVec 6) (m : MemOp) (s : State) : Out :=
  issue s 2 h (.vec d (memRegs m)) (memUses m) fun c =>
    c.loadLanes none (c.lanesOf m false (Mask.lanes c.act) (memBytes m) .read noKeyRule noKeyRule) fun s data =>
      c.retireIn s (writeLoaded c.f d m c.act data)

def execSt (h : Head) (d : BitVec 6) (m : MemOp) (s : State) : Out :=
  issue s 2 h .none (.v d (memRegs m) :: memUses m) fun c =>
    c.resolve none (c.lanesOf m false (Mask.lanes c.act) (memBytes m) .write noKeyRule noKeyRule) fun ok =>
      let ps := ok.map (fun x => c.piece m.sp x (laneBytes c.f d x.acc.lane (memBytes m)))
      c.paid (storeCosts ps) fun s => c.storePieces s m.col false ps

/-- A datum extended to 64 bits (R223). -/
def loadedDWord (m : MemOp) (bs : List Byte) : DWord :=
  match memBytes m, m.sg with
  | 1, true => (ofBytes 8 bs).signExtend 64
  | 2, true => (ofBytes 16 bs).signExtend 64
  | _, _ => ofBytes 64 bs

def execSld (ch : Bool) (d : BitVec 6) (m : MemOp) (s : State) : Out :=
  issueU s 2 ch (.uni d) [.u m.a] fun c =>
    let l := Mask.lowest c.f.mask
    c.loadLanes (some c.f.mask) (c.lanesOf m false [l] (memBytes m) .read noKeyRule noKeyRule) fun s data =>
      c.retireIn s (c.f.setU d (loadedDWord m (data l)))

/-- A store of the whole fragment: one access, a store of every thread. -/
def execSst (ch : Bool) (d : BitVec 6) (m : MemOp) (s : State) : Out :=
  issueU s 2 ch .none [.u d, .u m.a] fun c =>
    c.resolve (some c.f.mask) (c.lanesOf m false [Mask.lowest c.f.mask] (memBytes m) .write noKeyRule noKeyRule) fun ok =>
      let ps := ok.map (fun x => { c.piece m.sp x (bytesOf (c.f.getU d) (memBytes m)) with threads := c.w.serials c.f.mask })
      c.paid (storeCosts ps) fun s => c.storePieces s m.col false ps

/-! ## LDF, STF (R177, R178, R224) -/

/-- The granule that a lane of LDF names. -/
def LaneOk.granule (x : LaneOk) : Option (Nat × Buf × Nat) :=
  match x.place with
  | .buf b u a => some (b, u, a / 16)
  | _ => none

/-- The longest full/empty wait, in cycles (R179). -/
def emptyLimit : Nat := 16777216

/-- The load is performed at its issue, when its granules are full: what was read early of them does not count (R103, R178). -/
def execLdf (h : Head) (d : BitVec 6) (m : MemOp) (s : State) : Out :=
  issue s 2 h (.vec d (memRegs m)) (memUses m) fun c =>
    c.resolveRead none (c.lanesOf m false (Mask.lanes c.act) (memBytes m) .read noKeyRule noKeyRule) fun ok =>
      c.settled c.act (ok.map (fun x => (x.place, x.acc.len))) fun c =>
        let gs := distinct (ok.filterMap LaneOk.granule)
        let isEmpty := fun (x : LaneOk) => match x.granule with | some y => !c.b.isFull y.2.1 y.2.2 | none => false
        let empty := ok.filter isEmpty
        if !empty.isEmpty then
          (if emptyLimit ≤ c.f.emptyWait then c.laneTrap c.s none .emptyTimeout 0 (empty.map (·.acc))
           else c.poisonCheck none (ok.filter (fun x => !isEmpty x)) (c.park .fullEmpty))
        else c.poisonCheck none ok
          (let r := ok.foldl (fun (r : List (Nat × List Byte) × State) x =>
             let y := r.2.readNow c.f c.w c.b x.acc.lane x.place x.acc.len
             (r.1 ++ [(x.acc.lane, y.1)], y.2)) ([], c.s)
           let s := if m.q == 1#2 then gs.foldl (fun s x => s.modBlock x.1 (fun b => b.clearFull x.2.1 [x.2.2])) r.2 else r.2
           c.retireIn s (writeLoaded c.f d m c.act (fun l => (getKey l r.1).getD [])))

def execStf (h : Head) (d : BitVec 6) (m : MemOp) (s : State) : Out :=
  issue s 2 h .none (.v d (memRegs m) :: memUses m) fun c =>
    c.resolve none (c.lanesOf m false (Mask.lanes c.act) (memBytes m) .write noKeyRule noKeyRule) fun ok =>
      c.storePieces c.s m.col true (ok.map (fun x => c.piece m.sp x (laneBytes c.f d x.acc.lane (memBytes m))))

/-! ## LDE (R225) -/

/-- The element index of a lane, unsigned. -/
def elemIndex (f : Frag) (m : MemOp) (l : Nat) : Nat := if m.ix then (f.getV m.b l).toNat * 2 ^ m.os.toNat else 0

/-- Check some bytes of an element at an offset from the base: on their own page, of the base page's FMT and
BG, unkeyed, and in t within TLSB. -/
def Ctx.checkElem (c : Ctx) (m : MemOp) (l : Nat) (base : DWord) (off n : Nat) (tag : BitVec 6) : LaneAcc :=
  let a := base + BitVec.ofNat 64 off
  { lane := l, addr := a, va := laneVa c.w m.sp l a, len := n,
    check := c.s.check c.g c.w c.b m.sp l a n .read pteKy (fun e => pteTag e != tag) }

/-- What the base page decides for a lane: the trap, or its FMT and BG and the offset of the lane's bytes. -/
def Ctx.elemChecks (c : Ctx) (m : MemOp) (l : Nat) : List LaneAcc × Option (BitVec 128 × ElemLoc) :=
  let base := c.f.getU m.a + disp12 m.imm
  let bva := laneVa c.w m.sp l base
  let bad := fun (row : Nat) (cause : Cause) =>
    ([({ lane := l, addr := base, va := bva, len := 1, check := .bad row cause 0 } : LaneAcc)], (none : Option (BitVec 128 × ElemLoc)))
  if m.sp == .t && c.g.launch.tlsb ≤ base.toNat then bad 3 .bufferBounds
  else if !canonical bva then bad 3 .noMapping
  else match c.s.leaf? c.g.job bva with
  | none => bad 4 .noMapping
  | some lf =>
      if pteFmt lf.pte == 0#4 then bad 5 .permission
      else if bva.toNat % elemAlign (pteFmt lf.pte) != 0 then bad 2 .misaligned
      else
        let loc := elemLoc (pteFmt lf.pte) (pteBg lf.pte) (elemIndex c.f m l)
        let x := c.checkElem m l base loc.off loc.len (pteTag lf.pte)
        let ys := match loc.scale with | some o => [c.checkElem m l base o 1 (pteTag lf.pte)] | none => []
        (x :: ys, some (lf.pte, loc))

def execLde (h : Head) (d : BitVec 6) (m : MemOp) (s : State) : Out :=
  issue s 2 h (.vec d 1) (memUses m) fun c =>
    let per := (Mask.lanes c.act).map (fun l => (l, c.elemChecks m l))
    c.resolveRead none (per.flatMap (fun x => x.2.1)) fun ok =>
      c.fetchLines ok
        (c.replyTrap none false ok c.f.lineStatus
          (c.poisonCheck none ok
            (let r := ok.foldl (fun (r : List (Nat × List Byte) × State) x =>
               let y := r.2.loadBytes c.f c.w c.b x.acc.lane x.place x.acc.len (x.home c.f)
               (r.1 ++ [(x.acc.lane, y.1)], y.2)) ([], c.s)
             let word := fun l => match per.find? (fun x => x.1 == l) with
               | some (_, _, some (e, loc)) =>
                   let got := (r.1.filter (fun x => x.1 == l)).map (·.2)
                   elemWord (pteFmt e) loc (got.headD []) (((got.drop 1).headD []).headD 0)
               | _ => 0
             c.retireIn r.2 (c.f.setV d c.act word))))

/-! ## TOUCH, EVICT, PREF (R230 to R232) -/

/-- A lane that misses starts the transition of its page too, as its read would after the walk (R230). -/
def State.touchPage (s : State) (k : Check) : State :=
  match k with
  | .miss lf => s.wantPage (s.reLeaf lf)
  | _ => s

def execTouch (h : Head) (m : MemOp) (s : State) : Out :=
  issue s 2 h .none (memUses m) fun c =>
    let xs := c.lanesOf m false (Mask.lanes c.act) 1 .touch noKeyRule noKeyRule
    if m.q == 0#2 then
      c.resolve none xs fun ok =>
        c.fetchLines ok
          (c.replyTrap none true ok c.f.lineStatus (c.retire c.f))
    else if (worst xs).isSome then c.resolve none xs (fun _ => c.retire c.f)
    else
      let far := distinct (xs.filterMap (fun x => match x.check with
        | .ok (.far d a) _ => some (d, a / 64 * 64)
        | _ => none))
      c.paid (costs ((distinct (far.map (fun x => (x.1, x.2 / 256)))).map (fun g => (g.1, 1)))) fun s =>
        let s := xs.foldl (fun s x => (s.startWait c.b.core x.check).touchPage x.check) s
        c.retireIn (s.sendReads (c.s.jobKey c.g.job) .posted far) c.f

/-- EVICT acts on a SHARDED or PENDING page at once; it waits only for the states that R231 names (log 36, DEDUCED). -/
def evictCheck (k : Check) : Check :=
  match k with
  | .wait lf => if pteShst lf.pte == shSharded || pteShst lf.pte == shPending then .ok (.hbm 0) (some lf) else .wait lf
  | _ => k

/-- The page cannot leave its state yet: an operation on it is open, or a translation of it is held. -/
def State.evictBlocked (s : State) (lf : Leaf) : Bool :=
  let sh := pteShst (s.reLeaf lf).pte
  (sh == shGathered && (s.transition? lf.job lf.page).isSome) || ((sh == shGathered || sh == shPartial || sh == shPending) && s.pageHeld lf)

/-- A PARTIAL page finds no entry for its drain (R216). -/
def State.drainFull (s : State) (lf : Leaf) : Bool :=
  pteShst (s.reLeaf lf).pte == shPartial && !(s.pageEntryFree && s.canOpenAt lf)

def execEvict (h : Head) (m : MemOp) (s : State) : Out :=
  issue s 2 h .none (memUses m) fun c =>
    let xs := (c.lanesOf m false (Mask.lanes c.act) 1 .touch noKeyRule noKeyRule).map (fun x => { x with check := evictCheck x.check })
    c.resolve none xs fun ok =>
      let pages := distinct (ok.filterMap (·.leaf))
      if pages.any c.s.evictBlocked then c.waitIn c.s
      else if pages.any c.s.drainFull then c.park .page
      else c.retireIn (pages.foldl (fun s lf => s.evictPage (s.reLeaf lf)) c.s) c.f

/-- PREF changes no state that a program can see. -/
def execPref (h : Head) (m : MemOp) (s : State) : Out :=
  issue s 2 h .none (memUses m) fun c => c.retire c.f

end Sys2Proof.Machine
end

