-- ==== Sys2Proof/Machine/Buffers.lean ====
section
/-! DEFINITION. The steps of the store buffers that no instruction takes, and the end of a full/empty wait
(09 R179; 12 R252, R255). -/

namespace Sys2Proof.Machine

open Sys2Proof

/-- Release one entry of a fragment's store buffer, a free choice among those that may go (log 58, DEDUCED). The
fragment may have ended: its stores stay in their buffer (R157). -/
def execFsbRelease (frag : Nat) (s : State) : Out :=
  match s.work.blocks.find? (fun b => !(b.fsbOf frag).isEmpty) with
  | none => .next s
  | some b =>
      match releasable (b.fsbOf frag) with
      | [] => .next s
      | e :: es =>
          let r := s.draw
          .next (r.2.releaseEntry b ((e :: es).getD (r.1 % (es.length + 1)) e))

/-- Drain one entry of a block store buffer whose drain has started. -/
def execBsbDrain (block index : Nat) (s : State) : Out :=
  match s.block? block with
  | none => .next s
  | some b =>
      match b.bsb[index]?, s.grid? b.grid with
      | some e, some g => if e.draining && b.drainable e then .next (s.drainEntry b g.job e) else .next s
      | _, _ => .next s

/-- The cycles that a fragment has waited for full granules. -/
def Frag.waited (f : Frag) (now : Nat) : Nat := (f.endWait now).emptyWait

/-- An LDF at the limit of its wait is issued once more, and traps unless its granules are full. -/
def execEmptyTimeout (frag : Nat) (s : State) : Out :=
  match s.frag? frag with
  | none => .next s
  | some f =>
      match (s.warp? f.warp).bind (fun w => s.block? w.block) with
      | none => .next s
      | some b =>
          match s.grid? b.grid with
          | none => .next s
          | some g =>
              if !(b.run == .placed && (match f.run with | .parked .fullEmpty _ => true | _ => false) && emptyLimit ≤ f.waited s.cycle) then .next s
              else
                match s.fetch g.job b.kernel f.pc with
                | (.ok (.ldf h d m) cf pipe, s1) =>
                    match execLdf h d m (s1.dispatch (f.endWait s.cycle) b.core (.ldf h d m) cf pipe) with
                    | .next s2 => .next (s2.afterIssue f)
                    | .fault r => .fault r
                    | .refused r => .refused r
                | _ => .next s

end Sys2Proof.Machine
end

