-- ==== Sys2Proof/Machine/Flags.lean ====
section
/-! DEFINITION. Floating-point flags: what lanes raise, which trap they take, and how they merge
(02 R28; 18 R327). -/

namespace Sys2Proof.Machine

open Sys2Proof

/-- The exceptions in their priority order, with their bits and causes (R28). -/
def fpOrder : List (Nat × Cause) :=
  [(4, .fpInvalid), (3, .fpDivzero), (2, .fpOverflow), (1, .fpUnderflow), (0, .fpInexact)]

/-- The %xen of a lane. -/
def Warp.xen (w : Warp) (l : Nat) : Word := match w.threads.toList.getD l none with | some t => t.xen | none => 0

/-- The OR of what the active lanes raise. -/
def orFlags (act : Mask) (fl : Nat → Flags) : Flags := (Mask.lanes act).foldl (fun m l => m ||| fl l) 0

/-- The active lanes that raise an exception with its enable set. -/
def enabledLanes (w : Warp) (act : Mask) (fl : Nat → Flags) (b : Nat) : Mask :=
  maskOf (fun l => act.getLsbD l && (fl l).getLsbD b && (w.xen l).getLsbD b)

/-- The floating-point trap of an instruction: the highest enabled exception and its lanes. In handler mode
nothing traps on arithmetic (R327). -/
def Ctx.fpTrap (c : Ctx) (fl : Nat → Flags) : Option (Cause × Mask) :=
  if c.f.handler then none
  else fpOrder.findSome? (fun x =>
    let m := enabledLanes c.w c.act fl x.1
    if m = 0#32 then none else some (x.2, m))

/-- Retire a floating-point instruction that leaves the registers as in `f`, or take its trap. -/
def Ctx.fpRetire (c : Ctx) (fl : Nat → Flags) (f : Frag) : Out :=
  let all := orFlags c.act fl
  match c.fpTrap fl with
  | some (cause, m) => c.trapWith cause m 0 (c.descriptor ||| (((all &&& 0x1F#6).setWidth 64) <<< 16))
  | none => c.retire { f with fflags := c.f.fflags ||| all }

/-- A vector result with flags in each active lane. -/
def Ctx.fpVec (c : Ctx) (d : BitVec 6) (g : Nat → Nat × Flags) : Out :=
  c.fpRetire (fun l => (g l).2) (c.f.setV d c.act (fun l => BitVec.ofNat 32 (g l).1))

/-- A predicate result with flags in each active lane. -/
def Ctx.fpPred (c : Ctx) (d : BitVec 3) (g : Nat → Bool × Flags) : Out :=
  c.fpRetire (fun l => (g l).2) (c.f.setP d c.act (maskOf (fun l => (g l).1)))

end Sys2Proof.Machine
end

