-- ==== Sys2Proof/Machine/VectorFloat.lean ====
section
/-! DEFINITION. Vector floating-point instructions (07 R127 to R134). -/

namespace Sys2Proof.Machine

open Sys2Proof

/-- The mode of a 2-bit rounding field (R25). -/
def rm2 (m : BitVec 2) : Rm := rmOf m.toNat

/-- Round a value to FP32 (R26). -/
def toFp32 (mode : Rm) (v : Fv) : Nat × Flags := Fmt.fp32.round mode false v

/-- The shape of FADD: two FP32 operands, one rounding (R128). -/
def fpBinary (s : State) (h : Head) (d a b : BitVec 6) (rm : BitVec 2) (g : Fv → Fv → Fv) : Out :=
  issue s 1 h (.vec d 1) [.v a 1, .v b 1] fun c =>
    c.fpVec d (fun l => toFp32 (rm2 rm) (g (fp32 (c.f.getV a l)) (fp32 (c.f.getV b l))))

def execFadd (h : Head) (d a b : BitVec 6) (rm : BitVec 2) (s : State) : Out :=
  fpBinary s h d a b rm (fun x y => sumFv (rm2 rm) [x, y])

def execFsub (h : Head) (d a b : BitVec 6) (rm : BitVec 2) (s : State) : Out :=
  fpBinary s h d a b rm (fun x y => sumFv (rm2 rm) [x, y.neg])

def execFmul (h : Head) (d a b : BitVec 6) (rm : BitVec 2) (s : State) : Out := fpBinary s h d a b rm Fv.mul

/-- Product plus addend, exact (R29, R128). -/
def fmaFv (mode : Rm) (x y z : Fv) : Fv := sumFv mode [x.mul y, z]

def execFmac (h : Head) (d a b : BitVec 6) (rm : BitVec 2) (s : State) : Out :=
  issue s 1 h (.vec d 1) [.v a 1, .v b 1] fun c =>
    c.fpVec d (fun l => toFp32 (rm2 rm) (fmaFv (rm2 rm) (fp32 (c.f.getV a l)) (fp32 (c.f.getV b l)) (fp32 (c.f.getV d l))))

def negIf (n : Bool) (v : Fv) : Fv := if n then v.neg else v

def execFfma (h : Head) (d a b e : BitVec 6) (rm : BitVec 2) (np nc : Bool) (s : State) : Out :=
  issue s 2 h (.vec d 1) [.v a 1, .v b 1, .v e 1] fun c =>
    c.fpVec d (fun l => toFp32 (rm2 rm)
      (fmaFv (rm2 rm) (negIf np (fp32 (c.f.getV a l))) (fp32 (c.f.getV b l)) (negIf nc (fp32 (c.f.getV e l)))))

/-- R129. -/
def fpMinmax (s : State) (h : Head) (d a b : BitVec 6) (mx : Bool) : Out :=
  issue s 1 h (.vec d 1) [.v a 1, .v b 1] fun c =>
    c.fpVec d (fun l => Fmt.fp32.minmax mx (c.f.getV a l).toNat (c.f.getV b l).toNat)

def execFmin (h : Head) (d a b : BitVec 6) (s : State) : Out := fpMinmax s h d a b false
def execFmax (h : Head) (d a b : BitVec 6) (s : State) : Out := fpMinmax s h d a b true

/-- R130: only bit 31 changes, and nothing is raised. -/
def signOp (m : SgnOp) (x : Word) : Word :=
  match m with
  | .abs => x &&& 0x7FFFFFFF#32
  | .neg => x ^^^ 0x80000000#32
  | .negabs => x ||| 0x80000000#32

def execFsgn (h : Head) (d a : BitVec 6) (m : SgnOp) (s : State) : Out :=
  issue s 1 h (.vec d 1) [.v a 1] fun c => c.vec1 d a (signOp m)

/-- R131: the comparison and its NV. -/
def fpCompare (cond : BitVec 3) (x y : Fv) : Bool × Flags :=
  let un := x.isNan || y.isNan
  let quiet := if x.isSnan || y.isSnan then Flags.nv else 0
  let loud := if un then Flags.nv else 0
  match cond.toNat with
  | 0 => (x.eqv y, quiet)
  | 1 => (!x.eqv y, quiet)
  | 2 => (x.lt y, loud)
  | 3 => (x.lt y || x.eqv y, loud)
  | 4 => (y.lt x, loud)
  | 5 => (y.lt x || x.eqv y, loud)
  | 6 => (un, quiet)
  | _ => (!un, quiet)

def execFcmp (h : Head) (d : BitVec 3) (a b : BitVec 6) (cond : BitVec 3) (s : State) : Out :=
  issue s 2 h (.pred d) [.v a 1, .v b 1] fun c =>
    c.fpPred d (fun l => fpCompare cond (fp32 (c.f.getV a l)) (fp32 (c.f.getV b l)))

/-- The class of a pattern, by its bit in R132. -/
def fpClass (x : Word) : Nat :=
  match fp32 x with
  | .nan nv => if nv then 8 else 9
  | .inf s => if s then 0 else 7
  | .fin s n _ =>
      if n = 0 then (if s then 3 else 4)
      else if n < 2 ^ 23 then (if s then 2 else 5)
      else (if s then 1 else 6)

def execFclass (h : Head) (d : BitVec 3) (a : BitVec 6) (mask : BitVec 10) (s : State) : Out :=
  issue s 2 h (.pred d) [.v a 1] fun c => c.predicate d (fun l => mask.getLsbD (fpClass (c.f.getV a l)))

/-- FRND (R133): an integral value that keeps the operand's sign; only a signalling NaN raises. -/
def fpIntegral (mode : Rm) (x : Word) : Nat × Flags :=
  match fp32 x with
  | .fin s n e => ((Fmt.fp32.round mode false (.fin s (roundToInt mode s n e).1.natAbs 0)).1, 0)
  | v => toFp32 mode v

def execFrnd (h : Head) (d a : BitVec 6) (rm : BitVec 2) (s : State) : Out :=
  issue s 1 h (.vec d 1) [.v a 1] fun c => c.fpVec d (fun l => fpIntegral (rm2 rm) (c.f.getV a l))

/-- The scale of FSCL: beyond ±1,000 every non-zero FP32 value overflows, or is below half the least
subnormal, alike. -/
def clampScale (y : Word) : Int := max (-1000) (min 1000 y.toInt)

def execFscl (h : Head) (d a b : BitVec 6) (rm : BitVec 2) (s : State) : Out :=
  issue s 1 h (.vec d 1) [.v a 1, .v b 1] fun c =>
    c.fpVec d (fun l => toFp32 (rm2 rm) ((fp32 (c.f.getV a l)).scale (clampScale (c.f.getV b l))))

/-! Packed halves (R134) and DOT2H (R127) -/

def halfFmt (f16 : Bool) : Fmt := if f16 then .fp16 else .bf16

def halfFv (f16 : Bool) (x : Word) (i : Nat) : Fv := (halfFmt f16).decode (halfOf x i).toNat

/-- Pack two half results and OR their flags. -/
def packHalves (g : Nat → Nat × Flags) : Nat × Flags :=
  ((g 0).1 % 65536 + 65536 * ((g 1).1 % 65536), (g 0).2 ||| (g 1).2)

/-- The shape of HADD2 and HMUL2. -/
def halfBinary (s : State) (h : Head) (d a b : BitVec 6) (f16 : Bool) (g : Fv → Fv → Fv) : Out :=
  issue s 1 h (.vec d 1) [.v a 1, .v b 1] fun c =>
    c.fpVec d (fun l => packHalves (fun i =>
      (halfFmt f16).round .rne false (g (halfFv f16 (c.f.getV a l) i) (halfFv f16 (c.f.getV b l) i))))

def execHadd2 (h : Head) (d a b : BitVec 6) (f16 : Bool) (s : State) : Out :=
  halfBinary s h d a b f16 (fun x y => sumFv .rne [x, y])

def execHmul2 (h : Head) (d a b : BitVec 6) (f16 : Bool) (s : State) : Out := halfBinary s h d a b f16 Fv.mul

def halfMinmax (s : State) (h : Head) (d a b : BitVec 6) (f16 mx : Bool) : Out :=
  issue s 1 h (.vec d 1) [.v a 1, .v b 1] fun c =>
    c.fpVec d (fun l => packHalves (fun i =>
      (halfFmt f16).minmax mx (halfOf (c.f.getV a l) i).toNat (halfOf (c.f.getV b l) i).toNat))

def execHmin2 (h : Head) (d a b : BitVec 6) (f16 : Bool) (s : State) : Out := halfMinmax s h d a b f16 false
def execHmax2 (h : Head) (d a b : BitVec 6) (f16 : Bool) (s : State) : Out := halfMinmax s h d a b f16 true

def execHfma2 (h : Head) (d a b e : BitVec 6) (rm : BitVec 2) (f16 : Bool) (s : State) : Out :=
  issue s 2 h (.vec d 1) [.v a 1, .v b 1, .v e 1] fun c =>
    c.fpVec d (fun l => packHalves (fun i =>
      (halfFmt f16).round (rm2 rm) false
        (fmaFv (rm2 rm) (halfFv f16 (c.f.getV a l) i) (halfFv f16 (c.f.getV b l) i) (halfFv f16 (c.f.getV e l) i))))

/-- The exact sum of R127. -/
def dot2Fv (mode : Rm) (f16 : Bool) (x y z : Word) : Fv :=
  sumFv mode [(halfFv f16 x 0).mul (halfFv f16 y 0), (halfFv f16 x 1).mul (halfFv f16 y 1), fp32 z]

def execDot2h (h : Head) (d a b e : BitVec 6) (rm : BitVec 2) (f16 : Bool) (s : State) : Out :=
  issue s 2 h (.vec d 1) [.v a 1, .v b 1, .v e 1] fun c =>
    c.fpVec d (fun l => toFp32 (rm2 rm) (dot2Fv (rm2 rm) f16 (c.f.getV a l) (c.f.getV b l) (c.f.getV e l)))

end Sys2Proof.Machine
end

