-- ==== Sys2Proof/Machine/Convert.lean ====
section
/-! DEFINITION. Conversions and block-scaled codes (07 R135 to R140). -/

namespace Sys2Proof.Machine

open Sys2Proof

/-- A float format code of R135. -/
def isFloatCode (c : BitVec 4) : Bool := 1 ≤ c.toNat && c.toNat ≤ 5

/-- The integer value of a source of code 6 to 9. -/
def intOfCode (c : BitVec 4) (x : Word) : Int :=
  match c.toNat with
  | 6 => (byteOf x 0).toInt
  | 7 => (byteOf x 0).toNat
  | 8 => x.toInt
  | _ => x.toNat

/-- The range of an integer destination. -/
def intRange (c : BitVec 4) : Int × Int :=
  match c.toNat with
  | 6 => (-128, 127)
  | 7 => (0, 255)
  | 8 => (-2147483648, 2147483647)
  | _ => (0, 4294967295)

/-- An integer result in its lane, with the upper bits of R135; out-of-range values keep the low bits of the
destination width. -/
def intToLane (c : BitVec 4) (v : Int) : Word :=
  match c.toNat with
  | 6 => (BitVec.ofInt 8 v).signExtend 32
  | 7 => (BitVec.ofInt 8 v).setWidth 32
  | _ => low32 v

def clampTo (r : Int × Int) (v : Int) : Int := if v < r.1 then r.1 else if r.2 < v then r.2 else v

/-- The value of a float source. -/
def fvOfCode (c : BitVec 4) (x : Word) : Fv := (fmtOf c).decode (x.toNat % 2 ^ (fmtOf c).width)

/-- One conversion (R136). -/
def convert (src dst : BitVec 4) (mode : Rm) (sat : Bool) (x : Word) : Nat × Flags :=
  if isFloatCode dst then
    (fmtOf dst).round mode sat (if isFloatCode src then fvOfCode src x else intToFv (intOfCode src x))
  else if isFloatCode src then
    let r := fvToInt mode (intRange dst).1 (intRange dst).2 (fvOfCode src x)
    ((intToLane dst r.1).toNat, r.2)
  else
    let v := intOfCode src x
    ((intToLane dst (if sat then clampTo (intRange dst) v else v)).toNat, 0)

def execCvt (h : Head) (d a : BitVec 6) (src dst : BitVec 4) (mode : BitVec 3) (sat : Bool) (s : State) : Out :=
  issue s 2 h (.vec d 1) [.v a 1] fun c => c.fpVec d (fun l => convert src dst (rmOf mode.toNat) sat (c.f.getV a l))

/-- The packed result of R137 in a lane whose old value is `old`. -/
def packPair (dst : BitVec 4) (mode : Rm) (sat hi : Bool) (x y old : Word) : Nat × Flags :=
  let ra := convert 1 dst mode sat x
  let rb := convert 1 dst mode sat y
  let v := if dst.toNat ≤ 3 then ra.1 % 65536 + 65536 * (rb.1 % 65536)
    else
      let pair := ra.1 % 256 + 256 * (rb.1 % 256)
      if hi then (halfOf old 0).toNat + 65536 * pair else pair + 65536 * (halfOf old 1).toNat
  (v, ra.2 ||| rb.2)

def execCvtp (h : Head) (d a b : BitVec 6) (dst : BitVec 4) (mode : BitVec 3) (sat hi : Bool) (s : State) : Out :=
  issue s 2 h (.vec d 1) [.v a 1, .v b 1] fun c =>
    c.fpVec d (fun l => packPair dst (rmOf mode.toNat) sat hi (c.f.getV a l) (c.f.getV b l) (c.f.getV d l))

/-- R138: the element widened. -/
def unpackElement (src : BitVec 4) (idx : BitVec 3) (x : Word) : Nat × Flags :=
  match src.toNat with
  | 10 => toFp32 .rne (q4Value 0 (nibOf x idx.toNat))
  | 6 => (((byteOf x idx.toNat).signExtend 32).toNat, 0)
  | 7 => ((byteOf x idx.toNat).toNat, 0)
  | 2 | 3 => toFp32 .rne ((fmtOf src).decode (halfOf x idx.toNat).toNat)
  | _ => toFp32 .rne ((fmtOf src).decode (byteOf x idx.toNat).toNat)

def execCvtu (h : Head) (d a : BitVec 6) (src : BitVec 4) (idx : BitVec 3) (s : State) : Out :=
  issue s 2 h (.vec d 1) [.v a 1] fun c => c.fpVec d (fun l => unpackElement src idx (c.f.getV a l))

/-- R139. -/
def decodeCode (idx : BitVec 3) (x y : Word) : Word :=
  BitVec.ofNat 32 (toFp32 .rne (q4Decode (byteOf y 0) (nibOf x idx.toNat))).1

def execQdec (h : Head) (d a b : BitVec 6) (idx : BitVec 3) (s : State) : Out :=
  issue s 2 h (.vec d 1) [.v a 1, .v b 1] fun c => c.vec2 d a b (decodeCode idx)

/-! QENC (R23, R140) -/

/-- The largest magnitude of a type, in quarters. -/
def q4Max (type : BitVec 2) : Nat :=
  match type.toNat with
  | 0 => 30
  | 1 => 24
  | 2 => 64
  | _ => 128

/-- The code among `0 … n - 1` whose value over `2^-base` is nearest to `x`, the even one on a tie. -/
def nearestOf (n : Nat) (val : Nat → Int) (x : Int) : Nat × Bool :=
  let best := (List.range n).foldl (fun (acc : Nat × Nat) i =>
    let e := (val i - x).natAbs
    if e < acc.2 || (e == acc.2 && i % 2 == 0) then (i, e) else acc) (0, (val 0 - x).natAbs)
  (best.1, best.2 != 0)

/-- The nearest code of R23 to (−1)^neg × num × 2^exp, and whether it is inexact. A zero keeps its sign
(log 13). -/
def nearestCode (type : BitVec 2) (neg : Bool) (num : Nat) (exp : Int) : Nat × Bool :=
  if type == 0#2 then
    let base := min (exp + 1) 0
    let d : Int := 2 ^ (-base).toNat
    let x : Int := (if neg then -1 else 1) * ((num * 2 ^ (exp + 1 - base).toNat : Nat) : Int)
    nearestOf 16 (fun c => (2 * (c : Int) - 15) * d) x
  else
    let base := min (exp + 2) 0
    let d : Int := 2 ^ (-base).toNat
    let x : Int := ((num * 2 ^ (exp + 2 - base).toNat : Nat) : Int)
    let r := nearestOf 8 (fun c => ((q4Magnitudes type).getD c 0 : Int) * d) x
    (r.1 + (if neg then 8 else 0), r.2)

def extremeCode (type : BitVec 2) (neg : Bool) : Nat :=
  if type == 0#2 then (if neg then 0 else 15) else (if neg then 15 else 7)

/-- |x| ≤ vmax × 2^(e − 31). -/
def fitsScale (type : BitVec 2) (x : Fv) (e : Nat) : Bool :=
  match x with
  | .fin _ n k => !(Fv.lt (.fin false (q4Max type) ((e : Int) - 33)) (.fin false n k))
  | _ => false

/-- The scale exponent of a block from the values of its active lanes. -/
def blockScale (type : BitVec 2) (xs : List Fv) : Nat :=
  if xs.any Fv.isNan then 63
  else ((List.range 63).find? (fun e => xs.all (fun x => fitsScale type x e))).getD 62

/-- The code of one lane under a scale, with its flags (log 65, DEDUCED). -/
def encodeLane (type : BitVec 2) (e : Nat) (x : Fv) : Nat × Flags :=
  match x with
  | .nan _ => (0, if x.isSnan then Flags.nv else 0)
  | .inf s => (if e = 63 then 0 else extremeCode type s, Flags.of ||| Flags.nx)
  | .fin s n k =>
      if e = 63 then (0, 0)
      else
        let r := nearestCode type s n (k + 31 - e)
        (r.1, if r.2 then Flags.nx else 0)

/-- The block of a lane: all 32 lanes, or 16 of them. -/
def blockLanes (q16 : Bool) (act : Mask) (l : Nat) : List Nat :=
  (Mask.lanes act).filter (fun i => !q16 || i / 16 == l / 16)

def qencLane (c : Ctx) (a : BitVec 6) (type : BitVec 2) (q16 : Bool) (l : Nat) : Nat × Flags :=
  let e := blockScale type ((blockLanes q16 c.act l).map (fun i => fp32 (c.f.getV a i)))
  let r := encodeLane type e (fp32 (c.f.getV a l))
  ((type.toNat * 64 + e) * 256 + r.1, r.2)

def execQenc (h : Head) (d a : BitVec 6) (type : BitVec 2) (q16 : Bool) (s : State) : Out :=
  issue s 2 h (.vec d 1) [.v a 1] fun c => c.fpVec d (qencLane c a type q16)

end Sys2Proof.Machine
end

