-- ==== Sys2Proof/Machine/CrossLane.lean ====
section
/-! DEFINITION. Cross-lane instructions (08 R160 to R168). -/

namespace Sys2Proof.Machine

open Sys2Proof

/-! ## Members (R160) -/

/-- The member mask: the fragment mask, or S[E]. -/
def Ctx.members (c : Ctx) (mm : Bool) (e : BitVec 6) : Mask := if mm then bits (c.f.getU e) 0 32 else c.f.mask

/-- Members that hold a live thread of another fragment. -/
def Ctx.absent (c : Ctx) (m : Mask) : Mask :=
  m &&& ~~~c.f.mask &&& maskOf (fun l => (c.w.threads.toList.getD l none).isSome)

/-- Members that contribute their own operand. -/
def Ctx.contributors (c : Ctx) (m : Mask) : Mask := m &&& c.act

/-- Go on with the member mask, unless a member is absent and the instruction is not lenient. -/
def Ctx.withMembers (c : Ctx) (mm ln : Bool) (e : BitVec 6) (go : Mask → Out) : Out :=
  let m := c.members mm e
  let gone := c.absent m
  if gone != 0#32 && !ln then c.trapWith .memberAbsent c.act 0 (c.descriptor + (gone.setWidth 64 <<< 32)) else go m

def memberUses (mm : Bool) (e : BitVec 6) : List Use := if mm then [.u e] else []

/-! ## SHFL (R162, R163) -/

def segWidth (seg : BitVec 3) : Nat := 32 / 2 ^ seg.toNat

/-- The vlane that holds the given %tid. -/
def Warp.laneOfTid (w : Warp) (t : Nat) : Option Nat :=
  (List.range 32).find? (fun l => match w.threads.toList.getD l none with | some x => x.tid == t | none => false)

/-- The source vlane of a lane, or none at the edge. -/
def shflSource (w : Warp) (mode : ShflMode) (wd l b : Nat) : Option Nat :=
  let q := l - l % wd
  match mode with
  | .idx => some (q + b % wd)
  | .xor => some (q + ((l % wd) ^^^ (b % wd)))
  | .up => if wd ≤ b || l < q + b then none else some (l - b)
  | .down => if wd ≤ b || q + wd ≤ l + b then none else some (l + b)
  | .tid => some ((w.laneOfTid b).getD 32)

/-- The lane that .wrap takes at the edge. -/
def shflWrap (mode : ShflMode) (wd l b : Nat) : Nat :=
  let q := l - l % wd
  if mode == .up then q + (l - q + (wd - b % wd)) % wd else q + (l - q + b) % wd

/-- The value that source vlane `j` gives. -/
def Ctx.shflValue (c : Ctx) (m : Mask) (a : BitVec 6) (j : Nat) : Word :=
  if j < 32 && (c.contributors m).getLsbD j then c.f.getV a j else 0

def execShfl (h : Head) (d a b e : BitVec 6) (seg : BitVec 3) (edge : Edge) (ln mm : Bool) (imm : BitVec 10) (im : Bool)
    (mode : ShflMode) (s : State) : Out :=
  issue s 2 h (.vec d 1) ([.v a 1] ++ (if im then [] else [.v b 1]) ++ memberUses mm e) fun c =>
    c.withMembers mm ln e fun m =>
      let wd := segWidth seg
      c.retire (c.f.setV d c.act (fun l =>
        let x := if im then imm.toNat else (c.f.getV b l).toNat
        match shflSource c.w mode wd l x with
        | some j => c.shflValue m a j
        | none =>
            match edge with
            | .keep => c.f.getV a l
            | .zero => 0
            | .wrap => c.shflValue m a (shflWrap mode wd l x)))

/-! ## VOTE (R164) -/

def execVote (h : Head) (d : BitVec 6) (a : BitVec 3) (e : BitVec 6) (mode : VoteMode) (mm ln : Bool) (s : State) : Out :=
  issue s 2 h (if mode == .ballot then .uni d else .pred (bits d 0 3)) (memberUses mm e) fun c =>
    c.withMembers mm ln e fun m =>
      let x := c.f.getP a &&& c.contributors m
      let res := fun (b : Bool) => c.retire (c.f.setP (bits d 0 3) c.act (if b then 0xFFFFFFFF#32 else 0))
      match mode with
      | .any => res (x != 0#32)
      | .all => res (x == m)
      | .eq => res (x == m || x == 0#32)
      | .ballot => c.uniform d (x.setWidth 64)

/-! ## REDW, SCANW (R165 to R167) -/

def redIdentity (op : RedOp) : Word :=
  match op with
  | .addI32 | .addF32 | .maxN | .or | .xor => 0
  | .maxI => 0x80000000
  | .minI => 0x7FFFFFFF
  | .minN | .and => 0xFFFFFFFF
  | .maxF32 => 0xFF800000
  | .minF32 => 0x7F800000

/-- Maximum or minimum of FP32 values, in any order of combination: NaNs are passed over. -/
def redMinmax (mx : Bool) (xs : List Word) : Nat × Flags :=
  let fl := if xs.any (fun x => (fp32 x).isSnan) then Flags.nv else 0
  match xs with
  | [] => ((redIdentity (if mx then .maxF32 else .minF32)).toNat, 0)
  | _ =>
      match xs.filter (fun x => !(fp32 x).isNan) with
      | [] => (0x7FC00000, fl)
      | y :: ys => (ys.foldl (fun acc x => (Fmt.fp32.minmax mx acc x.toNat).1) y.toNat, fl)

/-- The operator over members: `xs` the contributors' values, and whether some member contributes nothing. -/
def reduce (op : RedOp) (xs : List Word) (others : Bool) : Nat × Flags :=
  let fold := fun (g : Word → Word → Word) => ((xs.foldl g (redIdentity op)).toNat, (0 : Flags))
  match op with
  | .addI32 => fold (· + ·)
  | .addF32 =>
      if xs.isEmpty then (0, 0) else Fmt.fp32.round .rne false (sumFv .rne (xs.map fp32 ++ (if others then [fp32 0] else [])))
  | .maxI => fold (fun a b => if a.toInt ≤ b.toInt then b else a)
  | .maxN => fold (fun a b => if a.toNat ≤ b.toNat then b else a)
  | .minI => fold (fun a b => if a.toInt ≤ b.toInt then a else b)
  | .minN => fold (fun a b => if a.toNat ≤ b.toNat then a else b)
  | .maxF32 => redMinmax true xs
  | .minF32 => redMinmax false xs
  | .and => fold (· &&& ·)
  | .or => fold (· ||| ·)
  | .xor => fold (· ^^^ ·)

/-- The reduction over those members that lie in `among`. -/
def Ctx.reduceOver (c : Ctx) (op : RedOp) (a : BitVec 6) (m among : Mask) : Nat × Flags :=
  let k := c.contributors m &&& among
  reduce op ((Mask.lanes k).map (fun l => c.f.getV a l)) (m &&& among != k)

def execRedw (h : Head) (d a e : BitVec 6) (op : RedOp) (mm ln : Bool) (s : State) : Out :=
  issue s 2 h (.uni d) (.v a 1 :: memberUses mm e) fun c =>
    c.withMembers mm ln e fun m =>
      let r := c.reduceOver op a m 0xFFFFFFFF#32
      c.fpRetire (fun _ => r.2) (c.f.setU d (BitVec.ofNat 64 r.1))

/-- Members below lane `l`, or up to it. -/
def scanSet (ex : Bool) (l : Nat) : Mask := maskOf (fun j => if ex then j < l else j ≤ l)

/-- SCANW's destination for the descriptor is its vector register; B takes the total. -/
def execScanw (h : Head) (d a b e : BitVec 6) (op : RedOp) (ex mm ln : Bool) (s : State) : Out :=
  issue s 2 h (.vec d 1) (.v a 1 :: .u b :: memberUses mm e) fun c =>
    c.withMembers mm ln e fun m =>
      let total := c.reduceOver op a m 0xFFFFFFFF#32
      let lane := fun l => c.reduceOver op a m (scanSet ex l)
      let f := (c.f.setV d c.act (fun l => BitVec.ofNat 32 (lane l).1)).setU b (BitVec.ofNat 64 total.1)
      match c.fpTrap (fun l => (lane l).2) with
      | some _ => c.fpRetire (fun l => (lane l).2) f
      | none => c.retire { f with fflags := c.f.fflags ||| orFlags c.act (fun l => (lane l).2) ||| total.2 }

/-! ## ELECT, RDLANE, BCAST (R168) -/

def execElect (h : Head) (d : BitVec 3) (s : State) : Out :=
  issue s 1 h (.pred d) [] fun c => c.predicate d (fun l => l == Mask.lowest c.act)

def execRdlane (h : Head) (d a : BitVec 6) (lane : BitVec 5) (s : State) : Out :=
  issue s 1 h (.uni d) [.v a 1] fun c =>
    if c.act == 0#32 then c.retire c.f else c.uniform d ((c.f.getV a lane.toNat).setWidth 64)

def execBcast (h : Head) (d a : BitVec 6) (lane : BitVec 5) (s : State) : Out :=
  issue s 1 h (.vec d 1) [.v a 1] fun c => c.retire (c.f.setV d c.act (fun _ => c.f.getV a lane.toNat))

end Sys2Proof.Machine
end

