-- ==== Sys2Proof/Machine/Launch.lean ====
section
/-! DEFINITION. Host work queues, acceptance, holding and release of grids, completion records, and the
placement of blocks and gangs (03 R34 to R56; 04 R58 to R64; 18 R335). -/

namespace Sys2Proof.Machine

open Sys2Proof

/-! ## Queue regions (R42, R43) -/

/-- A queue of the device window that takes host writes. -/
def State.openQueue? (s : State) (q : BitVec 12) : Option Queue :=
  if !s.memoryOpen then none else (s.queue? q).filter (·.enable)

/-- The same for the writes of a host, which must be on the admission list (R44). -/
def State.hostQueue? (s : State) (host : Nat) (q : BitVec 12) : Option Queue := if Config.admitted host then s.openQueue? q else none

def execTailWrite (queue : BitVec 12) (write : HostWrite DWord) (s : State) : Out :=
  match s.hostQueue? write.host queue with
  | none => .next s
  | some q =>
      let v := write.value.toNat
      .next (s.setQueue { q with tail := v, status := if v < q.tail ∨ q.head + q.size < v then .faulted else q.status })

def execQueueSlotWrite (queue : BitVec 12) (slot : Nat) (write : HostWrite (BitVec 2048)) (s : State) : Out :=
  match s.hostQueue? write.host queue with
  | none => .next s
  | some q => if slot < q.size then .next (s.setQueue { q with ring := setKey slot write.value q.ring }) else .next s

/-! ## The launch record and the kernel header (R34, R46, R47) -/

/-- A field of `n` bytes at an offset. -/
def recField (r : BitVec 2048) (off n : Nat) : Nat := r.toNat / 2 ^ (8 * off) % 2 ^ (8 * n)

def readLaunch (r : BitVec 2048) : Launch :=
  let w := recField r
  { kva := BitVec.ofNat 64 (w 0 8), gx := w 8 4, gy := w 0xC 4, gz := w 0x10 4, bx := w 0x14 2, byy := w 0x16 2, bz := w 0x18 2
    gang := w 0x1A 1, prio := w 0x1B 1 % 8, shadow := w 0x1C 4 % 2 == 1, pva := BitVec.ofNat 64 (w 0x20 8)
    cva := BitVec.ofNat 64 (w 0x28 8), deps := (List.range 4).map (fun i => BitVec.ofNat 64 (w (0x30 + 8 * i) 8))
    tlsva := BitVec.ofNat 64 (w 0x60 8), tlsb := w 0x68 4, maxb := w 0x5A 1 }

/-- Every reserved field of a record is zero. -/
def launchClean (r : BitVec 2048) : Bool :=
  let w := recField r
  w 0x1B 1 / 8 == 0 && w 0x1C 4 / 2 == 0 && w 0x5B 5 == 0 && w 0x6C 4 == 0 && w 0x78 136 == 0

/-- The header of a kernel object, 64 bytes as a number. -/
def headField (h : Nat) (off n : Nat) : Nat := h / 2 ^ (8 * off) % 2 ^ (8 * n)

def readKernel (va : DWord) (h : Nat) : Kernel :=
  let w := headField h
  { va, npkt := w 8 4, tvec := BitVec.ofNat 32 (w 0xC 4), vreg := w 0x10 1, sreg := w 0x11 1, treg := w 0x12 1, areg := w 0x13 1 }

def headerKnown (h : Nat) : Bool :=
  let w := headField h
  w 0 4 == 0x53574B31 && w 4 2 == 1 && w 6 2 == 0 && w 0x1F 1 == 0 && w 0x20 32 == 0

def eights (n : Nat) : Bool := n % 8 == 0 && 8 ≤ n && n ≤ 64

def headerWithin (h : Nat) (k : Kernel) : Bool :=
  let w := headField h
  1 ≤ k.npkt && k.npkt ≤ 1048576 && (k.tvec == 0xFFFFFFFF#32 || k.tvec.toNat < k.npkt) && eights k.vreg && eights k.sreg
    && k.treg ≤ 4 && k.areg ≤ 4 && w 0x14 4 ≤ 65536 && w 0x18 2 ≤ 128 && w 0x1A 2 ≤ 64 && w 0x1C 2 % 64 == 0 && w 0x1C 2 ≤ 2048
    && w 0x1E 1 ≤ 16

def orDefault (x d : Nat) : Nat := if x = 0 then d else x

def Launch.threads (l : Launch) : Nat := l.bx * l.byy * l.bz
def Launch.blocks (l : Launch) : Nat := l.gx * l.gy * l.gz

/-- The effective quotas (R47). -/
def quotaOf (r : BitVec 2048) (h : Nat) (l : Launch) : Quota :=
  let w := recField r
  let d := headField h
  { qa := orDefault (w 0x50 2) (d 0x18 2), qc := orDefault (w 0x52 2) (d 0x1A 2), ql := orDefault (w 0x54 2) (d 0x1C 2)
    qw := orDefault (w 0x56 1) (d 0x1E 1), qpan := orDefault (w 0x57 1) 1, qthr := orDefault (w 0x58 2) l.threads }

/-! ## Charges (R47 to R49) -/

/-- What one warp takes of a partition: a context, vector, uniform, tile and accumulator registers, and
bytes of each lane's L. -/
def perWarp (k : Kernel) (q : Quota) : List Nat := [1, k.vreg, k.sreg, k.treg, k.areg, q.ql]

/-- What of a partition may be charged. -/
def partCaps : List Nat := [8, 960, 224, 40, 40, 2048]

/-- Warps that what is left of a partition takes. -/
def roomIn (rest need : List Nat) : Nat := (List.zipWith (fun r n => if n = 0 then 8 else r / n) rest need).foldl min 8

/-- Leading warps of a block (R47). -/
def Quota.warps (q : Quota) : Nat := ceilDiv q.qthr 32

def share (shadow : Bool) (n : Nat) : Nat := if shadow then n / 2 else n

/-- One block fits an empty core. -/
def fitsEmpty (k : Kernel) (q : Quota) (shadow : Bool) : Bool :=
  q.warps ≤ 4 * share shadow (roomIn partCaps (perWarp k q)) && q.qa ≤ 128 && q.qc ≤ 64 && q.qw ≤ 16 && q.qpan ≤ 32

/-- The blocks that a core holds. -/
def State.coreBlocks (s : State) (core : Nat) : List Block := s.work.blocks.filter (fun b => b.core == core && b.run != .saved)

def Block.inPart (b : Block) (p : Nat) : Nat := ((b.slots ++ b.shadows).filter (fun x => x.toNat / 8 == p)).length

/-- What of a partition is left. -/
def State.partRest (s : State) (core p : Nat) : List Nat :=
  (s.coreBlocks core).foldl (fun rest b => List.zipWith (fun r n => r - b.inPart p * n) rest (perWarp b.kernel b.quota)) partCaps

/-- Leading warps of the grid that a partition takes. -/
def State.partRoom (s : State) (core p : Nat) (k : Kernel) (q : Quota) (shadow : Bool) : Nat :=
  if s.repair.mends.any (fun m => match m with | .lane c x _ => c == core && x == p | .core _ | .channel _ => false) then 0
  else share shadow (roomIn (s.partRest core p) (perWarp k q))

/-- A block of the grid fits the core's buffers, pans, kernel slots and MAXB. -/
def State.coreTakes (s : State) (core : Nat) (g : Grid) (q : Quota) : Bool :=
  let bs := s.coreBlocks core
  let sum := fun (f : Quota → Nat) => (bs.map (fun b => f b.quota)).sum
  s.work.liveCores.contains core && !s.repair.mends.any (fun m => match m with | .core c => c == core | .channel _ => true | .lane _ _ _ => false)
    && sum (·.qa) + q.qa ≤ 128 && sum (·.qc) + q.qc ≤ 64 && sum (·.qw) + q.qw ≤ 16 && sum (·.qpan) + q.qpan ≤ 32
    && (bs.any (fun b => b.grid == g.key) || (distinct (bs.map (·.grid))).length < 8)
    && (g.launch.maxb == 0 || (bs.filter (fun b => b.grid == g.key)).length < g.launch.maxb)

/-- The given partitions take the leading warps (log 51, DEDUCED). -/
def State.partsTake (s : State) (core : Nat) (g : Grid) (parts : List Nat) : Bool :=
  parts.length == g.quota.warps && parts.all (· < 4)
    && (List.range 4).all (fun p => parts.count p ≤ s.partRoom core p g.kernel g.quota g.launch.shadow)

/-- Partitions for the warps, where a core takes the block: of those that R58 leaves to the dispatcher the lowest first (log 76,
DESIGN CHOICE). -/
def State.autoParts (s : State) (core : Nat) (g : Grid) : Option (List Nat) :=
  let l := (List.range 4).flatMap (fun p => List.replicate (s.partRoom core p g.kernel g.quota g.launch.shadow) p)
  if s.coreTakes core g g.quota && g.quota.warps ≤ l.length then some (l.take g.quota.warps) else none

/-- The contexts for the warps, and those of their shadows. -/
def State.takeSlots (s : State) (core : Nat) (shadow : Bool) (parts : List Nat) : List (BitVec 5) × List (BitVec 5) :=
  let used := (s.coreBlocks core).flatMap (fun b => b.slots ++ b.shadows)
  let free := fun (p : Nat) => ((List.range 8).map (fun i => BitVec.ofNat 5 (8 * p + i))).filter (fun x => !used.contains x)
  let n := if shadow then 2 else 1
  let at' := fun (off : Nat) => (List.range parts.length).map (fun i =>
    (free (parts.getD i 0)).getD (n * (parts.take i).count (parts.getD i 0) + off) 0)
  (at' 0, if shadow then at' 1 else [])

/-! ## Completion records (R55, R56) -/

def GridEnd.code : GridEnd → Nat
  | .success => 1
  | .killed => 2
  | .rejected => 3
  | .depFailed => 4
  | .aborted => 5

/-- What a record reports beside its grid's own counts. -/
structure Verdict where
  how : GridEnd
  cause : BitVec 8
  fblk : Nat
  nkill : Nat
deriving DecidableEq, Repr

def Verdict.plain (how : GridEnd) (cause : BitVec 8) : Verdict := { how, cause, fblk := 0xFFFFFFFF, nkill := 0 }

/-- Bytes 0x08 to 0x3F of a record. -/
def recordBytes (g : Grid) (v : Verdict) : List Byte :=
  bytesOf (BitVec.ofNat 16 v.how.code) 2 ++ [v.cause, 0] ++ bytesOf (BitVec.ofNat 32 v.fblk) 4 ++ bytesOf (BitVec.ofNat 64 g.tstart) 8
    ++ bytesOf (BitVec.ofNat 64 g.tend) 8 ++ bytesOf (BitVec.ofNat 32 v.nkill) 4 ++ bytesOf (BitVec.ofNat 32 g.nrelaunch) 4
    ++ List.replicate 24 0

/-- Where CVA lies, if it translates with W. -/
def State.cvaPlace? (s : State) (job : BitVec 16) (cva : DWord) : Option Place :=
  match s.leaf? job cva with
  | some lf => if pteW lf.pte then some (lf.place cva) else none
  | none => none

/-- The page of CVA is draining, so that no store is performed there yet (R216). -/
def State.cvaWaits (s : State) (job : BitVec 16) (cva : DWord) : Bool :=
  match s.leaf? job cva with
  | some lf => pteW lf.pte && (pteShst lf.pte == shDraining || (pteShst lf.pte == shSharded && !s.frameFree lf.size))
  | none => false

/-- Sequence numbers done, taken into RETIRED as far as they follow on. -/
def Queue.advance (q : Queue) : Nat → Queue
  | 0 => q
  | n + 1 => if q.doneSeqs.contains (q.retired + 1) then
      ({ q with retired := q.retired + 1, doneSeqs := q.doneSeqs.filter (· != q.retired + 1) } : Queue).advance n else q

/-- A grid of the queue has ended. -/
def Queue.ended (q : Queue) (seq : Nat) (ok : Bool) : Queue :=
  let q := ({ q with doneSeqs := insertNat seq q.doneSeqs } : Queue).advance (q.doneSeqs.length + 1)
  if ok then q
  else { q with errseq := if q.errseq = 0 then seq else min q.errseq seq, status := if q.status = .running then .error else q.status }

def Queue.fault (q : Queue) : Queue := { q with status := .faulted }

/-- Write bytes of a record at home, on this device; a gradient page takes a fresh partial copy first (R216). A page that has
failed takes no bytes (log 18, DESIGN CHOICE). -/
def State.writeRecord (s : State) (va : DWord) (p : Place) (bs : List Byte) : State :=
  (s.freshPartial p).performAt p bs

/-- Send bytes of a record to another device. -/
def State.sendRecord (s : State) (r : RecordWrite) (p : Place) (bs : List Byte) : State :=
  let ps := farPieces p bs.length
  let first := (ps.headD (0, 0, 0)).2.1
  let s := ps.foldl (fun s x => s.engineRequest x.1 (s.jobKey r.job) x.2.1 (.record r.id) (fun tag h => .write h tag (BitVec.ofNat 52 (x.2.1 / 256 * 256))
    ((List.range x.2.2).map (fun i => (x.2.1 % 256 + i, bs.getD (x.2.1 - first + i) 0))) none)) s
  s.modWork fun y => { y with records := y.records.filter (fun x => x.id != r.id) ++ [{ r with left := ps.length }] }

/-- Count an ended grid in its queue (R41). -/
def State.countEnded (s : State) (queue : BitVec 12) (seq : Nat) (ok lost : Bool) : State :=
  match s.queue? queue with
  | some q => s.setQueue ((if lost then q.fault else q).ended seq ok)
  | none => s

/-- Write the record of a grid, count the grid in its queue, and forget it. A record on another device is counted when its
SEQ has been written there. -/
def State.endGrid (s : State) (g : Grid) (v : Verdict) : State :=
  let ok := v.how == GridEnd.success
  let seq := g.gid.seq.toNat
  let s := match s.cvaPlace? g.job g.launch.cva with
    | some (.far d a) =>
        let r := s.fresh
        r.2.sendRecord { id := r.1, queue := g.gid.queue, seq, ok, detached := g.detached, job := g.job, place := .far d a, seqSent := false, left := 0 }
          (.far d (a + 8)) (recordBytes g v)
    | some p =>
        let s := (s.writeRecord g.launch.cva (p.at 8) (recordBytes g v)).writeRecord g.launch.cva p (bytesOf (g.gid.seq.setWidth 64) 8)
        if g.detached then s else s.countEnded g.gid.queue seq ok false
    | none => if g.detached then s else s.countEnded g.gid.queue seq ok true
  s.modWork fun y => { y with
    grids := y.grids.filter (fun x => x.key != g.key), gangs := y.gangs.filter (fun x => x.grid != g.key)
    holds := y.holds.filter (fun x => x.grid != g.key), firstGangs := y.firstGangs.filter (fun x => x.grid != g.key) }

/-! ## Holding and release (R51, R52, R62) -/

inductive Token where
  | met | failed | unresolved
deriving DecidableEq, Repr

def State.token (s : State) (t : DWord) : Token :=
  let seq := (bits t 0 52).toNat
  if seq = 0 then .met
  else match s.queue? (bits t 52 12) with
    | none => .unresolved
    | some q =>
        if q.errseq != 0 && q.errseq ≤ seq then .failed
        else if seq ≤ q.retired then .met
        else .unresolved

/-- What a held grid's tokens and its own queue make of it: none while a token is unresolved. -/
def State.decision (s : State) (g : Grid) : Option Bool :=
  let ts := g.launch.deps.map s.token
  if ts.contains .unresolved then none
  else if ts.contains .failed then some false
  else match s.queue? g.gid.queue with
    | some q => some (q.errseq == 0 || g.detached)
    | none => some true

/-- Live cores of a cluster. -/
def State.clusterCores (s : State) (cl : Nat) : List Nat := s.work.liveCores.filter (fun c => c / 16 == cl)

/-- A cluster hosts gangs of the grid: of at most as many blocks as it has live cores (R62). -/
def State.hosts (s : State) (g : Grid) (cl : Nat) : Bool := g.launch.gang ≤ (s.clusterCores cl).length

/-- Some cluster has the live cores for a gang of the grid. -/
def State.gangPossible (s : State) (g : Grid) : Bool := (List.range 12).any (s.hosts g)

/-- Release a grid, or end it at once where no cluster can take its gangs (R62). -/
def State.releaseGrid (s : State) (g : Grid) : State :=
  if s.gangPossible g then
    let r := s.fresh
    r.2.setGrid { g with run := .released, order := r.1 }
  else s.endGrid g { how := .killed, cause := Cause.memberAbsent.code, fblk := 0, nkill := g.launch.blocks }

/-- Decide every held grid whose tokens are resolved, the end of one resolving tokens of others. Of several that can be
released at once, the first accepted goes first (log 76, DESIGN CHOICE). -/
def State.decideGrids (s : State) : Nat → State
  | 0 => s
  | n + 1 =>
      match s.work.grids.find? (fun g => g.run == .held && (s.decision g).isSome) with
      | none => s
      | some g => (if s.decision g == some true then s.releaseGrid g else s.endGrid g (.plain .depFailed 0)).decideGrids n

def State.settleGrids (s : State) : State := s.decideGrids (s.work.grids.length + 1)

/-- End a grid and decide those that waited for it. -/
def State.finishGrid (s : State) (g : Grid) (v : Verdict) : State := (s.endGrid g v).settleGrids

/-- The next part of a record on another device, once what was sent of it is answered: SEQ, and after it the queue's counts
(R55). A part that is refused or not answered counts as written (log 18, DESIGN CHOICE). -/
def State.recordStep (s : State) (id : Nat) : State :=
  match s.work.records.find? (fun r => r.id == id) with
  | none => s
  | some r =>
      if r.left ≠ 0 then s
      else if !r.seqSent then s.sendRecord { r with seqSent := true } r.place (bytesOf (BitVec.ofNat 64 r.seq) 8)
      else
        let s := s.modWork fun y => { y with records := y.records.filter (fun x => x.id != id) }
        (if r.detached then s else s.countEnded r.queue r.seq r.ok false).settleGrids

/-! ## Acceptance (R50) -/

/-- The 64 bytes of a kernel header, as a number. -/
def State.readHeader (s : State) (job : BitVec 16) (va : DWord) : Nat × State :=
  (List.range 16).foldl (fun (r : Nat × State) i =>
    let x := r.2.fetchWord job (va + BitVec.ofNat 64 (4 * i))
    (r.1 + x.1.toNat * 2 ^ (32 * i), x.2)) (0, s)

def shapesWithin (l : Launch) : Bool :=
  1 ≤ l.gx && 1 ≤ l.gy && 1 ≤ l.gz && l.blocks ≤ 2 ^ 32 - 1 && 1 ≤ l.threads && l.threads ≤ 1024 && 1 ≤ l.gang && l.gang ≤ 16
    && l.blocks % l.gang == 0

/-- The quotas within R46; a MAXB above 32, for which R50 names no reason, counts as one out of its limits (log 76, DESIGN
CHOICE). -/
def quotasWithin (l : Launch) (q : Quota) : Bool :=
  q.ql ≤ 2048 && q.qpan ≤ 32 && l.maxb ≤ 32 && l.threads ≤ q.qthr && q.qthr ≤ (if l.shadow then 512 else 1024)

/-- A dependence token names an enabled queue of the job and no later grid of its own queue. -/
def State.tokenLegal (s : State) (queue : BitVec 12) (job : BitVec 16) (n : Nat) (t : DWord) : Bool :=
  t == 0#64 || match s.queue? (bits t 52 12) with
    | none => false
    | some q => q.enable && q.job == job && !(bits t 52 12 == queue && n ≤ (bits t 0 52).toNat)

/-- The first check that fails, by its reason. No reason names a CVA that is not a multiple of 64: such a record is accepted,
and its 64 bytes are written from CVA on (log 76, DESIGN CHOICE). -/
def State.rejection (s : State) (q : Queue) (n : Nat) (r : BitVec 2048) (l : Launch) (h : Nat) : Option (BitVec 8) :=
  let k := readKernel l.kva h
  let quota := quotaOf r h l
  let checks : List (Bool × BitVec 8) :=
    [(l.kva.toNat % 64 == 0 && (match s.leaf? q.job l.kva with | some lf => pteX lf.pte | none => false) && headerKnown h, 1)
     , (headerWithin h k, 2), (launchClean r, 3), (shapesWithin l, 4)
     , (quotasWithin l quota && fitsEmpty k quota l.shadow, 5)
     , (l.pva.toNat % 8 == 0 && l.tlsva.toNat % 256 == 0 && l.tlsb % 256 == 0, 6)
     , (l.deps.all (s.tokenLegal q.num q.job n), 7)]
  (checks.find? (fun c => !c.1)).map (·.2)

/-- An accepted grid. TEND stays 0 where no block was ever placed, as TSTART does (log 76, DESIGN CHOICE). -/
def newGrid (key : Nat) (q : Queue) (n : Nat) (l : Launch) (k : Kernel) (quota : Quota) : Grid :=
  { key, gid := { queue := q.num, seq := BitVec.ofNat 52 n }, detached := false, job := q.job, launch := l, kernel := k, quota
    run := .held, order := 0, nextUnit := 0, again := [], nkill := 0, fblk := 0xFFFFFFFF, cause := 0
    nrelaunch := 0, tstart := 0, tend := 0, aborted := false }

/-- Accept the next record of a queue. Records published before its enable bit was cleared wait until it is set again (log 76,
DESIGN CHOICE). -/
def execRecordAccept (queue : BitVec 12) (s : State) : Out :=
  match s.openQueue? queue with
  | none => .next s
  | some q =>
      if q.status == .faulted || q.tail ≤ q.head then .next s
      else
        let r := (getKey (q.head % q.size) q.ring).getD 0
        let n := q.head + 1
        let l := readLaunch r
        if recField r 0x70 8 != n || (s.cvaPlace? q.job l.cva).isNone then .next (s.setQueue q.fault)
        else
          let h := s.readHeader q.job l.kva
          let x := h.2.fresh
          let g := newGrid x.1 q n l (readKernel l.kva h.1) (quotaOf r h.1 l)
          let s := x.2.setQueue { q with head := n }
          match s.rejection q n r l h.1 with
          | some reason => .next (s.finishGrid g (.plain .rejected reason))
          | none => .next ((s.modWork fun y => { y with grids := y.grids ++ [g] }).settleGrids)

/-! ## The end of a grid (R55, R56) -/

def Grid.units (g : Grid) : Nat := g.launch.blocks / g.launch.gang

/-- Nothing of the grid is left to place, and no block of it is left. -/
def State.gridDone (s : State) (g : Grid) : Bool :=
  g.run == .released && g.units ≤ g.nextUnit && g.again.isEmpty && !s.work.blocks.any (fun b => b.grid == g.key)

def Grid.verdict (g : Grid) : Verdict :=
  if g.aborted then { how := .aborted, cause := Cause.fabricDelivery.code, fblk := if g.nkill = 0 then 0xFFFFFFFF else g.fblk, nkill := g.nkill }
  else if 0 < g.nkill then { how := .killed, cause := g.cause, fblk := g.fblk, nkill := g.nkill }
  else .plain .success 0

def State.gridOf? (s : State) (id : GridId) (p : Grid → Bool) : Option Grid := s.work.grids.find? (fun g => g.gid == id && p g)

def execGridComplete (grid : GridId) (s : State) : Out :=
  match s.gridOf? grid s.gridDone with
  | none => .next s
  | some g => if s.cvaWaits g.job g.launch.cva then .next s else .next (s.finishGrid g g.verdict)

/-! ## What is placed next (R52, R59, R63) -/

/-- The next gang or block of a grid: a saved one to resume, else one to place, with its number. -/
def State.gridItem? (s : State) (g : Grid) : Option (Bool × Nat) :=
  let least := fun (l : List Nat) => l.foldl (fun (a : Option Nat) x => match a with | none => some x | some y => some (min x y)) none
  let saved := (s.work.blocks.filter (fun b => b.grid == g.key && b.run == .saved)).map (·.gang)
  match least saved with
  | some u => some (true, u)
  | none =>
      match least (g.again.map (fun x => x.1 / g.launch.gang)) with
      | some u => some (false, u)
      | none => if g.nextUnit < g.units then some (false, g.nextUnit) else none

/-- The grid's job waits for the start of a slice (R313). -/
def State.sliceWaits (s : State) (job : BitVec 16) : Bool :=
  s.coll.slices.any (fun x => !x.begun && match s.group? x.sgid with | some g => g.job == job | none => false)

/-- The grid takes part in placement (log 19). -/
def State.placing (s : State) (g : Grid) : Bool := g.run == .released && !g.aborted && !s.sliceWaits g.job

/-- A gang hold bars the item from a cluster (R63). -/
def State.barred (s : State) (cl : Nat) (g : Grid) (u : Nat) : Bool :=
  s.work.holds.any (fun h => h.cluster == cl && !(h.grid == g.key && h.gang == u) && g.launch.prio ≤ h.prio)

/-- A core takes one block of the item; it takes no second block of a gang (R62). -/
def State.coreFits (s : State) (g : Grid) (u core : Nat) : Bool :=
  !s.barred (core / 16) g u && (s.autoParts core g).isSome && !(s.coreBlocks core).any (fun b => b.grid == g.key && b.gang == u)

/-- Blocks of an item: its saved blocks, or all of its gang. -/
def State.itemSize (s : State) (g : Grid) (x : Bool × Nat) : Nat :=
  if x.1 then (s.work.blocks.filter (fun b => b.grid == g.key && b.gang == x.2 && b.run == .saved)).length else g.launch.gang

/-- Cores of a cluster that take a block of the item. -/
def State.fitting (s : State) (g : Grid) (u cl : Nat) : List Nat := (s.clusterCores cl).filter (s.coreFits g u)

/-- A cluster takes the item. -/
def State.clusterTakes (s : State) (g : Grid) (x : Bool × Nat) (cl : Nat) : Bool :=
  s.hosts g cl && s.itemSize g x ≤ (s.fitting g x.2 cl).length

/-- The clusters on which the blocks of an unplaced item consumed an error last (R349). -/
def Grid.avoided (g : Grid) (x : Bool × Nat) : List Nat :=
  if x.1 then [] else (g.again.filter (fun y => y.1 / g.launch.gang == x.2)).filterMap (·.2.2)

/-- The item may go to the cluster: another is taken first where the item was rolled back here. -/
def State.clusterOk (s : State) (g : Grid) (x : Bool × Nat) (cl : Nat) : Bool :=
  let avoid := g.avoided x
  !avoid.contains cl || !(List.range 12).any (fun k => !avoid.contains k && s.clusterTakes g x k)

/-- The next item of the grid fits somewhere. -/
def State.canPlace (s : State) (g : Grid) : Bool :=
  s.placing g && match s.gridItem? g with
    | some x => (List.range 12).any (s.clusterTakes g x)
    | none => false

/-- Grid `x` is considered before grid `y`. -/
def Grid.first (x y : Grid) : Bool := y.launch.prio < x.launch.prio || (x.launch.prio == y.launch.prio && x.order < y.order)

/-- The grid is the first of those whose next item fits. -/
def State.isNext (s : State) (g : Grid) : Bool := !s.work.grids.any (fun x => x.first g && s.canPlace x)

/-! ## Placing (R36, R58, R61) -/

/-- The coordinates of a thread in %vtid (R65). -/
def vtidOf (l : Launch) (t : Nat) : Word :=
  BitVec.ofNat 32 (t % l.bx + 1024 * (t / l.bx % l.byy) + 1048576 * (t / (l.bx * l.byy)))

/-- Take `n` fresh names. -/
def State.freshN (s : State) (n : Nat) : Nat × State := (s.ctl.nextId, { s with ctl := { s.ctl with nextId := s.ctl.nextId + n } })

/-- PDL of the grid's queue (R40). -/
def State.pdlOf (s : State) (g : Grid) : Nat := (s.queueOf g.gid.queue).pdl

/-- The first byte of a thread's local memory (R36). -/
def tlsOf (g : Grid) (index tid : Nat) : DWord := BitVec.ofNat 64 (g.launch.tlsva.toNat + (index * g.quota.qthr + tid) * g.launch.tlsb)

/-- The initial warps of a block, their names counted from `base`. -/
def initialWarps (g : Grid) (block index base : Nat) (slots : List (BitVec 5)) : List Warp :=
  let n := g.launch.threads
  (List.range (ceilDiv n 32)).map (fun w =>
    Warp.born (base + n + 2 * w) block (slots.getD w 0) (Vector.ofFn (fun (l : Fin 32) =>
      let t := 32 * w + l.val
      if t < n then some { Thread.born (base + t) t (tlsOf g index t) with vtid := vtidOf g.launch t } else none)) g.kernel.tvecVa)

/-- The fragment of an initial warp. -/
def initialFrag (g : Grid) (w : Warp) (now : Nat) : Frag :=
  (Frag.born (w.id + 1) w.id (BitVec.ofNat 64 g.kernel.base) w.live now).setU 0 g.launch.pva

/-- Place one block on a core with its warps in the given partitions. -/
def State.placeBlock (s : State) (g : Grid) (index core : Nat) (parts : List Nat) : State :=
  let r := s.freshN (1 + g.launch.threads + 2 * g.quota.warps)
  let slots := s.takeSlots core g.launch.shadow parts
  let again := g.again.find? (fun x => x.1 == index)
  let b := Block.born r.1 g.key index (index / g.launch.gang) core g.kernel g.quota (s.pdlOf g)
    (match again with | some x => x.2.1 | none => 0) slots.1 slots.2 s.cycle
  let ws := initialWarps g r.1 index (r.1 + 1) slots.1
  (r.2.modWork fun y => { y with
    blocks := y.blocks ++ [b], warps := y.warps ++ ws, frags := y.frags ++ ws.map (fun w => initialFrag g w s.cycle) }).jobResident g.job

/-- The item is taken from what the grid has left to place. -/
def Grid.taken (g : Grid) (u now : Nat) : Grid :=
  { g with
    tstart := if g.nextUnit = 0 then now else g.tstart
    nextUnit := if g.nextUnit = u then u + 1 else g.nextUnit
    again := g.again.filter (fun x => x.1 / g.launch.gang != u) }

/-- The grid that `p` selects whose next item is placed now, and fits somewhere; a queue's reset lets two grids have one name
(R374). -/
def State.nextGrid? (s : State) (p : Grid → Bool) (resume : Bool) : Option (Grid × Nat) :=
  match s.work.grids.find? (fun g => p g && s.canPlace g && (match s.gridItem? g with | some x => x.1 == resume | none => false) && s.isNext g) with
  | none => none
  | some g => (s.gridItem? g).map (fun x => (g, x.2))

def execBlockPlace (grid : GridId) (core : Nat) (parts : List Nat) (s : State) : Out :=
  match s.nextGrid? (fun g => g.gid == grid) false with
  | none => .next s
  | some (g, u) =>
      if g.launch.gang == 1 && s.coreFits g u core && s.clusterOk g (false, u) (core / 16) && s.partsTake core g parts then
        .next ((s.placeBlock g u core parts).modGrid g.key (fun x => x.taken u s.time))
      else .next s

/-- Distinct cores of one cluster that each take a block of the item, and no hold or avoidance against it. -/
def State.coresOk (s : State) (g : Grid) (x : Bool × Nat) (cores : List Nat) : Bool :=
  let cl := cores.headD 0 / 16
  cores.length == s.itemSize g x && s.hosts g cl && cores.Nodup && cores.all (fun c => c / 16 == cl && s.coreFits g x.2 c) && s.clusterOk g x cl

/-- A hold ends when its gang is placed. -/
def State.dropHold (s : State) (grid gang : Nat) : State :=
  s.modWork fun y => { y with holds := y.holds.filter (fun h => !(h.grid == grid && h.gang == gang)) }

def execGangPlace (grid : GridId) (cores : List Nat) (s : State) : Out :=
  match s.nextGrid? (fun g => g.gid == grid) false with
  | none => .next s
  | some (g, u) =>
      if 1 < g.launch.gang && s.coresOk g (false, u) cores then
        let s1 := (List.range cores.length).foldl (fun (s : State) i =>
          let c := cores.getD i 0
          match s.autoParts c g with
          | some parts => s.placeBlock g (u * g.launch.gang + i) c parts
          | none => s) s
        .next ((s1.modGrid g.key (fun x => x.taken u s.time)).dropHold g.key u)
      else .next s

/-! ## Gang holds (R63) -/

/-- The first unplaced gang of a priority class. -/
def State.firstGang? (s : State) (prio : Nat) : Option (Nat × Nat) :=
  let gs := s.work.grids.filter (fun g => g.launch.prio == prio && 1 < g.launch.gang && s.placing g && (s.gridItem? g).isSome)
  match gs.find? (fun g => !gs.any (fun x => x.first g)) with
  | none => none
  | some g => (s.gridItem? g).map (fun x => (g.key, x.2))

/-- Note the first gangs, keeping the time of those that were first already. -/
def State.noteFirst (s : State) : State :=
  if s.work.grids.all (fun g => g.launch.gang ≤ 1) && s.work.firstGangs.isEmpty then s
  else s.modWork fun y => { y with firstGangs := (List.range 8).filterMap (fun p =>
    (s.firstGang? p).map (fun x =>
      (y.firstGangs.find? (fun f => f.prio == p && f.grid == x.1 && f.gang == x.2)).getD { prio := p, grid := x.1, gang := x.2, since := s.time })) }

def execGangHold (grid : GridId) (cluster : Nat) (s : State) : Out :=
  let now := s.noteFirst
  match now.work.firstGangs.find? (fun f => (match s.grid? f.grid with | some g => g.gid == grid | none => false) && f.since + 100000 ≤ s.time) with
  | none => .next s
  | some f =>
      match s.grid? f.grid with
      | none => .next s
      | some g =>
          if cluster < 12 && s.hosts g cluster
              && !s.work.holds.any (fun h => h.cluster == cluster || (h.grid == f.grid && h.gang == f.gang)) then
            .next (s.modWork fun y => { y with holds := y.holds ++ [{ grid := f.grid, gang := f.gang, cluster, prio := f.prio }] })
          else .next s

/-! ## Resuming (R60, R335) -/

/-- The context that takes the place of another. -/
def moveSlot (old new : List (BitVec 5)) (x : BitVec 5) : BitVec 5 := new.getD (old.idxOf x) x

/-- Pins of a warp come back to the board (R269); they lie by warp and pin number. -/
def State.restorePins (s : State) (w : Nat) : State :=
  let mine := fun (x : Nat × DWord) => x.1 / 8 == w
  let back := (s.sync.swappedPins ++ s.sync.pinOverflow).filter mine
  (s.modWarp w (fun x => { x with pins := Vector.ofFn (fun (k : Fin 8) => (getKey (8 * w + k.val) back).getD x.pins[k]) })).modSync fun y =>
    { y with swappedPins := y.swappedPins.filter (fun x => !mine x), pinOverflow := y.pinOverflow.filter (fun x => !mine x) }

/-- A fragment whose oldest instruction goes on over a save: an arrival at a barrier, a REL whose reply has come, an ATOM
whose requests are out (its reply is kept for the resume, log 20). -/
def State.keepsOn (s : State) (f : Frag) : Bool :=
  f.arrived.isSome || f.relSent || s.fab.requests.any (fun r => match r.purpose with | .atomic x _ => x == f.id | _ => false)

/-- A fragment of a block that resumes: an instruction that the save discarded reissues (R334). -/
def State.reissue (s : State) (f : Frag) : Frag :=
  match f.run with
  | .parked _ _ => if s.keepsOn f then f else { f with run := .ready }
  | _ => f

/-- The pins and pans of a resumed block come back, once no deferred fill is left (R335). -/
def State.restore (s : State) (block : Nat) : State :=
  match s.block? block with
  | none => s
  | some b =>
      if !b.restoring then s
      else
        let s := (s.blockWarps block).foldl (fun s w => s.restorePins w.id) s
        (s.modBlock block (fun x => { x with restoring := false })).modWork fun y =>
          { y with pans := updWhere (fun p => p.block == block) (fun p => { p with opened := s.cycle, expired := false }) y.pans }

/-- Put a saved block on a core. -/
def State.resumeOne (s : State) (g : Grid) (b : Block) (core : Nat) (parts : List Nat) : State :=
  let slots := s.takeSlots core g.launch.shadow parts
  let s := (s.blockWarps b.id).foldl (fun s w => s.modWarp w.id (fun x => { x with ctx := moveSlot b.slots slots.1 x.ctx })) s
  let s := (s.blockFrags b.id).foldl (fun s f => s.setFrag (s.reissue f)) s
  let s := s.modBlock b.id (fun x => { x with
    run := .placed, core, slots := slots.1, shadows := slots.2, preq := none, saving := false, restoring := true, pdl := s.pdlOf g, placedAt := s.cycle })
  s.jobResident g.job

def execBlockResume (block : Nat) (cores : List Nat) (s : State) : Out :=
  match (s.block? block).bind (fun b => s.grid? b.grid) with
  | none => .next s
  | some g0 =>
      match s.nextGrid? (fun g => g.key == g0.key) true with
      | none => .next s
      | some (g, u) =>
          let bs := s.work.blocks.filter (fun b => b.grid == g.key && b.gang == u && b.run == .saved)
          if bs.any (fun b => b.id == block) && s.coresOk g (true, u) cores then
            let s1 := (List.range bs.length).foldl (fun (s : State) i =>
              let c := cores.getD i 0
              match bs[i]?, s.autoParts c g with
              | some b, some parts => s.resumeOne g b c parts
              | _, _ => s) s
            .next (s1.dropHold g.key u)
          else .next s

end Sys2Proof.Machine
end

