-- ==== Sys2Proof/Machine/Pages.lean ====
section
/-! DEFINITION. Page walks, page messages as they arrive, deferred fills and page timeouts
(09 R188 to R190; 10 R205 to R218). -/

namespace Sys2Proof.Machine

open Sys2Proof

/-! ## Walks (R188, R189) -/

/-- Entries of a core's L1 TLB and of a cluster's L2 TLB, and walkers of a die. -/
def l1Entries : Nat := 256
def l2Entries : Nat := 8192
def walkers : Nat := 64

/-- A translation enters a TLB of `limit` entries; which one a full TLB gives up for it is free (log 75). -/
def enterTlb (limit pick : Nat) (x : Translation) (tlb : List Translation) : List Translation :=
  if tlb.contains x then tlb
  else
    let own := tlb.filter (fun y => y.holder == x.holder)
    (if own.length < limit then tlb else match own[pick % limit]? with | some y => tlb.filter (· != y) | none => tlb) ++ [x]

/-- The TLBs of a core and of its cluster take a translation. -/
def State.fillTlbs (s : State) (core : Nat) (job : BitVec 16) (page : DWord) : State :=
  let d := s.drawN 2
  d.2.modMem fun y => { y with
    l1 := enterTlb l1Entries (d.1 0) ⟨core, job, page⟩ y.l1, l2 := enterTlb l2Entries (d.1 1) ⟨core / 16, job, page⟩ y.l2 }

/-- A core takes a translation of its cluster into its own TLB: an access that finds it there does so, and when is free
(log 75, DEDUCED). -/
def State.takeTranslation (s : State) : State :=
  let d := s.drawN 3
  match s.mem.l2[d.1 0 % (s.mem.l2.length + 1)]? with
  | some x => d.2.modMem fun y => { y with l1 := enterTlb l1Entries (d.1 1) { x with holder := 16 * x.holder + d.1 2 % 16 } y.l1 }
  | none => d.2

/-- The walk is in a walker: fewer than 64 of its die, that of the core which started it, stand before it. -/
def State.inWalker (s : State) (x : Walk) : Bool :=
  ((s.mem.walks.takeWhile (· != x)).filter (fun y => y.cores.headD 0 / 96 == x.cores.headD 0 / 96)).length < walkers

/-- A walk ends: if the page is mapped the TLBs of the cores that wait for it take it, and every joined access replays. -/
def execPageWalkDone (job : BitVec 16) (va : DWord) (s : State) : Out :=
  match s.mem.walks.find? (fun x => x.job == job && x.page == va) with
  | none => .next s
  | some x =>
      if !s.inWalker x then .next s
      else
        let s := s.modMem fun y => { y with walks := y.walks.filter (· != x) }
        match s.leaf? job va with
        | some lf => .next (x.cores.foldl (fun (s : State) c => s.fillTlbs c job lf.page) s).wakePages
        | none => .next s.wakePages

/-- The sluice engine frees a full frame (R207). -/
def execMemoryPressureEvict (job : BitVec 16) (va : DWord) (s : State) : Out :=
  match s.leaf? job va with
  | none => .next s
  | some lf =>
      let sh := pteShst lf.pte
      if (sh == shGathered || sh == shPartial || sh == shPending) && (s.transition? job lf.page).isNone && (s.fill? job lf.page).isNone then .next ((s.evictPage lf).wakePages) else .next s

/-! ## Taking a page message (R212, R217) -/

/-- The sender of a message hears that the page is lost. -/
def State.sayFail (s : State) (p : Arrival) (m : PageMsg) (g : Option Group) : State :=
  let m' : PageMsg := { m with src := match g with | some g => BitVec.ofNat 6 g.rank | none => 0, status := 0, gran := 0, ngran := 0, data := [], poison := 0 }
  s.send p.src clsPage p.key (fun h => .fail h m')

/-- The sender of a message is to send it again (R211). -/
def State.sayBusy (s : State) (p : Arrival) (g : Group) (m : PageMsg) : State :=
  let m' : PageMsg := { m with src := BitVec.ofNat 6 g.rank, status := 0, gran := 0, ngran := 0, data := [], poison := 0 }
  s.send p.src clsPage p.key (fun h => .busy h m')

/-- A message restarts the sender's timer at every operation of the page (R217). -/
def State.hearPage (s : State) (job : BitVec 16) (page : DWord) (rank : Nat) : State :=
  let g := fun (t : Transition) => { t with heard := setKey rank s.time t.heard }
  s.modMem fun y => { y with transitions := updWhere (fun t => t.job == job && t.page == page) g y.transitions }

/-- The leaf agrees with the message in SZ, SGID and being sharded; `role` is the ROLE that the kind of message
implies, where it implies one. -/
def leafAgrees (lf : Leaf) (m : PageMsg) (role : Option Bool) : Bool :=
  lf.page == m.va && pteShst lf.pte != shPrivate && pteSz lf.pte == m.sz && pteSgid lf.pte == m.sgid
    && (match role with | some r => pteRole lf.pte == r | none => true)

/-- Take a page message in: check it against the leaf, and go on; `lost` acts at a FAILED leaf. `quiet` messages get no FAIL
for an answer (log 44, DEDUCED). -/
def State.onPage (s : State) (p : Arrival) (m : PageMsg) (role : Option Bool) (quiet : Bool)
    (k : State → Leaf → Group → State) (lost : State → Leaf → State := fun s _ => s) : Out :=
  s.ingress p clsPage (ceilDiv m.data.length 4) fun s =>
    if 16 < m.ngran.toNat then s.dropPacket else
    let answer := fun (s : State) (g : Option Group) => if quiet then s else s.sayFail p m g
    match s.keyJob? p.key with
    | none => answer s none
    | some j =>
        match s.leaf? j.num m.va with
        | none => answer s none
        | some lf =>
            if lf.page == m.va && pteShst lf.pte == shFailed then lost s lf
            else if !leafAgrees lf m role then answer s (s.group? m.sgid)
            else if !s.groupOk lf then (answer s (s.group? m.sgid)).failQuiet lf
            else match s.leafGroup lf with
            | none => s
            | some g =>
                let s := s.hearPage lf.job lf.page m.src.toNat
                let sh := pteShst lf.pte
                let settled := sh == shSharded || sh == shGathered || sh == shPending
                if m.gen != pteGen lf.pte && settled && (s.transition? lf.job lf.page).isNone && (s.fill? lf.job lf.page).isNone then s
                else k s lf g

/-- The operation of a message is open here and has begun. -/
def State.openOp? (s : State) (lf : Leaf) (m : PageMsg) : Option Transition :=
  (s.transition? lf.job lf.page).filter (fun t => !t.requested && t.opn == m.opn)

/-! ## Requests to the coordinator -/

/-- The message codes of R209. -/
def pageType : Instr → BitVec 8
  | .greq _ _ => 1 | .gather _ _ => 2 | .gdata _ _ => 3 | .gdone _ _ => 4 | .dreq _ _ => 5 | .drain _ _ => 6 | .dsum _ _ => 7
  | .ddone _ _ => 8 | .pageEnd _ _ => 9 | .fetch _ _ => 10 | .fdata _ _ => 11 | .busy _ _ => 12 | .fail _ _ => 13
  | _ => 0

/-- The 32-byte page block of a message (R208). -/
def pageBlock (type : BitVec 8) (m : PageMsg) : List Byte :=
  [type, m.src.setWidth 8] ++ bytesOf (m.sgid.setWidth 16) 2 ++ bytesOf m.gen 2 ++ bytesOf m.opn 2 ++ bytesOf m.va 8
    ++ [m.sz.setWidth 8, m.status, 0, 0] ++ bytesOf m.gran 4 ++ [m.ngran] ++ List.replicate 7 0

/-- GREQ or DREQ at the coordinator: absorbed while an operation is open, else it starts one. -/
def State.onRequest (s : State) (p : Arrival) (m : PageMsg) (lf : Leaf) (g : Group) (kind : OpKind) : State :=
  if lf.coordinator g.n ≠ g.rank then s
  else if (s.transition? lf.job lf.page).any (fun t => !t.requested) then s
  else
    let room := s.canOpen true && (if kind == OpKind.drain then s.pageEntryFree && !s.pageHeld lf
      else pteShst lf.pte != shSharded || s.isSwapped lf.job || s.frameFree lf.size)
    if room then s.startOp lf g kind else s.sayBusy p g m

def execGreq (p : Arrival) (m : PageMsg) (s : State) : Out :=
  s.onPage p m (some false) false fun s lf g => s.onRequest p m lf g .gather

def execDreq (p : Arrival) (m : PageMsg) (s : State) : Out :=
  s.onPage p m (some true) false fun s lf g => s.onRequest p m lf g .drain

/-! ## Gathers (R213) -/

def execGather (p : Arrival) (m : PageMsg) (s : State) : Out :=
  s.onPage p m none false fun s lf g =>
    if pteRole lf.pte || (s.openOp? lf m).isSome then s
    else
      let room := (s.transition? lf.job lf.page).isSome || s.canOpen false
      let frame := pteShst lf.pte != shSharded || s.isSwapped lf.job || s.frameFree lf.size
      if room && frame then s.onGather lf g m.opn false else s.sayBusy p g m

/-- Put the granules of a message in the full frame; those of poisoned lines poison theirs (R355). -/
def State.landGranules (s : State) (lf : Leaf) (g : Group) (m : PageMsg) : State :=
  let qs := msgGranules m g.n
  (List.range qs.length).foldl (fun s i =>
    let q := qs.getD i 0
    let p : Place := .frame lf.job lf.page (16 * q)
    if lf.granules ≤ q then s
    else if bit m.poison i then s.addPoison p 16
    else s.putAt p (bytesOf (m.data.getD i 0) 16)) s

/-- Count granules of a rank. -/
def Transition.count (t : Transition) (rank n : Nat) : Transition := { t with got := setKey rank ((getKey rank t.got).getD 0 + n) t.got }

/-- A message that has been acted on already is absorbed (R212). -/
def Transition.repeats (t : Transition) (m : PageMsg) : Bool := t.seen.contains m.gran.toNat

def Transition.note (t : Transition) (m : PageMsg) : Transition := { t with seen := t.seen ++ [m.gran.toNat] }

/-- Every foreign granule has landed. -/
def Transition.complete (t : Transition) (lf : Leaf) (g : Group) : Bool :=
  (List.range g.n).all (fun r => r == g.rank || ownedBy lf.granules g.n r ≤ (getKey r t.got).getD 0)

def execGdata (p : Arrival) (m : PageMsg) (s : State) : Out :=
  s.onPage p m (some false) false fun s lf g =>
    match s.openOp? lf m with
    | none => s.sayBusy p g m
    | some t =>
        if pteShst lf.pte != shGathering || t.repeats m then s
        else
          let t := (t.note m).count m.src.toNat m.ngran.toNat
          let s := (s.landGranules lf g m).setTransition t
          if t.complete lf g then (s.setShst lf shGathered).memberDone (s.reLeaf lf) g 0 else s

def execGdone (p : Arrival) (m : PageMsg) (s : State) : Out :=
  s.onPage p m (some false) false fun s lf g => if (s.openOp? lf m).isSome then s.onDone lf g m.src.toNat else s

/-! ## Drains (R215, R216) -/

def execDrain (p : Arrival) (m : PageMsg) (s : State) : Out :=
  s.onPage p m none false fun s lf g =>
    if !pteRole lf.pte || (s.openOp? lf m).isSome then s
    else
      let room := (s.transition? lf.job lf.page).isSome || s.canOpen false
      let entry := pteShst lf.pte == shDraining || s.pageEntryFree
      if room && entry && !s.pageHeld lf then s.onDrain lf g m.opn false else s.sayBusy p g m

def execDsum (p : Arrival) (m : PageMsg) (s : State) : Out :=
  s.onPage p m (some true) false fun s lf g =>
    match s.openOp? lf m with
    | none => s.sayBusy p g m
    | some t => if t.repeats m then s else s.onDsum lf g (t.note m) m

def execDdone (p : Arrival) (m : PageMsg) (s : State) : Out :=
  s.onPage p m (some true) false fun s lf g => if (s.openOp? lf m).isSome then s.onDone lf g m.src.toNat else s

/-- END of a gather or a drain. -/
def execPageEnd (p : Arrival) (m : PageMsg) (s : State) : Out :=
  s.onPage p m none false fun s lf _ => if (s.openOp? lf m).isSome then s.onEnd lf m.gen else s

/-! ## Deferred fills (R214) -/

/-- Serve a fetcher from the shard frame. -/
def State.serveFetch (s : State) (p : Arrival) (lf : Leaf) (g : Group) (m : PageMsg) : State :=
  if m.gen != pteGen lf.pte then
    s.send p.src clsPage p.key (fun h => .fdata h { pageMsg g lf m.opn with status := 1 })
  else (ownGroups lf.granules g.n g.rank 16).foldl (fun s qs =>
    let r := s.granuleMsg lf g m.opn qs
    r.2.send p.src clsPage p.key (fun h => .fdata h r.1)) s

/-- A FETCH is answered in every state but FAILED, whatever the leaf's GEN. -/
def execFetch (p : Arrival) (m : PageMsg) (s : State) : Out :=
  s.onPage p { m with gen := match s.keyJob? p.key with
      | some j => (match s.leaf? j.num m.va with | some lf => pteGen lf.pte | none => m.gen)
      | none => m.gen } (some false) false fun s lf g => s.serveFetch p lf g m

/-- A filled page of a job that has become swapped meanwhile: its frame is charged no longer (R206). -/
def State.filled (s : State) (lf : Leaf) : State :=
  match s.frame? lf.job lf.page with
  | some x => if s.isSwapped lf.job then s.charge x false else s
  | none => s

def execFdata (p : Arrival) (m : PageMsg) (s : State) : Out :=
  s.onPage p m (some false) false fun s lf g =>
    match s.fill? lf.job lf.page with
    | none => s
    | some t =>
        if m.status == 1#8 then ((s.dropFrame lf.job lf.page lf.size).closeFill lf.job lf.page).setShst lf shSharded
        else if t.repeats m then s
        else
          let t := (t.note m).count m.src.toNat m.ngran.toNat
          let s := (s.landGranules lf g m).setTransition t
          if t.complete lf g then ((s.closeFill lf.job lf.page).filled lf).setShst lf shGathered else s

/-- The sluice engine handles the oldest deferred fill of a resident job. -/
def execDeferredFill (job : BitVec 16) (s : State) : Out :=
  match s.job? job with
  | none => .next s
  | some j =>
      match j.deferred with
      | [] => .next s
      | page :: rest =>
          if j.swapped then .next s
          else
            let s1 := s.setJob { j with deferred := rest }
            match s.leaf? job page with
            | none => .next s1
            | some lf =>
                if pteShst lf.pte != shPending then .next s1
                else if !s.frameFree lf.size || !s.canOpen false then .next s
                else match s.leafGroup lf with
                | none => .next s1
                | some g =>
                    let t := newTransition s1 lf g .fill 0 false
                    let s2 := (((s1.takeFrame lf).copyOwn lf g).openTransition t)
                    .next (s2.sendOthers lf g (fun h => .fetch h (pageMsg g lf 0)))

/-! ## BUSY and FAIL (R211, R217) -/

/-- The page block that a message carries. -/
def pageBody : Instr → Option PageMsg
  | .greq _ m | .gather _ m | .gdata _ m | .gdone _ m | .dreq _ m | .drain _ m | .dsum _ m | .ddone _ m | .pageEnd _ m
  | .fetch _ m | .fdata _ m | .fail _ m => some m
  | _ => none

/-- A packet sent that a BUSY may answer: of the same operation of the page. -/
def Packet.answeredBy (x : Packet) (p : Arrival) (m : PageMsg) : Bool :=
  x.dst == p.src && (match pageBody x.body with
    | some b => b.sgid == m.sgid && b.gen == m.gen && b.opn == m.opn && b.va == m.va
    | none => false)

/-- The operation for which a message was sent is still open here. -/
def State.stillOpen (s : State) (lf : Leaf) (i : Instr) : Bool :=
  match i with
  | .greq _ _ | .dreq _ _ => (s.transition? lf.job lf.page).any (·.requested)
  | .fetch _ _ => (s.fill? lf.job lf.page).isSome
  | .gather _ m | .gdata _ m | .drain _ m | .dsum _ m => (s.openOp? lf m).isSome
  | _ => false

/-- The same message, sent again. -/
def Packet.resends (x y : Packet) : Bool := pageType x.body == pageType y.body && pageBody x.body == pageBody y.body

/-- Keep the packets that a BUSY may answer, each once, until 4 µs have passed: it names none, so all are sent again, and
those that were taken are absorbed (R211, R212) (log 43, DEDUCED). -/
def State.keepBusy (s : State) (p : Arrival) (m : PageMsg) (ok : Instr → Bool) : State :=
  let xs := (s.fab.outbox.filter (fun x => x.answeredBy p m && ok x.body)).foldl (fun l x => l.filter (fun y => !y.resends x) ++ [x]) []
  s.modMem fun y => { y with busyRetries := y.busyRetries ++ xs.map (fun x => (s.time, x)) }

/-- A FAIL that was answered so is sent again though the page is FAILED here. -/
def execBusy (p : Arrival) (m : PageMsg) (s : State) : Out :=
  s.onPage p m none true (fun s lf _ => s.keepBusy p m (s.stillOpen lf))
    (fun s _ => s.keepBusy p m (fun i => match i with | .fail _ _ => true | _ => false))

/-- 4 µs after a BUSY the message is sent again. -/
def execBusyRetry (index : Nat) (s : State) : Out :=
  match s.mem.busyRetries[index]? with
  | none => .next s
  | some (t, x) =>
      if s.time < t + 4000 then .next s
      else .next ((s.modMem fun y => { y with busyRetries := y.busyRetries.eraseIdx index }).post x)

/-- A member that receives FAIL fails the page itself (log 55, DEDUCED). -/
def execFail (p : Arrival) (m : PageMsg) (s : State) : Out :=
  s.onPage p m none true fun s lf g => if s.pageHeld lf then s.sayBusy p g m else s.failPage lf g

/-! ## Timeouts (R217) -/

/-- The ranks that an operation on a page waits for. -/
def Transition.awaits (t : Transition) (lf : Leaf) (g : Group) : List Nat :=
  let c := lf.coordinator g.n
  let missing := (List.range g.n).filter (fun r => r != g.rank && (getKey r t.got).getD 0 < ownedBy lf.granules g.n r)
  if t.kind == OpKind.fill then missing
  else if t.requested then [c]
  else
    (if t.coordinator then (List.range g.n).filter (fun r => r != g.rank && !t.dones.contains r) else if t.sentDone && t.kind == OpKind.drain then [c] else [])
      ++ (if pteShst lf.pte == shGathering then missing else [])
      ++ (if t.kind == OpKind.drain && t.written.length < ownedBy lf.granules g.n g.rank then [(g.rank + g.n - 1) % g.n] else [])

/-- An operation on a page has waited for the rank past TMO. -/
def Transition.silent (t : Transition) (lf : Leaf) (g : Group) (rank now : Nat) : Bool :=
  (t.awaits lf g).contains rank && (match getKey rank t.heard with | some h => decide (h + g.tmoNs ≤ now) | none => false)

/-- The rank has been silent past TMO at an operation of the page that waits for it: each runs its own timer (R217). -/
def State.pageSilent (s : State) (lf : Leaf) (g : Group) (rank : Nat) : Bool :=
  [s.transition? lf.job lf.page, s.fill? lf.job lf.page].any (fun t => match t with | some t => t.silent lf g rank s.time | none => false)

def execPageTimeout (job : BitVec 16) (va : DWord) (rank : BitVec 6) (s : State) : Out :=
  match s.leaf? job va with
  | none => .next s
  | some lf =>
      match s.leafGroup lf with
      | none => .next s
      | some g => if s.pageSilent lf g rank.toNat && !s.pageHeld lf then .next (s.failPage lf g) else .next s

end Sys2Proof.Machine
end

