-- ==== Sys2Proof/Machine/Power.lean ====
section
/-! DEFINITION. The power governor (06 R113; 22 R361 to R364). -/

namespace Sys2Proof.Machine

open Sys2Proof

/-- PGOV as its 64-bit value, and from one with the bounds of R361. -/
def Pgov.value (g : Pgov) : DWord :=
  0#21 ++ g.floor ++ g.ramp ++ g.step ++ g.tlead ++ BitVec.ofBool g.tideEn ++ BitVec.ofBool g.rakeEn ++ 0#2

def Pgov.ofValue (v : DWord) : Pgov :=
  let clamp := fun (lo hi x : Nat) => max lo (min hi x)
  { floor := BitVec.ofNat 11 (clamp 0 1200 (bits v 32 11).toNat), ramp := BitVec.ofNat 12 (clamp 10 1500 (bits v 20 12).toNat)
    step := bits v 8 12, tlead := BitVec.ofNat 4 (clamp 1 15 (bits v 4 4).toNat), tideEn := bit v 3, rakeEn := bit v 2 }

/-- floor(t) of R364 in tenths of a watt, by one period on from P: P falls by RAMP ÷ 10 W, down to FLOOR. A FLOOR above P
lets it rise no faster than R362 allows. -/
def floorNext (ramp least now : Nat) : Nat := max (min least (now + ramp)) (now - ramp)

/-- One period of 1 µs, in which P may change by RAMP tenths of a watt (R362): the settings written take effect; the refill
rates keep foreground power to what P may rise to, and to the floor in the period in which it takes over the rake's share
(R363); the rake fills up to the floor (R364). A reset that is pending lets power fall to nothing (R373). -/
def execGovernorPeriod (s : State) : Out :=
  let y := s.power
  let g := y.pgovNext.getD y.pgov
  let n := y.period + 1
  let demand := if s.fw.resetPending then 0 else Config.foregroundPower n
  let floor := floorNext g.ramp.toNat (if s.fw.resetPending then 0 else 10 * g.floor.toNat) y.now
  let fg := if s.fw.dstat.fwRun then min demand (if y.raking then floor else y.now + g.ramp.toNat) else demand
  let refill := Config.refill n * fg / max 1 demand
  .next { s with power := { y with
    pgov := g, pgovNext := none, period := n, now := if g.rakeEn then max fg floor else fg, raking := g.rakeEn && decide (fg < floor)
    budgets := s.work.liveCores.map (fun c => (c, ((y.budgets.find? (fun x => x.1 == c)).map (·.2)).getD 0 + (refill : Int))) } }

end Sys2Proof.Machine
end

