-- ==== Sys2Proof/Machine/Save.lean ====
section
/-! DEFINITION. Saving blocks: the save area, the cooperative and the forced save (09 R176; 12 R269;
18 R331 to R337). -/

namespace Sys2Proof.Machine

open Sys2Proof

/-! ## Writing a save area (R336, R337) -/

/-- The next free VA of the job's region, and the end of the region. -/
def State.nextArea (s : State) (job : BitVec 16) : Option (Nat × Nat) :=
  match (s.job? job).bind (·.saveArea) with
  | none => none
  | some (va, len) =>
      let used := s.work.blocks.filter (fun b => (b.run == .saved || b.restoring) && b.area != 0#64 && (match s.grid? b.grid with | some g => g.job == job | none => false))
      some ((used.map (fun b => b.area.toNat + b.areaLen)).foldl max (ceilDiv va.toNat 64 * 64), va.toNat + len.toNat)

/-- Write the save area of a block, where its job's region has room. -/
def State.writeSave (s : State) (b : Block) (job : BitVec 16) : State :=
  match s.nextArea job with
  | none => s
  | some (va, last) =>
      let bs := s.imageOf b job va
      if last < va + bs.length then s
      else (s.writeArea job (BitVec.ofNat 64 va) bs).modBlock b.id (fun x => { x with area := BitVec.ofNat 64 va, areaLen := bs.length })

/-! ## The last step of a save -/

/-- The pins of a saved warp go to the swapped-pin table, or beyond its 8,192 entries (R269). -/
def State.savePins (s : State) (w : Warp) : State :=
  let names := ((List.range 8).map (fun k => (8 * w.id + k, w.pins.toList.getD k 0))).filter (fun x => x.2 != 0#64)
  s.modSync fun y =>
    let room := 8192 - y.swappedPins.length
    { y with swappedPins := y.swappedPins ++ names.take room, pinOverflow := y.pinOverflow ++ names.drop room }

/-- Lanes outside a fragment's mask take what they hold in their own fragments (R335). -/
def Frag.merge (f : Frag) (fs : List Frag) : Frag :=
  let own := fun (l : Nat) => (fs.find? (fun x => x.mask.getLsbD l)).getD f
  { f with
    v := Vector.ofFn (fun (r : Fin 64) => Vector.ofFn (fun (l : Fin 32) => (own l).v[r][l]))
    p := Vector.ofFn (fun (r : Fin 7) => maskOf (fun l => bit ((own l).p[r]) l))
    t := Vector.ofFn (fun (r : Fin 4) => Vector.ofFn (fun (l : Fin 32) => (own l).t[r][l]))
    acc := Vector.ofFn (fun (r : Fin 4) => Vector.ofFn (fun (l : Fin 32) => (own l).acc[r][l])) }

def State.mergeWarp (s : State) (w : Nat) : State :=
  let fs := s.warpFrags w
  if fs.length ≤ 1 then s else fs.foldl (fun s f => s.setFrag (f.merge fs)) s

/-- The block is saved: its core is free, and its job swapped when no block of it is placed. -/
def State.saveOne (s : State) (b : Block) (job : BitVec 16) : State :=
  let s := s.forgetEarly ((s.liveThreads b.id).map (·.serial))
  let s := if b.restoring then s.readImage b job else s
  let s := (s.blockWarps b.id).foldl (fun s w => if b.restoring then s.mergeWarp w.id else (s.mergeWarp w.id).savePins w) s
  let s := ((s.modBlock b.id (fun x => { x with area := 0, areaLen := 0 })).writeSave b job).modBlock b.id (fun x => { x with run := .saved, core := 192, preq := none, saving := false, restoring := false })
  let left := s.work.blocks.any (fun x => x.run != .saved && (match s.grid? x.grid with | some g => g.job == job | none => false))
  let s := if left then s else s.jobSwapped job
  s.wakePans b.core

/-! ## Restoring (R335) -/

/-- The restoration of a resumed block, once the deferred fills of its job are done (R335). -/
def State.restoreBlock (s : State) (block : Nat) : State :=
  match s.block? block with
  | none => s
  | some b => match s.grid? b.grid with
    | none => s
    | some g => if !b.restoring || s.filling g.job then s else ((s.readImage b g.job).modBlock block (fun x => { x with area := 0, areaLen := 0 })).restore block

/-! ## What must end before a save -/

/-- Some engine operation must still run to completion (R334). -/
def Block.mustRun (b : Block) : Bool := b.queues.toList.any (fun q => match q with | o :: _ => b.headRuns o | [] => false)

/-- Start the drain of everything that a block holds; the drains are steps of their own (R252). -/
def State.drainAll (s : State) (b : Nat) : State :=
  (((s.releaseWhere b (fun _ => true)).arriveWhere b (fun _ => true)).startDrain b).landRedms (fun x => x.block == b)

/-- Nothing of the block is on its way any more; held stores stay with it (R264; log 68, DEDUCED). -/
def State.empty (s : State) (b : Block) : Bool :=
  b.fsb.isEmpty && b.wire.isEmpty && b.bsb.all Entry.held && !s.sync.redms.any (fun x => x.block == b.id)

/-- The block can be saved now. -/
def State.drained (s : State) (b : Block) : Bool := s.empty b && !b.mustRun

/-- The blocks that are saved together (R57): every placed block of a gang that has a live thread, those among them whose
own threads have all ended and whose steps of R346 go on. -/
def State.saveSet (s : State) (b : Block) : List Block :=
  let bs := (s.gangBlocks b.grid b.gang).filter (fun x => x.run == .placed)
  if bs.all (fun x => (s.liveThreads x.id).isEmpty) then [] else bs

/-- Drain the blocks and save them once everything is drained. -/
def State.saveAll (s : State) (bs : List Block) (job : BitVec 16) : State :=
  let s := bs.foldl (fun s b => s.drainAll b.id) s
  let now := bs.filterMap (fun b => s.block? b.id)
  if now.all s.drained then now.foldl (fun s b => s.saveOne b job) s else s

def execCooperativeSave (block : Nat) (s : State) : Out :=
  match s.block? block with
  | none => .next s
  | some b =>
      match s.grid? b.grid with
      | none => .next s
      | some g =>
          let bs := s.saveSet b
          if bs.any (fun x => x.id == block) && bs.all (fun x => x.preq.isSome && (s.blockWarps x.id).isEmpty) then .next (s.saveAll bs g.job)
          else .next s

/-! ## The forced save (R334) -/

/-- The operand address of a REL at a fragment's program counter. -/
def State.relVa (s : State) (job : BitVec 16) (k : Kernel) (f : Frag) : DWord :=
  match (s.fetch job k f.pc).1 with
  | .ok (.rel _ a _ _ _ imm) _ _ => f.getU a + disp12 imm
  | _ => 0

/-- A REL whose write has been sent counts as retired; its acknowledgement is awaited as a store's is, and a STEP trap
follows it where one is due (R339). -/
def State.retireRel (s : State) (b : Block) (job : BitVec 16) (f : Frag) : State :=
  match s.warp? f.warp, s.fab.requests.find? (fun r => r.purpose == .load f.id) with
  | some w, some r =>
      let d : Delivery := { tag := r.tag, block := b.id, warp := w.id, threads := w.serials f.mask, colour := 0,
                            va := s.relVa job b.kernel f, rank := none, sent := r.sent, failed := false, scope := 6, least := 5,
                            syncs := [], entry := none }
      let s := s.modFab fun y => { y with requests := updWhere (fun x => x == r) (fun x => { x with purpose := .posted }) y.requests }
      ((s.modSync fun y => { y with deliveries := y.deliveries ++ [d] }).setFrag { f with pc := f.pc + 8, relSent := false, replies := [], kept := [], run := .ready }).stepTrap f
  | _, _ => s

/-- What becomes of a fragment's oldest instruction that has not completed: it is discarded, a trap that waits to be
entered with it, and reissues at resume; the park reason stands until then (R112, R336). A STEP trap follows an
instruction that has retired, and stays. -/
def State.stopFrag (s : State) (b : Block) (job : BitVec 16) (f : Frag) : State :=
  match f.run with
  | .parked why _ =>
      if f.relSent && f.replies.isEmpty then s.retireRel b job f
      else if s.keepsOn f then s
      else
        let loads := s.fab.requests.any (fun r => r.purpose == .load f.id)
        let s := (s.modFab fun y => { y with requests := y.requests.filter (fun r => r.purpose != .load f.id) }).forgetWaits [f.id]
        let s := s.modSync fun y => { y with
          watches := (y.watches.map (fun w => { w with frags := w.frags.filter (· != f.id) })).filter (fun w => !w.frags.isEmpty)
          polls := y.polls.filter (· != f.id) }
        s.setFrag { (if why == .fullEmpty then f.endWait s.cycle else f) with
          run := .parked why s.cycle, replies := if loads then [] else f.replies, kept := if loads then [] else f.kept }
  | .atEntry t => if t.cause == .step then s else s.setFrag { f with run := .ready }
  | .ready | .stopped => s

/-- Cut a move at a byte. -/
def Move.cut (m : Move) (n : Nat) : Move × Move :=
  ({ src := m.src.map (fun x => x.cut 0 n), dst := m.dst.map (fun x => x.cut 0 n), len := n },
   { src := m.src.map (fun x => x.cut n (m.len - n)), dst := m.dst.map (fun x => x.cut n (m.len - n)), len := m.len - n })

/-- The moves of the first `k` pieces of at most 256 bytes, and those of the rest. -/
def cutMoves : Nat → List Move → List Move × List Move
  | _, [] => ([], [])
  | k, m :: ms =>
      let n := ceilDiv m.len 256
      if n ≤ k then let r := cutMoves (k - n) ms; (m :: r.1, r.2)
      else if k = 0 then ([], m :: ms)
      else let c := m.cut (256 * k); ([c.1], c.2 :: ms)

/-- The operation at the head of a queue stops at a 256-byte boundary, a free choice among those it may have come to; its
remote reads, whose bytes have not come whole, are forgotten. One that writes a buffer of the gang, cw or ca, stops too (log 21,
DEDUCED). -/
def State.stopHead (s : State) (b : Block) (job : BitVec 16) (q : BitVec 3) : State :=
  match b.queue q with
  | [] => s
  | o :: _ =>
      let all := b.queues.toList.flatten
      if o.wrote || o.moves.any moveToG || o.waits.any (fun w => all.any (fun x => x.id == w)) then s
      else
        let s := s.dropOps b.id [o.id]
        let s := s.modOp b.id q o.id (fun x => { x with started := false, fetched := [], outstanding := 0 })
        if !o.sources.isEmpty || (b.fsb ++ b.wire ++ b.bsb).any o.after? || s.opPoisoned o then s
        else
          let r := s.draw
          let c := cutMoves (r.1 % ((o.moves.map (fun m => ceilDiv m.len 256)).sum + 1)) o.moves
          if c.1.isEmpty then r.2
          else (r.2.writeOp b job q { o with moves := c.1 }).modOp b.id q o.id (fun x => { x with moves := c.2 })

/-- Engine operations that write a, w or c stop as a forced save begins. -/
def State.stopEngines (s : State) (b : Block) (job : BitVec 16) : State :=
  if b.saving then s else (List.range 8).foldl (fun s i => s.stopHead b job (BitVec.ofNat 3 i)) s

/-- Begin or continue the forced save of blocks that are saved together. -/
def State.forceSave (s : State) (bs : List Block) (job : BitVec 16) : State :=
  let ids := bs.map (·.id)
  let s := s.modWork fun y => { y with blocks := updWhere (fun x => ids.contains x.id) (fun x => { x with saving := true, preq := some (x.preq.getD s.cycle) }) y.blocks }
  let s := bs.foldl (fun s b => (s.blockWarps b.id).foldl (fun s w => s.unwind w.id) s) s
  let s := bs.foldl (fun s b => (s.blockFrags b.id).foldl (fun s f => s.stopFrag b job f) (s.stopEngines b job)) s
  s.saveAll bs job

/-- The forced save of the gangs of some blocks. -/
def State.forceBlocks (s : State) (ids : List Nat) : State :=
  ids.foldl (fun s id => match s.block? id with
    | none => s
    | some b => match s.grid? b.grid with
      | none => s
      | some g => if b.run == .placed then s.forceSave (s.saveSet b) g.job else s) s

/-- A forced save is due: one has begun, %pdl cycles have passed since %preq was set, or a debug stop holds
a fragment of the block (R334, R340). -/
def State.forceDue (s : State) (b : Block) : Bool :=
  b.saving || (match b.preq with | some t => t + b.pdl ≤ s.cycle | none => false) || (s.blockFrags b.id).any (fun f => f.run == .stopped)

def execForcedSave (block : Nat) (s : State) : Out :=
  match s.block? block with
  | none => .next s
  | some b => if b.run == .placed && s.forceDue b then .next (s.forceBlocks [block]) else .next s

end Sys2Proof.Machine
end

