-- ==== Sys2Proof/Machine/Retire.lean ====
section
/-! DEFINITION. The end of a block, errors, self-test and repair (04 R64; 09 R194, R195; 12 R264;
21 R345 to R359). -/

namespace Sys2Proof.Machine

open Sys2Proof

/-! ## The end of a block (R345, R346, R350) -/

/-- Its bound stores count as unbound from here on, and its bindings are gone (R264). -/
def State.unbind (s : State) (b : Block) : State :=
  let free := fun (es : List Entry) => es.map (fun e => { e with pieces := e.pieces.map (fun y => ({ y with sync := none } : Piece)) })
  (s.unbindBlock b.id).modBlock b.id (fun x => { x with binds := [], fsb := free x.fsb, wire := free x.wire, bsb := free x.bsb })

/-- Count a killed block in its grid. -/
def Grid.countKill (g : Grid) (index : Nat) (cause : BitVec 8) : Grid :=
  { g with nkill := g.nkill + 1, fblk := min g.fblk index, cause := if index ≤ g.fblk then cause else g.cause }

/-- Release everything that an ended block held. -/
def State.removeBlock (s : State) (b : Block) : State :=
  let ws := (s.blockWarps b.id).map (·.id)
  let s := s.modWork fun y => { y with
    blocks := y.blocks.filter (fun x => x.id != b.id), warps := y.warps.filter (fun w => w.block != b.id)
    pans := y.pans.filter (fun p => p.block != b.id) }
  let s := s.modSync fun y => { y with
    deliveries := y.deliveries.filter (fun d => d.block != b.id)
    swappedPins := y.swappedPins.filter (fun x => !ws.contains (x.1 / 8)), pinOverflow := y.pinOverflow.filter (fun x => !ws.contains (x.1 / 8)) }
  (s.modGrid b.grid (fun g =>
    { (match b.killed with | some c => g.countKill b.index c | none => g) with tend := s.time })).wakeReclaim.wakePans b.core |>.checkGangBars b

/-- The block has no thread left, or was killed. -/
def State.blockOver (s : State) (b : Block) : Bool :=
  (b.run == .ending || (b.run == .placed && (s.liveThreads b.id).isEmpty)) && b.queues.toList.all List.isEmpty
    && !s.coll.colls.any (fun k => k.block == b.id)

def execBlockEnd (block : Nat) (s : State) : Out :=
  match s.block? block with
  | none => .next s
  | some b =>
      match s.grid? b.grid with
      | none => .next s
      | some g =>
          if !s.blockOver b then .next s
          else
            let s := s.unbind b
            let s := if b.killed.isSome then (s.arriveWhere block (fun _ => true)).landRedms (fun x => x.block == block)
              else (s.drainAll block).publishHeld block (fun _ => true)
            match s.block? block with
            | none => .next s
            | some b =>
                let mine := s.sync.deliveries.filter (fun d => d.block == block)
                if !s.empty b || mine.any (fun d => !d.failed) then .next s
                else if b.killed.isNone && !mine.isEmpty then
                  .next (s.removeBlock { b with killed := some Cause.fabricDelivery.code })
                else .next (s.removeBlock b)

/-- Blocks that are not placed count as killed. A hold for one of their gangs stands until the grid's record is written (log 76,
DESIGN CHOICE). -/
def State.killUnplaced (s : State) (g : Grid) (cause : BitVec 8) : State :=
  let idx := g.again.map (·.1) ++ (List.range (g.launch.blocks - g.nextUnit * g.launch.gang)).map (fun i => g.nextUnit * g.launch.gang + i)
  s.modGrid g.key (fun x => idx.foldl (fun (y : Grid) i => y.countKill i cause) { x with nextUnit := x.units, again := [] })

/-- End a grid at the request of system software (R350): its blocks are killed with a cause the manual does
not name, and those not placed count as killed (log 22). -/
def execGridEndRequest (grid : GridId) (s : State) : Out :=
  match (match s.gridOf? grid (fun g => !g.detached) with | some g => some g | none => s.gridOf? grid (fun _ => true)) with
  | none => .next s
  | some g =>
      let r := s.draw
      let cause := BitVec.ofNat 8 r.1
      let s := r.2.killUnplaced g cause
      if g.run == .held then
        match s.grid? g.key with
        | some x => .next (s.finishGrid x x.verdict)
        | none => .next s
      else
      let ids := (s.work.blocks.filter (fun b => b.grid == g.key && b.killed.isNone)).map (·.id)
      .next (ids.foldl (fun s i => s.killBlock i cause) s)

/-! ## Consumed errors (R348) -/

/-- An uncorrectable error that the next instruction of a fragment may consume: of a register of its lanes (address 0), or of
the line of g at the address, which is found so and marked (R355). The fragment then issues, and consumes the error where
its instruction reads it (log 64, DESIGN CHOICE). -/
def execErrorConsume (frag : Nat) (addr : DWord) (s : State) : Out :=
  match s.frag? frag with
  | none => .next s
  | some f =>
      match s.warp? f.warp with
      | none => .next s
      | some w =>
          match s.block? w.block with
          | none => .next s
          | some b =>
              if !s.candidate f then .next s
              else
                let s := if addr == 0#64 then s else match (s.grid? b.grid).bind (fun g => s.leaf? g.job addr) with
                  | some lf => s.addPoison (lf.place addr) 1
                  | none => s
                .next { s with ctl := { s.ctl with
                  consuming := if addr == 0#64 then some { frag, mma := false, shadow := false } else s.ctl.consuming, agenda := .issue frag :: s.ctl.agenda } }

/-! ## Self-test (R356, R359) -/

/-- Another lane of the partition has the spare, or is to have it once its saves are done (R110). -/
def State.spareTaken (s : State) (core part lane : Nat) : Bool :=
  (s.repair.remaps ++ s.repair.mends.filterMap (fun m => match m with | .lane c p l => some (c, p, l) | .core _ | .channel _ => none)).any
    (fun x => x.1 == core && x.2.1 == part && x.2.2 != lane)

/-- A failure's action in the error record. -/
def failAction (s : State) (cls : Unit9) (unit : BitVec 32) : BitVec 8 :=
  match cls with
  | .lane => if s.spareTaken (bits unit 0 8).toNat (bits unit 8 2).toNat (bits unit 10 6).toNat then 7 else 4
  | .regFile | .buffer | .matrix | .sfu => 7
  | .hbm => if s.repair.erasures.contains ((bits unit 0 12).toNat, (bits unit 12 7).toNat) then 5 else if 4 ≤ (s.repair.erasures.filter (fun x => x.1 == (bits unit 0 12).toNat)).length then 6 else 5
  | .l2 | .bridge => 0
  | .roswald => 8

/-- Record a symbol position of a rank; the fifth is the channel's to retire. -/
def State.recordErasure (s : State) (cls : Unit9) (unit : BitVec 32) : State :=
  if cls == .hbm && failAction s cls unit == 5#8 then
    s.modRepair fun y => { y with erasures := y.erasures ++ (if y.erasures.contains ((bits unit 0 12).toNat, (bits unit 12 7).toNat) then [] else [((bits unit 0 12).toNat, (bits unit 12 7).toNat)]) }
  else s

def dayNs : Nat := 86400000000000

/-- The placed blocks of a core that hold a context in one of the partitions. -/
def State.residents (s : State) (core : Nat) (part : Option Nat) : List Nat :=
  ((s.coreBlocks core).filter (fun b => b.run == .placed && (match part with | some p => 0 < b.inPart p | none => true))).map (·.id)

/-- The placed blocks of the device. -/
def State.placedBlocks (s : State) : List Nat := (s.work.blocks.filter (fun b => b.run == .placed)).map (·.id)

/-! ## Remapping a lane, retiring a core or a channel (R64, R110, R195, R357) -/

/-- What is to be saved first. -/
def Mend.blocks (m : Mend) (s : State) : List Nat :=
  match m with
  | .lane c p _ => s.residents c (some p)
  | .core c => s.residents c none
  | .channel _ => s.placedBlocks

/-- Grids whose gangs no cluster can take any more: what is unplaced or saved is killed (R64). -/
def State.recheckGangs (s : State) : State :=
  s.work.grids.foldl (fun s g =>
    if g.launch.gang ≤ 1 || g.run != .released || s.gangPossible g then s
    else
      let s := s.killUnplaced g Cause.memberAbsent.code
      let saved := (s.work.blocks.filter (fun b => b.grid == g.key && b.run == .saved)).map (·.id)
      saved.foldl (fun s i => s.killBlock i Cause.memberAbsent.code) s) s

/-- A unit class whose failure retires a core (R356). -/
def retireClass (n : Nat) : BitVec 8 := [1#8, 2#8, 3#8, 5#8, 9#8].getD (n % 5) 5

/-- What is done once the saves are. The class in the record of a retired core is a free value (log 64, DESIGN CHOICE). -/
def State.finishMend (s : State) (m : Mend) : State :=
  match m with
  | .lane c p l => (s.modRepair fun y => { y with remaps := y.remaps ++ [(c, p, l)] }).logError 1 6 4 (laneUnit c p l) none
  | .core c =>
      let r := s.draw
      ((r.2.modWork fun y => { y with liveCores := y.liveCores.filter (· != c) }).recheckGangs).logError (retireClass r.1) 6 7 (BitVec.ofNat 32 c) none
  | .channel ch =>
      let s := s.modRepair fun y => { y with retiredChannels := insertNat ch y.retiredChannels }
      let cap := s.capacity
      (s.modMem fun y => { y with hbm := y.hbm.filter (fun c => c.1 < cap), poisoned := y.poisoned.filter (fun l => 64 * l < cap) }).logError
        6 6 6 (BitVec.ofNat 32 ch) none

/-- Go on with what has been decided: save what is in its way, and do it once nothing is. Until then nothing is placed there. -/
def State.mend (s : State) : State :=
  s.repair.mends.foldl (fun s m =>
    let s := s.forceBlocks (m.blocks s)
    if (m.blocks s).isEmpty then (s.modRepair fun y => { y with mends := y.mends.filter (· != m) }).finishMend m else s) s

def State.schedule (s : State) (m : Mend) : State :=
  (s.modRepair fun y => { y with mends := if y.mends.contains m then y.mends else y.mends ++ [m] }).mend

def State.retireCore (s : State) (core : Nat) : State := if s.work.liveCores.contains core then s.schedule (.core core) else s

def execCoreRetire (core : Nat) (s : State) : Out := .next (s.retireCore core)

/-- A lane fails: the spare takes its place; a second one of the partition retires the core (R110). -/
def State.remapLane (s : State) (core part lane : Nat) : State :=
  if !s.work.liveCores.contains core then s
  else if s.spareTaken core part lane then s.retireCore core
  else if s.repair.remaps.contains (core, part, lane) then s
  else s.schedule (.lane core part lane)

def execLaneRemap (core : Nat) (part : BitVec 2) (lane : BitVec 6) (s : State) : Out := .next (s.remapLane core part.toNat lane.toNat)

def State.retireChannel (s : State) (channel : Nat) : State :=
  if s.repair.retiredChannels.contains channel then s else s.schedule (.channel channel)

def execChannelRetire (channel : BitVec 8) (s : State) : Out := .next (s.retireChannel channel.toNat)

/-! ## Failures and self-tests -/

/-- What a failure of a unit brings about (R356). Which channels a restricted link cannot reserve is free. -/
def State.actOn (s : State) (cls : Unit9) (unit : BitVec 32) (action : BitVec 8) : State :=
  let core := (bits unit 0 8).toNat
  match cls with
  | .lane => s.remapLane core (bits unit 8 2).toNat (bits unit 10 6).toNat
  | .regFile | .buffer | .matrix | .sfu => s.retireCore core
  | .hbm => if action == 6#8 then s.retireChannel core else s
  | .l2 | .bridge => s.modRepair fun y => { y with degraded := if y.degraded.contains (cls, unit) then y.degraded else y.degraded ++ [(cls, unit)] }
  | .roswald => let r := s.draw; r.2.restrict core ((List.range 13).filter (fun i => r.1 / 2 ^ i % 2 = 1))

def State.failUnit (s : State) (cls : Unit9) (unit : BitVec 32) : State :=
  let act := failAction s cls unit
  ((s.logError (Unit9.code cls) 6 act unit none).recordErasure cls unit).actOn cls unit act

/-- A self-test ends. A unit that passes has erred once more; the sixteenth error within 24 hours counts as a
failure. -/
def execSelfTest (cls : Unit9) (unit : BitVec 32) (pass : Bool) (s : State) : Out :=
  let s := s.modRepair fun y => { y with tests := y.tests.filter (· != (cls, unit)) }
  if pass then
    let s1 := s.logError (Unit9.code cls) 5 0 unit none
    let recent := (s.repair.softErrors.filter (fun x => s.time < x.2.2 + dayNs)) ++ [(cls, unit, s.time)]
    let n := (recent.filter (fun x => x.1 == cls && x.2.1 == unit)).length
    let s2 := s1.modRepair fun y => { y with softErrors := if 16 ≤ n then recent.filter (fun x => !(x.1 == cls && x.2.1 == unit)) else recent }
    .next (if 16 ≤ n then s2.failUnit cls unit else s2)
  else .next (s.failUnit cls unit)

/-- An error is corrected in a unit of the device, an MMA being replayed among these (R353, R356, R359); class and unit are
free (log 4). -/
def State.correctError (s : State) : State :=
  let d := s.drawN 2
  let cls := [Unit9.lane, .regFile, .buffer, .l2, .matrix, .hbm, .roswald, .bridge, .sfu].getD (d.1 0 % 9) .l2
  let fr := d.1 1
  let unit := match cls with
    | .lane => laneUnit (fr % 192) (fr / 192) (fr / 768)
    | .hbm => hbmUnit (fr / 1152) fr (fr / 16)
    | .regFile | .buffer | .l2 | .matrix | .roswald | .bridge | .sfu => BitVec.ofNat 32 fr
  (if cls == .matrix then d.2.logError 5 3 1 unit none else d.2.logError (Unit9.code cls) 1 0 unit none).startTest cls unit

/-! ## Scrubbing (R354, R355, R358) -/

/-- The known-bad symbol positions of an HBM rank. -/
def State.knownBad (s : State) (channel rank : Nat) : List Nat :=
  (s.repair.erasures.filter (fun x => x.1 == channel + 256 * rank)).map (·.2)

/-- The symbols of a line that read wrong at positions that are not known to be bad. -/
def unknownErrors (known : List Nat) (wrong : BitVec 72) : List Nat := (List.range 72).filter (fun i => wrong.getLsbD i && !known.contains i)

/-- The Reed-Solomon code corrects the line (R354). -/
def decodes (known : List Nat) (wrong : BitVec 72) : Bool := 2 * (unknownErrors known wrong).length + known.length ≤ 8

/-- The scrubber reads a line of HBM whose symbols in `wrong` read wrong: corrects it, without a change of its value, or poisons
it. Which rank of the channel holds the line is free, and so is which line of a full frame it is, if it is one (log 30). It
pauses while a retirement or a remap is under way. -/
def execScrub (line : Nat) (wrong : BitVec 72) (s : State) : Out :=
  if s.capacity ≤ 64 * line || !s.repair.mends.isEmpty then .next s
  else
    let d := s.drawN 2
    let p := match s.mem.frames[d.1 0 % (s.mem.frames.length + 1)]? with
      | some x => .frame x.job x.page (64 * line % x.size)
      | none => Place.hbm (64 * line)
    let channel := s.channelOf (64 * line)
    let rank := d.1 1 % 16
    let known := s.knownBad channel rank
    match unknownErrors known wrong with
    | [] => .next d.2
    | i :: _ =>
        let unit := hbmUnit channel rank i
        if decodes known wrong then .next ((d.2.logError 6 1 0 unit none).startTest .hbm unit)
        else .next (((d.2.addPoison p 64).logError 6 2 0 unit none).startTest .hbm unit)

end Sys2Proof.Machine
end

