-- ==== Sys2Proof/Machine/Slices.lean ====
section
/-! DEFINITION. Job slices, and the messages that keep %time (14 R293, R313, R314). -/

namespace Sys2Proof.Machine

open Sys2Proof

def State.slice? (s : State) (sgid : BitVec 12) : Option Slice := s.coll.slices.find? (fun x => x.sgid == sgid)

def State.setSlice (s : State) (x : Slice) : State :=
  s.modColl fun y => { y with slices := updWhere (fun z => z.sgid == x.sgid) (fun _ => x) y.slices }

/-- Send an MGT message to every other member of a group. -/
def State.sendMgt (s : State) (g : Group) (mk : Arrival → Instr) : State :=
  g.others.foldl (fun s r => s.send (g.dev r) clsMgt 0 mk) s

/-- What waits to send to the other members of a group tries again: some of them may be late no more (R313). -/
def State.tryMembers (s : State) (g : Group) : State :=
  g.others.foldl (fun s r => (s.clearCovered (g.dev r)).flushEngines (g.dev r)) s

/-- No block of another job is being saved. -/
def State.tenantGone (s : State) (job : BitVec 16) : Bool :=
  !s.work.blocks.any (fun b => b.saving && (match s.grid? b.grid with | some g => g.job != job | none => false))

/-- At START a member whose job's first blocks are placeable sends READY and releases the job's grids. -/
def execSliceStart (sgid : BitVec 12) (s : State) : Out :=
  match s.slice? sgid, s.group? sgid with
  | some x, some g =>
      let s1 := (s.setSlice { x with begun := true }).modWork fun y =>
        { y with grids := updWhere (fun z => z.job == g.job) (fun z => { z with aborted := false }) y.grids }
      if !x.begun && !x.aborted && x.start ≤ s.time && s.tenantGone g.job && s1.work.grids.any (fun z => z.job == g.job && s1.canPlace z) then
        .next (s1.sendMgt g (fun h => .ready h sgid (BitVec.ofNat 64 x.start)))
      else .next s
  | _, _ => .next s

/-- The rank of a device in a group. -/
def Group.rankOf (g : Group) (dev : BitVec 11) : Option Nat := (List.range g.n).find? (fun r => g.dev r == dev)

def execReady (p : Arrival) (sgid : BitVec 12) (start : DWord) (s : State) : Out :=
  s.ingress p clsMgt 0 fun s =>
    match s.slice? sgid, s.group? sgid with
    | some x, some g =>
        match g.rankOf p.src with
        | some r => if x.start == start.toNat then
            (s.setSlice { x with readyRanks := insertNat r x.readyRanks }).tryMembers g else s
        | none => s
    | _, _ => s

/-- The ranks that have not been heard READY; the own one counts as ready once the slice has begun here. -/
def Slice.late (x : Slice) (g : Group) : List Nat :=
  (List.range g.n).filter (fun r => if r = g.rank then !x.begun else !x.readyRanks.contains r)

/-- The grid has not ended: it has blocks to place, or one that has neither ended nor been killed. -/
def State.gridGoes (s : State) (g : Grid) : Bool :=
  g.run == .held || g.nextUnit < g.units || !g.again.isEmpty
    || s.work.blocks.any (fun b => b.grid == g.key && b.run != .ending && !(b.run == .placed && (s.liveThreads b.id).isEmpty))

/-- Abort a slice here: the job's contexts are saved, its collectives end, and the host is told (R314). A grid that has
ended already is not ended by the abort (R56). -/
def State.abortSlice (s : State) (x : Slice) (g : Group) : State :=
  let s := s.setSlice { x with aborted := true }
  let s := s.modWork fun y => { y with grids := updWhere (fun z => z.job == g.job && s.gridGoes z) (fun z => { z with aborted := true }) y.grids }
  let mine := fun (b : Block) => match s.grid? b.grid with | some z => z.job == g.job | none => false
  let s := s.forceBlocks ((s.work.blocks.filter (fun b => b.run == .placed && mine b)).map (·.id))
  let s := (s.coll.colls.filter (fun k => k.job == g.job && k.closing.isNone)).foldl (fun s k => s.closeColl k 4 0) s
  (s.modFw fun y => { y with aborts := y.aborts ++ [x.sgid] }).tryMembers g

/-- Send SABORT to every other member and abort here. -/
def State.sendAbort (s : State) (x : Slice) (g : Group) (reason : BitVec 8) : State :=
  (s.sendMgt g (fun h => .sabort h x.sgid reason (BitVec.ofNat 64 x.start) (rankMask (x.late g)))).abortSlice x g

def execSabort (p : Arrival) (sgid : BitVec 12) (_reason : BitVec 8) (start : DWord) (_late : DWord) (s : State) : Out :=
  s.ingress p clsMgt 0 fun s =>
    match s.slice? sgid, s.group? sgid with
    | some x, some g => if x.start == start.toNat && !x.aborted then s.abortSlice x g else s
    | _, _ => s

def execSliceGraceExpire (sgid : BitVec 12) (s : State) : Out :=
  match s.slice? sgid, s.group? sgid with
  | some x, some g =>
      if !x.aborted && x.start + x.grace ≤ s.time && !(x.late g).isEmpty then .next (s.sendAbort x g 1) else .next s
  | _, _ => .next s

def execSliceAbortRequest (sgid : BitVec 12) (s : State) : Out :=
  match s.slice? sgid, s.group? sgid with
  | some x, some g => if x.aborted then .next s else .next (s.sendAbort x g 2)
  | _, _ => .next s

/-! ## The clock exchange (R293) -/

def execTimeqSend (peer : BitVec 11) (s : State) : Out :=
  if s.fw.dstat.fwRun then .next (s.send peer clsMgt 0 (fun h => .timeq h (BitVec.ofNat 64 s.time))) else .next s

def execTimeq (p : Arrival) (t1 : DWord) (s : State) : Out :=
  s.ingress p clsMgt 0 fun s =>
    s.send p.src clsMgt 0 (fun h => .timer h t1 (BitVec.ofNat 64 s.time) (BitVec.ofNat 64 s.time))

/-- Firmware adjusts %time from the four times. The manual bounds the difference that is left by 50 ns and
names no value (log 27). %time never goes back (R148). -/
def execTimer (p : Arrival) (t1 t2 t3 : DWord) (s : State) : Out :=
  s.ingress p clsMgt 0 fun s =>
    let r := s.draw
    let offset : Int := (((t2.toNat : Int) - t1.toNat) + ((t3.toNat : Int) - s.time)) / 2
    { r.2 with time := max s.time ((s.time : Int) + offset + (r.1 % 101 : Nat) - 50).toNat }

end Sys2Proof.Machine
end

