-- ==== Sys2Proof/Machine/Traps.lean ====
section
/-! DEFINITION. Trap instructions, return from a trap, entry after a wait, and pre-emption requests
(18 R326 to R333). -/

namespace Sys2Proof.Machine

open Sys2Proof

def execTrap (h : Head) (imm : Half) (s : State) : Out :=
  issue s 2 h .none [] fun c =>
    if c.act == 0#32 then c.retire c.f else c.trapWith .software c.act 0 (imm.setWidth 64)

def execBrk (h : Head) (imm : Half) (s : State) : Out :=
  issue s 2 h .none [] fun c =>
    if c.act == 0#32 then c.retire c.f else c.trapWith .breakpoint c.act 0 (imm.setWidth 64)

/-- A fragment that waits at trap entry tries again (R326). -/
def execTrapEntry (frag : Nat) (s : State) : Out :=
  match s.frag? frag with
  | none => .next s
  | some f =>
      match f.run, s.warp? f.warp with
      | .atEntry t, some w =>
          match s.block? w.block with
          | some b => if b.run == .placed && !b.saving then .next (s.enterTrap f w b t) else .next s
          | none => .next s
      | _, _ => .next s

/-! ## RETT (R329, R330) -/

/-- The instruction boundary after the one at `pc`, and whether `pc` is a boundary (R73). A packet that
cannot be fetched answers its fetch trap. -/
def State.boundary (s : State) (job : BitVec 16) (k : Kernel) (pc : DWord) : Except Cause DWord :=
  if !k.inside pc then .error .illegalOp
  else
    let va := k.packet pc
    match (match s.codeTrap job va with | some x => some x | none => s.codeTrap job (va + 11)) with
    | some x => .error x
    | none =>
        let p := s.peekPacket job va
        let off := pc.toNat - va.toNat
        if off % 4 != 0 || !(boundarySlots p).contains (off / 4) then .error .misaligned
        else
          let next := off / 4 + wordCount (slotWord p (off / 4))
          .ok (if 3 ≤ next then va + 12 else va + BitVec.ofNat 64 (4 * next))

/-- Causes whose %tinfo holds no destination descriptor (R323): FABRIC_DELIVERY, BREAKPOINT, STEP, SOFTWARE
and COLL_MISMATCH (log 31, DEDUCED). -/
def noDescriptor (cause : DWord) : Bool := [0x14, 0x17, 0x18, 0x19, 0x1B].contains cause.toNat

/-- The frames that .subst accepts: their descriptor names one vector register, or a predicate. -/
def substOk (x : TrapFrame) : Bool :=
  let cls := bits x.tinfo 0 4
  !noDescriptor x.tcause && ((cls == 1#4 && bits x.tinfo 10 2 == 0#2) || cls == 3#4)

def execRett (ch : Bool) (form : RettForm) (s : State) : Out :=
  issueU s 2 ch .none [] fun c =>
    if !c.f.handler then c.trap .privilege c.f.mask
    else
      let tpc := c.w.frame.tpc
      match c.s.boundary c.g.job c.b.kernel tpc with
      | .error cause => c.trapWith cause c.f.mask tpc 0
      | .ok next =>
          if form == .subst && !substOk c.w.frame then c.trap .illegalOp c.f.mask
          else
            let f := finish c { c.f with handler := false } (if form == .skip then next else tpc)
            let f := if form == .subst then { f with subst := some (bits c.w.frame.tmask 0 32) } else f
            .next ((c.s.setFrag f).markRetired)

/-! ## Pre-emption (R331, R333) -/

/-- Blocks whose %preq is set with that of `b`: its whole gang. -/
def State.gangOf (s : State) (b : Block) : List Block := s.gangBlocks b.grid b.gang

/-- Set %preq of placed blocks and of their gangs, in one step. -/
def State.signal (s : State) (bs : List Block) : State :=
  let ids := bs.flatMap (fun b => (s.gangOf b).map (·.id))
  s.modWork fun y => { y with blocks := updWhere (fun b => ids.contains b.id && b.run == .placed && b.preq.isNone) (fun b => { b with preq := some s.cycle }) y.blocks }

/-- The blocks of a cluster whose grid has a lower priority class. -/
def State.lowerBlocks (s : State) (cluster prio : Nat) : List Block :=
  s.work.blocks.filter (fun b => b.run == .placed && b.core / 16 == cluster &&
    (match s.grid? b.grid with | some g => decide (g.launch.prio < prio) | none => false))

def execPreq (ch : Bool) (d : BitVec 6) (s : State) : Out :=
  issueU s 2 ch (.uni d) [] fun c =>
    match c.s.queue? c.g.gid.queue with
    | none => c.trap .privilege c.f.mask
    | some q =>
        if !q.preempt then c.trap .privilege c.f.mask
        else
          let bs := c.s.lowerBlocks (c.b.core / 16) c.g.launch.prio
          let n := (bs.filter (fun b => b.preq.isNone)).length
          c.retireIn ((c.s.signal bs).soil c.b.id) (c.f.setU d (BitVec.ofNat 64 n))

end Sys2Proof.Machine
end

