-- ==== Sys2Proof/Machine/Requests.lean ====
section
/-! DEFINITION. Firmware requests (03 R45; 09 R185, R190; 10 R200, R201; 14 R294, R297; 18 R340). -/

namespace Sys2Proof.Machine

open Sys2Proof

/-! ## Handling a record -/

/-- What firmware makes of a request: done with reply bytes, refused, invalid, or not yet. -/
inductive FwAnswer where
  /-- The reply fields stand `after` bytes of arguments. -/
  | done (s : State) (reply : List Byte) (after : Nat := 0)
  | refused
  | invalid
  | wait

/-- Write RESULT and the reply, after the arguments, into the record and advance the counters. -/
def State.fwReply (s : State) (result : Nat) (reply : List Byte) (after : Nat := 0) : State :=
  let slot := 512 * (s.fw.rpHead.toNat % 512)
  s.modFw fun y => { y with
    request := (y.request.putN (slot + 4) (bytesOf (BitVec.ofNat 16 result) 2)).putN (slot + 0x10 + after) reply
    rqHead := y.rqHead + 1, rpHead := y.rpHead + 1 }

/-- Firmware runs and a record is published that it has not handled. -/
def State.fwReady (s : State) : Bool := s.fw.dstat.fwRun && s.fw.rpHead != s.fw.rqTail

/-- The field of two bytes at an offset of the record that firmware handles next. -/
def State.fwField (s : State) (off : Nat) : Nat := natOfBytes (s.fw.request.getN (512 * (s.fw.rpHead.toNat % 512) + off) 2)

/-- The record that firmware handles next carries the code of a request, and nothing in its reserved fields. -/
def State.publishes (s : State) (code : Nat) : Bool := s.fwReady && s.fwField 0 == code && s.fwField 2 == 0 && s.fwField 6 == 0

/-- Firmware handles the record at RPHEAD, when it carries the code of this request. A reserved field that is not zero
makes it invalid. The manual lays out no ARGS, so the arguments are those of the request itself (log 65, DEDUCED). -/
def State.firmware (s : State) (code : Nat) (k : FwAnswer) : Out :=
  if !s.fwReady || s.fwField 0 != code then .next s
  else if s.fwField 2 != 0 || s.fwField 6 != 0 then .next (s.fwReply 3 [])
  else match k with
    | .done s' reply after => .next (s'.fwReply 1 reply after)
    | .refused => .next (s.fwReply 2 [])
    | .invalid => .next (s.fwReply 3 [])
    | .wait => .next s

/-- Done unless a condition refuses. -/
def refuseIf (c : Bool) (s : State) : FwAnswer := if c then .refused else .done s []

/-! ## Where the page tables lie (R182) -/

/-- A node of a page table: its address in local HBM, the VA shift of its level and its length. -/
structure Node where
  addr : Nat
  shift : Nat
  len : Nat
deriving DecidableEq, Repr

/-- The entries of a node that hold anything. -/
def Node.entries (x : Node) (m : Memory) : List (BitVec 128) :=
  (distinct ((m.filter (fun c => x.addr ≤ c.1 && c.1 < x.addr + x.len)).map (fun c => c.1 / 16 * 16))).map (pteAt m)

/-- The nodes of a level and of those below it. -/
def nodesFrom (m : Memory) : List (Nat × Nat) → List Nat → List Node
  | [], _ => []
  | (shift, w) :: rest, addrs =>
      let xs := addrs.map (fun a => (⟨a, shift, 16 * 2 ^ w⟩ : Node))
      xs ++ nodesFrom m rest (((xs.flatMap (fun x => x.entries m)).filter (pointerValid shift)).map pointerNext)

/-- The nodes of every job's table. -/
def State.nodes (s : State) : List Node := nodesFrom s.mem.hbm levels (s.work.jobs.map (·.root))

/-- Two runs of bytes meet. -/
def meets (x y : Nat × Nat) : Bool := x.1 < y.1 + y.2 && y.1 < x.1 + x.2

/-- The local HBM that a leaf maps: of a sharded page this member's shard frame alone (R202). -/
def State.leafPart (s : State) (shift : Nat) (e : BitVec 128) : List (Nat × Nat) :=
  let len := if pteShst e == shPrivate then 2 ^ shift
    else match s.group? (pteSgid e) with | some g => 16 * ownedBy (2 ^ shift / 16) g.n g.rank | none => 2 ^ shift
  match placeOfPa ((ptePfn e).toNat * 65536) with | .hbm a => [(a, len)] | _ => []

/-- The local HBM that some job's address space maps. -/
def State.mappedParts (s : State) : List (Nat × Nat) :=
  s.nodes.flatMap (fun x => ((x.entries s.mem.hbm).filter (leafValid x.shift)).flatMap (s.leafPart x.shift))

/-- A part of a page table lies among these bytes. -/
def State.holdsNode (s : State) (x : Nat × Nat) : Bool := s.nodes.any (fun n => meets x (n.addr, n.len))

/-! ## Jobs, queues and keys -/

/-- No job's address space maps a page-table node (R182). -/
def execJobOpen (job : BitVec 16) (root : BitVec 52) (key : BitVec 32) (s : State) : Out :=
  s.firmware 0x0001 (refuseIf ((s.job? job).isSome || root.toNat % 8192 != 0 || decide (s.capacity < root.toNat + 8192) || s.mappedParts.any (meets (root.toNat, 8192)))
    (s.modWork fun y => { y with jobs := y.jobs ++
      [{ num := job, root := root.toNat, key, swapped := true, keys := [], bittern := [], deferred := [], saveArea := none }] }))

def execJobClose (job : BitVec 16) (s : State) : Out :=
  s.firmware 0x0002 (refuseIf ((s.job? job).isNone || s.work.grids.any (fun g => g.job == job))
    (((s.modWork fun y => { y with jobs := y.jobs.filter (fun j => j.num != job), groups := y.groups.filter (fun g => g.job != job) }).modMem
      fun y => { y with walks := y.walks.filter (fun x => x.job != job) }).dropTranslations (fun j _ => j == job)))

/-- SIZE is a power of two from 16 to 65,536. -/
def sizeOk (n : Nat) : Bool := (List.range 13).any (fun i => n == 16 * 2 ^ i)

/-- The control block is at its reset values. -/
def Queue.isReset (q : Queue) : Bool := q.tail == 0 && q.head == 0 && q.retired == 0 && q.errseq == 0 && q.status == .running

def execQueueConfig (queue : BitVec 16) (size : Nat) (job : BitVec 16) (preempt : Bool) (pdl : Nat) (enable : Bool) (s : State) : Out :=
  let num := bits queue 0 12
  let bad := 4096 ≤ queue.toNat || !sizeOk size || pdl < 1000 || 1000000 < pdl
  match s.queue? num with
  | none => s.firmware 0x0003 (refuseIf (bad || (s.job? job).isNone) (s.modWork fun y => { y with queues := y.queues ++ [newQueue num size job preempt pdl enable] }))
  | some q => s.firmware 0x0003 (refuseIf (bad || (q.job != job && (s.job? job).isNone) || (!(q.size == size && q.job == job) && !q.isReset)) (s.setQueue { q with size, job, preempt, pdl, enable }))

/-- The grids of a queue that is reset: those released run on, those held end with DEP_FAILED (R374). -/
def State.resetQueue (s : State) (q : Queue) : State :=
  let s := s.setQueue { newQueue q.num q.size q.job q.preempt q.pdl q.enable with ring := q.ring }
  let s := s.modWork fun y => { y with
    grids := updWhere (fun g => g.gid.queue == q.num) (fun g => { g with detached := true }) y.grids
    records := updWhere (fun r => r.queue == q.num) (fun r => { r with detached := true }) y.records }
  ((s.work.grids.filter (fun g => g.gid.queue == q.num && g.run == .held)).foldl (fun s g => s.endGrid g (.plain .depFailed 0)) s).settleGrids

def execQueueReset (queue : BitVec 12) (s : State) : Out :=
  s.firmware 0x0004 (.done (s.resetQueue (s.queueOf queue)) [])

def execKeyLoad (job : BitVec 16) (handle : BitVec 16) (key : Option (BitVec 512)) (s : State) : Out :=
  match s.job? job with
  | none => s.firmware 0x0005 .refused
  | some j =>
      s.firmware 0x0005 (refuseIf (handle == 0#16) (s.setJob { j with keys := match key with
        | some k => setKey handle k j.keys
        | none => j.keys.filter (fun x => x.1 != handle) }))

/-! ## Groups (R200) -/

def groupField (e : BitVec 2048) (off n : Nat) : Nat := e.toNat / 2 ^ (8 * off) % 2 ^ (8 * n)

def readGroup (sgid : BitVec 12) (e : BitVec 2048) : Group :=
  let w := groupField e
  { sgid, flags := BitVec.ofNat 8 (w 0 1), n := w 1 1, rank := w 2 1, job := BitVec.ofNat 16 (w 4 2), tmo := w 8 4
    members := (List.range (w 1 1)).map (fun k => BitVec.ofNat 16 (w (0x80 + 2 * k) 2)) }

/-- The reserved fields of the entry are zero (R200). -/
def groupClear (e : BitVec 2048) (g : Group) : Bool :=
  let w := groupField e
  w 0 1 / 8 == 0 && w 3 1 == 0 && w 6 2 == 0 && w 0xC 116 == 0 && (g.members.take 64).all (fun m => bits m 14 2 == 0#2)

/-- The entry lies within the limits of R200. -/
def groupLegal (g : Group) : Bool :=
  1 ≤ g.n && g.n ≤ 64 && (!bit g.flags 1 || 2 ≤ g.n) && g.rank < g.n
    && (g.tmo == 0 || (100 ≤ g.tmo && g.tmo ≤ 1000000))

/-- A page or a collective of the group is open. -/
def State.groupOpen (s : State) (sgid : BitVec 12) : Bool :=
  s.coll.colls.any (fun k => k.sgid == sgid)
    || s.mem.transitions.any (fun t => match s.leaf? t.job t.page with | some lf => pteSgid lf.pte == sgid | none => false)

/-- A reserved field of the entry that is not zero makes the request invalid, and the pairing index of the group starts again
(log 40, DEDUCED). -/
def execGroupWrite (sgid : BitVec 12) (entry : BitVec 2048) (s : State) : Out :=
  let g := readGroup sgid entry
  let s1 := (s.modWork fun y => { y with groups := y.groups.filter (fun x => x.sgid != sgid) ++ (if bit g.flags 0 then [g] else []) }).modColl fun y =>
    { y with counts := y.counts.filter (fun x => x.1 != sgid) }
  s.firmware 0x0006 (if groupClear entry g then refuseIf (s.groupOpen sgid || (bit g.flags 0 && !groupLegal g)) s1 else .invalid)

/-! ## MAP (R185, R190, R201) -/

/-- A leaf with its reserved fields as they are installed: what is written to them is ignored (R4). -/
def pteClean (e : BitVec 128) : BitVec 128 := setBits (setBits e 84 16 0) 19 1 0

/-- The size of a leaf's page as a power of two (R185). -/
def pteShift (leaf : BitVec 128) : Nat := if pteSz leaf == 0#2 then 16 else if pteSz leaf == 1#2 then 21 else 30

/-- The installation is refused. -/
def State.mapRefused (s : State) (job : BitVec 16) (va : DWord) (e : BitVec 128) : Bool :=
  let size := sizeOfSz (pteSz e)
  !leafValid (pteShift e) (pteClean e) || (pteKy e && pteRole e) || va.toNat % size != 0 || !canonical va
    || (s.leafPart (pteShift e) e).any (fun x => decide (s.capacity < x.1 + x.2) || s.holdsNode x)
    || (pteShst e != shPrivate &&
        (pteShst e != shSharded || (pteRole e && !([1#4, 2#4, 3#4, 8#4].contains (pteFmt e))) || (!pteRole e && pteW e)
          || (match s.group? (pteSgid e) with | some g => !(bit g.flags 0 && bit g.flags 1 && g.job == job) | none => true)))

/-- The place of a new node: the lowest 8 KiB of local HBM that no page maps, no grant names, no node takes and `avoid` leaves
free (log 9, DESIGN CHOICE). -/
def State.nodePlace? (s : State) (avoid : List (Nat × Nat)) : Option Nat :=
  let used := avoid ++ s.nodes.map (fun x => (x.addr, x.len)) ++ s.mappedParts ++ s.fw.grants.map (fun g => (65536 * g.frame, 65536 * g.count))
  ((0 :: used.map (fun x => ceilDiv (x.1 + x.2) 8192 * 8192)).filter (fun a => a + 8192 ≤ s.capacity && !used.any (meets (a, 8192)))).min?

/-- Take an empty node at `a`, and point the entry at `pa` to it. -/
def State.takeNode (s : State) (pa a : Nat) : State :=
  (s.modMem fun y => { y with hbm := y.hbm.filter (fun c => !(a ≤ c.1 && c.1 < a + 8192)) }).putPte pa (BitVec.ofNat 128 (1 + 48 + a))

/-- The entry of a page's own level, with the nodes above it made where they are missing: none where a page of
another size stands in the way (log 26), or where no room is left for a node. -/
def State.entryFor (s : State) (avoid : List (Nat × Nat)) (va : DWord) (shift : Nat) : List (Nat × Nat) → Nat → Option (Nat × State)
  | [], _ => none
  | (sh, w) :: rest, node =>
      let pa := node + 16 * (va.toNat / 2 ^ sh % 2 ^ w)
      let e := pteAt s.mem.hbm pa
      if sh = shift then (if pointerValid sh e then none else some (pa, s))
      else if leafValid sh e then none
      else if pointerValid sh e then s.entryFor avoid va shift rest (pointerNext e)
      else (s.nodePlace? avoid).bind (fun next => State.entryFor (s.takeNode pa next) avoid va shift rest next)

/-- A store held in a buffer translated through a leaf. -/
def Entry.inPage (e : Entry) (lf : Leaf) : Bool :=
  e.pieces.any (fun x => (match x.place with | .hbm _ | .frame _ _ _ | .far _ _ => true | _ => false)
    && lf.page.toNat ≤ x.va.toNat && x.va.toNat < lf.page.toNat + lf.size)

/-- A REDM on its way translated through a leaf. -/
def Redm.inPage (x : Redm) (lf : Leaf) : Bool := x.place.overlap 4 (lf.place lf.page) lf.size

/-- A request to the frame of a leaf on another device is not answered yet. -/
def State.askedIn (s : State) (lf : Leaf) : Bool :=
  match lf.shard 0 with
  | .far d a => s.fab.requests.any (fun r => r.dst == d && a ≤ r.addr && r.addr < a + lf.size)
      || s.fab.engineWait.any (fun w => w.request.dst == d && a ≤ w.request.addr && w.request.addr < a + lf.size)
  | _ => false

/-- The blocks of a job. -/
def State.jobBlocks (s : State) (job : BitVec 16) : List Block :=
  s.work.blocks.filter (fun b => match s.grid? b.grid with | some g => g.job == job | none => false)

/-- Have the accesses performed that translated through a leaf, held stores too. -/
def State.settlePage (s : State) (lf : Leaf) : State :=
  ((s.jobBlocks lf.job).foldl (fun s b =>
    (s.releaseWhere b.id (fun e => e.inPage lf)).publishHeld b.id (fun e => e.inPage lf)) s).landRedms (fun x => x.inPage lf)

/-- An access through the leaf is not performed yet, or an operation on the page is open. -/
def State.pageBusy (s : State) (lf : Leaf) : Bool :=
  s.pageHeld lf || (s.transition? lf.job lf.page).isSome || (s.fill? lf.job lf.page).isSome
    || (s.jobBlocks lf.job).any (fun b => (b.fsb ++ b.bsb).any (fun e => e.inPage lf))
    || s.sync.redms.any (fun x => x.inPage lf) || s.askedIn lf

/-- Note under which group the shard frame of a page installed by an entry is laid out, if it is sharded (R201). -/
def State.lay (s : State) (job : BitVec 16) (va : DWord) (e : BitVec 128) : State :=
  s.modMem fun y => { y with laid := y.laid.filter (fun x => !(x.job == job && x.page == va))
    ++ (match s.group? (pteSgid e) with
        | some g => if pteV e && pteShst e != shPrivate then [({ job, page := va, group := g } : Laid)] else []
        | none => []) }

/-- Take away a leaf, with the full frame of its page. -/
def State.unmap (s : State) (lf : Leaf) (e : BitVec 128) : State :=
  (((s.dropFrame lf.job lf.page lf.size).setLeaf lf e).lay lf.job lf.page e).wakePages

/-- Complete what is under way on the page of a leaf that a MAP replaces. -/
def State.settleOld (s : State) (old : Option Leaf) : State := match old with | some lf => s.settlePage lf | none => s

/-- Something is still under way on that page. -/
def State.oldBusy (s : State) (old : Option Leaf) : Bool := match old with | some lf => s.pageBusy lf | none => false

/-- Take away the leaf that a MAP replaces, if there is one. -/
def State.unmapOld (s : State) (old : Option Leaf) (e : BitVec 128) : State := match old with | some lf => s.unmap lf e | none => s

/-- Write a leaf: over the one at its address, or in the entry that its address takes. -/
def State.install (s : State) (job : BitVec 16) (va : DWord) (leaf : BitVec 128) (root : Nat) (old : Option Leaf) : FwAnswer :=
  match old with
  | some lf => if lf.size == 2 ^ pteShift leaf then .done (s.unmap lf leaf) [] else .refused
  | none =>
      match s.entryFor (s.leafPart (pteShift leaf) leaf) va (pteShift leaf) levels root with
      | none => .refused
      | some (pa, s) => .done (((s.putPte pa leaf).lay job va leaf).wakePages) []

/-- MAP waits until HBM takes accesses (R372). -/
def execMap (job : BitVec 16) (va : DWord) (given : BitVec 128) (s : State) : Out :=
  if !s.memoryOpen then .next s else
  let leaf := pteClean given
  match s.job? job with
  | none => s.firmware 0x0007 .refused
  | some j =>
      let old := (s.leaf? job va).filter (fun lf => lf.page == va)
      let s1 := s.settleOld old
      if s1.oldBusy old then .next (if s.publishes 0x0007 then s1 else s)
      else if !pteV leaf then s.firmware 0x0007 (.done (s1.unmapOld old 0) [])
      else if s.mapRefused job va leaf then s.firmware 0x0007 .refused
      else s.firmware 0x0007 (s1.install job va leaf j.root old)

/-! ## Grants (R44) -/

/-- The frame holds a page-table node or a part of a save region. -/
def State.frameReserved (s : State) (f : Nat) : Bool :=
  s.holdsNode (65536 * f, 65536)
    || s.work.jobs.any (fun j => match j.saveArea with
        | some (va, len) => (List.range (len.toNat / 65536 + 2)).any (fun i =>
            65536 * i < va.toNat % 65536 + len.toNat &&
            match s.leaf? j.num (va + BitVec.ofNat 64 (65536 * i)) with
            | some lf => lf.place (va + BitVec.ofNat 64 (65536 * i)) == .hbm (65536 * f + (match lf.place (va + BitVec.ofNat 64 (65536 * i)) with | .hbm a => a % 65536 | _ => 0))
            | none => false)
        | none => false)

/-- Take frames out of a grant. -/
def Grant.minus (g : Grant) (host frame count : Nat) : List Grant :=
  if g.host ≠ host ∨ frame + count ≤ g.frame ∨ g.frame + g.count ≤ frame then [g]
  else
    (if g.frame < frame then [{ g with count := frame - g.frame }] else [])
      ++ (if frame + count < g.frame + g.count then [{ g with frame := frame + count, count := g.frame + g.count - (frame + count) }] else [])

def execGrant (host frame count : Nat) (give : Bool) (s : State) : Out :=
  if give then
    s.firmware 0x0008 (refuseIf (decide (s.capacity < 65536 * (frame + count)) || (List.range count).any (fun i => s.frameReserved (frame + i)))
      (s.modFw fun y => { y with grants := y.grants ++ [{ host, frame, count }] }))
  else s.firmware 0x0008 (.done (s.modFw fun y => { y with grants := y.grants.flatMap (fun g => g.minus host frame count) }) [])

/-! ## Routes (R294, R297, R300) -/

/-- The ports of a table, by destination and class. -/
def routePorts (rs : List Route) : List (BitVec 11 × BitVec 2 × BitVec 8) :=
  rs.flatMap (fun r => [clsReq, clsRsp, clsPage].filterMap (fun c => if isPort (portOf r.entry c) then some (r.dev, c, portOf r.entry c) else none))

/-- The last port of a destination and class. -/
def pathOf (ps : List (BitVec 11 × BitVec 2 × BitVec 8)) (x : BitVec 11 × BitVec 2 × BitVec 8) : Option (BitVec 8) :=
  (ps.find? (fun p => p.1 == x.1 && p.2.1 == x.2.1)).map (·.2.2)

/-- The destinations and classes whose port a new table changes; a route withdrawn by one table and given again by a later
one counts by its last port. -/
def changedRoutes (paths : List (BitVec 11 × BitVec 2 × BitVec 8)) (new : List Route) : List (BitVec 11 × BitVec 2) :=
  (routePorts new).filterMap (fun x => match pathOf paths x with
    | some p => if p == x.2.2 then none else some (x.1, x.2.1)
    | none => none)

/-- A staged table takes effect (log 54, DEDUCED). -/
def State.commitRoutes (s : State) : State :=
  let new := s.fab.staged
  let ports := routePorts new
  let holds := ((changedRoutes s.fab.paths new).filter (fun x => (sentOf s.fab.sent x.1).of x.2 != (sentOf s.fab.delivered x.1).of x.2)).map (fun x =>
    ({ dev := x.1, cls := x.2, target := (sentOf s.fab.sent x.1).of x.2, since := s.time } : InjectHold))
  let s := s.modFab fun y => { y with
    routes := new, staged := [], injectHolds := y.injectHolds.filter (fun h => !holds.any (fun x => x.dev == h.dev && x.cls == h.cls)) ++ holds
    paths := y.paths.filter (fun p => (pathOf ports p).isNone) ++ ports
    allowances := y.allowances.map (fun a => { a with flight := a.flight.map (fun x => { x with old := true }) }) }
  let s := new.foldl (fun s r => if s.fab.injectHolds.any (fun h => h.dev == r.dev && h.cls == clsReq) then s else s.restartAllowance false r.dev) s
  s.flush.fabReady

def execRouteLoad (first : BitVec 11) (entries : List RouteEntry) (commit : Bool) (s : State) : Out :=
  let bad := 80 < entries.length || 2048 < first.toNat + entries.length
    || entries.any (fun e => isPort e.req && e.alim.toNat < 128)
  let rs := (List.range entries.length).filterMap (fun i => (entries[i]?).map (fun e => ({ dev := first + BitVec.ofNat 11 i, entry := e } : Route)))
  let s1 := s.modFab fun y => { y with staged := y.staged.filter (fun r => !rs.any (fun x => x.dev == r.dev)) ++ rs }
  s.firmware 0x0009 (refuseIf bad (if commit then s1.commitRoutes else s1))

def execAdmitKeys (port : BitVec 5) (keys : List (BitVec 32)) (s : State) : Out :=
  s.firmware 0x000A (refuseIf (18 ≤ port.toNat || 64 < keys.length) (s.modFab fun y => { y with members := setKey port.toNat keys y.members }))

/-! ## Slices, pre-emption, power -/

def execSlice (sgid : BitVec 12) (start : DWord) (grace : Word) (s : State) : Out :=
  match s.group? sgid with
  | none => s.firmware 0x000B .refused
  | some g => s.firmware 0x000B (.done ((s.modColl fun y => { y with
    slices := y.slices.filter (fun x => x.sgid != sgid) ++ [{ sgid, start := start.toNat, grace := 1000 * (if grace.toNat = 0 then 100 else grace.toNat), begun := false, readyRanks := [], aborted := false }] }).tryMembers g) [])

/-- The placed blocks that a PREEMPT names. -/
def State.named (s : State) (who : PreemptTarget) : List Block :=
  let at' := fun (i : Option Word) (b : Block) => match i with | some w => b.index == w.toNat | none => true
  s.work.blocks.filter (fun b => b.run == .placed && match who, s.grid? b.grid with
    | .grid id i, some g => g.gid == id && at' i b
    | .job j i, some g => g.job == j && at' i b
    | _, none => false)

/-- The grid or job of a PREEMPT exists. -/
def State.namesSome (s : State) (who : PreemptTarget) : Bool :=
  match who with
  | .grid id _ => (s.gridOf? id (fun _ => true)).isSome
  | .job j _ => (s.job? j).isSome

/-- A request for a grid, a job, a group, a warp that does not exist is refused, as every request is here that names something
unknown (log 26, DESIGN CHOICE). -/
def execPreempt (who : PreemptTarget) (s : State) : Out := s.firmware 0x000C (refuseIf (!s.namesSome who) (s.signal (s.named who)))

def execPgovWrite (value : DWord) (s : State) : Out :=
  s.firmware 0x000D (.done (s.modPower fun y => { y with pgovNext := some (Pgov.ofValue value) }) [])

def execPgovRead (s : State) : Out := s.firmware 0x000E (.done s (bytesOf s.power.pgov.value 8))

/-- What a quote signs (R369; log 24): M, the nonce, the serial number, RESET_KIND and the reset count. -/
def State.quoted (s : State) (nonce : BitVec 256) : List Byte :=
  beBytes s.fw.measure.toNat 32 ++ beBytes nonce.toNat 32 ++ bytesOf Config.serial 8
    ++ bytesOf (BitVec.ofNat 32 (b2n s.fw.dstat.warm)) 4 ++ bytesOf (BitVec.ofNat 32 s.fw.resetCount) 4

def execQuote (nonce : BitVec 256) (s : State) : Out :=
  s.firmware 0x000F (.done s (s.quoted nonce ++ bytesOf (Config.signQuote (s.quoted nonce)) 384) 32)

/-! ## Debug, save regions, reset -/

/-- End the debug stop of a warp's fragment as RETT .retry or .skip would (R329, R340). -/
def State.endStop (s : State) (w : Warp) (skip : Bool) : Option State :=
  match (s.warpFrags w.id).find? (fun f => f.run == .stopped), s.block? w.block with
  | some f, some b =>
      match s.grid? b.grid with
      | some g => match s.boundary g.job b.kernel w.frame.tpc with
        | .ok next => some ((s.setFrag { f with run := .ready, pc := if skip then next else w.frame.tpc }).modFw fun y =>
            { y with stops := y.stops.filter (· != w.id) })
        | .error _ => none
      | none => none
  | _, _ => none

/-- The same for a warp that may be saved, whose save area the debugger may have changed (R340). -/
def State.endStopOf (s : State) (w : Warp) (skip : Bool) : Option State :=
  let read := s.imageRead w.block
  match (read.warp? w.id).bind (fun w => read.endStop w skip) with
  | none => none
  | some _ => some (s.throughImage w.block (fun s => ((s.warp? w.id).bind (fun w => s.endStop w skip)).getD s))

def execDebug (warp : Nat) (act : DebugAct) (s : State) : Out :=
  match s.warp? warp with
  | none => s.firmware 0x0010 .refused
  | some w =>
      match act with
      | .dctl v => s.firmware 0x0010 (.done (s.throughImage w.block (fun s => s.modWarp warp (fun w => { w with dctl := v }))) [])
      | .retry => s.firmware 0x0010 (match s.endStopOf w false with | some s1 => .done s1 [] | none => .refused)
      | .skip => s.firmware 0x0010 (match s.endStopOf w true with | some s1 => .done s1 [] | none => .refused)

def execSaveArea (job : BitVec 16) (va len : DWord) (s : State) : Out :=
  match s.job? job with
  | none => s.firmware 0x0011 .refused
  | some j =>
      let busy := s.work.blocks.any (fun b => b.run == .saved && (match s.grid? b.grid with | some g => g.job == job | none => false))
      s.firmware 0x0011 (refuseIf busy (s.setJob { j with saveArea := some (va, len) }))

def execReset (s : State) : Out := s.firmware 0x0012 (.done (s.modFw fun y => { y with resetPending := true }) [])

/-- A reserved code. -/
def execReservedRequest (code : BitVec 16) (s : State) : Out :=
  if code == 0#16 || 0x13 ≤ code.toNat then s.firmware code.toNat .invalid else .next s

end Sys2Proof.Machine
end

