-- ==== Sys2Proof/Machine/Sfu.lean ====
section
/-! DEFINITION. The special functions (02 R30; 07 R141): the exact value enclosed between two fixed-point
numbers, and rounded once when both ends round alike (log 12). -/

namespace Sys2Proof.Machine

open Sys2Proof

/-- Fraction bits of the fixed-point numbers. -/
def fxBits : Nat := 400
def fxOne : Nat := 2 ^ fxBits

/-- π and ln 2 as fixed-point numbers, rounded down. -/
def fxPi : Nat := 8112377246730971238862271351300894519161151600179265203591191037615230905373990498745523360926816815427566779727327576236
def fxLn2 : Nat := 1789879222497203190815761498240779176894896805856420935579692301363062920687047601279850318367644315849030039181347319086

/-- A bound, in units of the last place, on the error of each function below. -/
def fxError : Nat := 2 ^ 60

def fxMul (a b : Nat) : Nat := a * b / fxOne

/-- e^t for 0 ≤ t < 1: the terms of its series. -/
def fxExpLoop (t : Nat) : Nat → Nat → Nat → Nat → Nat
  | 0, _, _, acc => acc
  | fuel + 1, k, term, acc =>
      let next := fxMul term t / k
      fxExpLoop t fuel (k + 1) next (acc + next)

def fxExp (t : Nat) : Nat := fxExpLoop t 90 1 fxOne fxOne

/-- The alternating series of sine from the term `t`. -/
def fxSinLoop (t2 : Nat) : Nat → Nat → Nat → Int → Int → Int
  | 0, _, _, _, acc => acc
  | fuel + 1, k, term, sgn, acc =>
      let next := fxMul term t2 / ((k + 1) * (k + 2))
      fxSinLoop t2 fuel (k + 2) next (-sgn) (acc + sgn * next)

/-- sin t for 0 ≤ t < 2. -/
def fxSin (t : Nat) : Nat := (fxSinLoop (fxMul t t) 60 1 t (-1) t).toNat

/-- cos t for 0 ≤ t < 2. -/
def fxCos (t : Nat) : Nat := (fxSinLoop (fxMul t t) 60 0 fxOne (-1) fxOne).toNat

/-- The series of artanh z for 0 ≤ z ≤ 1/3. -/
def fxAtanhLoop (z2 : Nat) : Nat → Nat → Nat → Nat → Nat
  | 0, _, _, acc => acc
  | fuel + 1, k, pow, acc =>
      let next := fxMul pow z2
      fxAtanhLoop z2 fuel (k + 2) next (acc + next / (k + 2))

/-- ln m for 1 ≤ m < 2. -/
def fxLn (m : Nat) : Nat :=
  let z := (m - fxOne) * fxOne / (m + fxOne)
  2 * fxAtanhLoop (fxMul z z) 140 1 z z

/-- The integer square root, bit by bit. -/
def isqrtLoop (n : Nat) : Nat → Nat → Nat
  | 0, r => r
  | b + 1, r => let t := r + 2 ^ b; isqrtLoop n b (if t * t ≤ n then t else r)

def isqrt (n : Nat) : Nat := isqrtLoop n (Nat.log2 n / 2 + 1) 0

/-- Round `num × 2^exp` with more bits below it when `more`. -/
def roundMore (neg : Bool) (num : Nat) (more : Bool) (exp : Int) : Nat × Flags :=
  Fmt.fp32.round .rne false (.fin neg (2 * num + b2n more) (exp - 1))

/-- Round an irrational value between `lo` and `hi`, in units of 2^exp: decided when both ends agree. Where they do not, it rounds
as one of them, value and flags, and which one is a free value (log 12). -/
def roundBetween (fn : Nat) (x : Word) (neg : Bool) (lo hi : Nat) (exp : Int) : Nat × Flags :=
  let a := roundMore neg lo true exp
  let b := roundMore neg hi true exp
  if a == b then a else if Config.sfuUndecided fn x then b else a

def fxRound (fn : Nat) (x : Word) (neg : Bool) (v : Nat) (exp : Int) : Nat × Flags :=
  roundBetween fn x neg (v - fxError) (v + fxError) (exp - fxBits)

def nanNv : Nat × Flags := (0x7FC00000, Flags.nv)

def infOf (neg : Bool) : Nat := if neg then 0xFF800000 else 0x7F800000
def zeroOf (neg : Bool) : Nat := if neg then 0x80000000 else 0
def oneOf (neg : Bool) : Nat := if neg then 0xBF800000 else 0x3F800000

/-- A NaN operand (R30, R141). -/
def nanOf (nv : Bool) : Nat × Flags := (0x7FC00000, if nv then Flags.nv else 0)

/-- 1/x. -/
def sfuRcp (x : Word) : Nat × Flags :=
  match fp32 x with
  | .nan nv => nanOf nv
  | .inf s => (zeroOf s, 0)
  | .fin s n e =>
      if n = 0 then (infOf s, Flags.dz)
      else
        let k := Nat.log2 n + 80
        roundMore s (2 ^ k / n) (2 ^ k % n != 0) (-e - k)

/-- Make the exponent even. -/
def evenExp (n : Nat) (e : Int) : Nat × Int := if e % 2 = 0 then (n, e) else (2 * n, e - 1)

/-- √x. -/
def sfuSqrt (x : Word) : Nat × Flags :=
  match fp32 x with
  | .nan nv => nanOf nv
  | .inf s => if s then nanNv else (infOf false, 0)
  | .fin s n e =>
      if n = 0 then (zeroOf s, 0) else if s then nanNv
      else
        let r := evenExp n e
        let m := r.1 * 2 ^ 160
        let q := isqrt m
        roundMore false q (q * q != m) (r.2 / 2 - 80)

/-- 1/√x. -/
def sfuRsq (x : Word) : Nat × Flags :=
  match fp32 x with
  | .nan nv => nanOf nv
  | .inf s => if s then nanNv else (0, 0)
  | .fin s n e =>
      if n = 0 then (infOf s, Flags.dz) else if s then nanNv
      else
        let r := evenExp n e
        let m := 2 ^ 240 / r.1
        let q := isqrt m
        roundMore false q (q * q * r.1 != 2 ^ 240) (-(r.2 / 2) - 120)

/-- The fixed-point number of `num × 2^exp`, rounded down. -/
def toFx (num : Nat) (exp : Int) : Nat :=
  let k := exp + fxBits
  if 0 ≤ k then num * 2 ^ k.toNat else num / 2 ^ (-k).toNat

/-- 2^x: exact for integers; beyond the range the magnitude alone decides. -/
def sfuExp2 (x : Word) : Nat × Flags :=
  match fp32 x with
  | .nan nv => nanOf nv
  | .inf s => (if s then 0 else infOf false, 0)
  | .fin s n e =>
      if n = 0 then (oneOf false, 0)
      else if 10 < (Nat.log2 n : Int) + e then roundMore false 1 true (if s then -1000 else 1000)
      else
        let v : Int := if s then -(toFx n e : Int) else toFx n e
        let i := v / (fxOne : Int)
        let f := (v - i * fxOne).toNat
        if f = 0 then Fmt.fp32.round .rne false (.fin false 1 i)
        else fxRound 3 x false (fxExp (fxMul f fxLn2)) i

/-- log₂ x: exact for powers of two. -/
def sfuLog2 (x : Word) : Nat × Flags :=
  match fp32 x with
  | .nan nv => nanOf nv
  | .inf s => if s then nanNv else (infOf false, 0)
  | .fin s n e =>
      if n = 0 then (infOf true, Flags.dz) else if s then nanNv
      else
        let top : Int := (Nat.log2 n : Int) + e
        if n = 2 ^ Nat.log2 n then Fmt.fp32.round .rne false (intToFv top)
        else
          let m := n * 2 ^ (fxBits - Nat.log2 n)
          let v : Int := top * fxOne + ((fxLn m * fxOne / fxLn2 : Nat) : Int)
          fxRound 4 x (decide (v < 0)) v.natAbs 0

/-- The fraction of |x| modulo 2 in 2^-400 units, exactly: 0 for every magnitude of 2^24 or more. -/
def modTwo (n : Nat) (e : Int) : Nat := if 24 < e then 0 else toFx n e % (2 * fxOne)

/-- sin πt for 0 ≤ t ≤ 1/2, `t` not 0, in fixed point. -/
def fxSinPi (t : Nat) : Nat := if t ≤ fxOne / 4 then fxSin (fxMul t fxPi) else fxCos (fxMul (fxOne / 2 - t) fxPi)

/-- sin πx. -/
def sfuSinp (x : Word) : Nat × Flags :=
  match fp32 x with
  | .nan nv => nanOf nv
  | .inf _ => nanNv
  | .fin s n e =>
      let r := modTwo n e
      let neg := xor s (decide (fxOne ≤ r))
      let t := r % fxOne
      if t = 0 then (zeroOf s, 0)
      else
        let u := if t ≤ fxOne / 2 then t else fxOne - t
        if 2 * u = fxOne then (oneOf neg, 0) else fxRound 5 x neg (fxSinPi u) 0

/-- cos πx: sin π(1/2 − t) by quadrant. -/
def sfuCosp (x : Word) : Nat × Flags :=
  match fp32 x with
  | .nan nv => nanOf nv
  | .inf _ => nanNv
  | .fin _ n e =>
      let r := modTwo n e
      let r := if fxOne < r then 2 * fxOne - r else r
      let neg := decide (fxOne < 2 * r)
      let u := if neg then r - fxOne / 2 else fxOne / 2 - r
      if u = 0 then (0, 0) else if 2 * u = fxOne then (oneOf neg, 0)
      else fxRound 6 x neg (fxSinPi u) 0

/-- Square `k` times. -/
def fxSquares : Nat → Nat → Nat
  | 0, v => v
  | k + 1, v => fxSquares k (fxMul v v)

/-- tanh x: just below x for a tiny operand, just below 1 for a large one. -/
def sfuTanh (x : Word) : Nat × Flags :=
  match fp32 x with
  | .nan nv => nanOf nv
  | .inf s => (oneOf s, 0)
  | .fin s n e =>
      if n = 0 then (zeroOf s, 0)
      else
        let top : Int := (Nat.log2 n : Int) + e
        if top < -40 then roundMore s (n * 2 ^ 60 - 1) true (e - 60)
        else if 4 ≤ top then roundMore s (2 ^ 40 - 1) true (-40)
        else
          let ex := fxSquares 6 (fxExp (toFx n (e - 5)))
          fxRound 7 x s ((ex - fxOne) * fxOne / (ex + fxOne)) 0

/-- The shape of R141. -/
def sfuUnary (s : State) (h : Head) (d a : BitVec 6) (g : Word → Nat × Flags) : Out :=
  issue s 1 h (.vec d 1) [.v a 1] fun c => c.fpVec d (fun l => g (c.f.getV a l))

def execRcp (h : Head) (d a : BitVec 6) (s : State) : Out := sfuUnary s h d a sfuRcp
def execRsq (h : Head) (d a : BitVec 6) (s : State) : Out := sfuUnary s h d a sfuRsq
def execSqrt (h : Head) (d a : BitVec 6) (s : State) : Out := sfuUnary s h d a sfuSqrt
def execExp2 (h : Head) (d a : BitVec 6) (s : State) : Out := sfuUnary s h d a sfuExp2
def execLog2 (h : Head) (d a : BitVec 6) (s : State) : Out := sfuUnary s h d a sfuLog2
def execSinp (h : Head) (d a : BitVec 6) (s : State) : Out := sfuUnary s h d a sfuSinp
def execCosp (h : Head) (d a : BitVec 6) (s : State) : Out := sfuUnary s h d a sfuCosp
def execTanh (h : Head) (d a : BitVec 6) (s : State) : Out := sfuUnary s h d a sfuTanh

end Sys2Proof.Machine
end

