-- ==== Sys2Proof/Machine/Special.lean ====
section
/-! DEFINITION. Special registers: selectors, scopes, values and writes (04 R65, R66; 06 R96; 07 R142 to
R148; 18 R324, R338). -/

namespace Sys2Proof.Machine

open Sys2Proof

/-- The lane-scope selectors: %tid, %vlane, %vtid, %xen, %tsub, %tlsbase. -/
def isLaneReg (sl : BitVec 12) : Bool := [0x000, 0x001, 0x002, 0x022, 0x038, 0x070].contains sl.toNat

/-- The warp- and block-scope selectors. -/
def isWarpReg (sl : BitVec 12) : Bool :=
  (0x003 ≤ sl.toNat && sl.toNat ≤ 0x00C) ||
    [0x010, 0x011, 0x020, 0x021, 0x030, 0x031, 0x032, 0x033, 0x034, 0x035, 0x036, 0x037, 0x040, 0x041, 0x050,
     0x060, 0x071].contains sl.toNat

/-- The lane registers that VSRW may write. -/
def laneWritable (sl : BitVec 12) : Bool := sl == 0x022#12 || sl == 0x038#12

/-- A lane's value of a lane register, 0 in a lane without a thread. -/
def laneRegister (c : Ctx) (sl : BitVec 12) (l : Nat) : Word :=
  match c.w.threads.toList.getD l none with
  | none => 0
  | some t =>
      match sl.toNat with
      | 0x000 => BitVec.ofNat 32 t.tid
      | 0x001 => BitVec.ofNat 32 l
      | 0x002 => t.vtid
      | 0x022 => t.xen
      | 0x038 => t.tsub
      | _ => t.tlsbase.setWidth 32

/-- The warp with the active lanes' values of %xen or %tsub written. -/
def writeLaneReg (c : Ctx) (sl : BitVec 12) (x : Nat → Word) : Warp :=
  { c.w with threads := Vector.ofFn (fun (l : Fin 32) =>
      match c.w.threads[l] with
      | none => none
      | some t =>
          if !c.act.getLsbD l then some t
          else if sl == 0x022#12 then some { t with xen := x l &&& 0x1F#32 }
          else some { t with tsub := x l }) }

/-- The value of a warp- or block-scope register. -/
def warpRegister (c : Ctx) (sl : BitVec 12) : DWord :=
  let n := fun (x : Nat) => BitVec.ofNat 64 x
  match sl.toNat with
  | 0x003 => c.w.ctx.setWidth 64
  | 0x004 => n c.b.index
  | 0x005 => n (c.g.launch.bz * 4194304 + c.g.launch.byy * 2048 + c.g.launch.bx)
  | 0x006 => n (c.b.index / c.g.launch.gang)
  | 0x007 => n (c.b.index % c.g.launch.gang)
  | 0x008 => c.g.gid.queue ++ c.g.gid.seq
  | 0x009 => c.g.job.setWidth 64
  | 0x00A => n c.b.core
  | 0x00B => n (c.b.core / 16)
  | 0x00C => Config.deviceId.setWidth 64
  | 0x010 => n c.s.cycle
  | 0x011 => n c.s.time
  | 0x020 => c.f.fflags.setWidth 64
  | 0x021 => c.f.mflags.setWidth 64
  | 0x030 => c.w.tvec
  | 0x031 => c.w.frame.tpc
  | 0x032 => c.w.frame.tcause
  | 0x033 => c.w.frame.tmask
  | 0x034 => c.w.frame.taddr
  | 0x035 => c.w.frame.tinfo
  | 0x036 => c.w.frame.tparent
  | 0x037 => c.w.frame.tsib
  | 0x040 => n (b2n c.b.preq.isSome)
  | 0x041 => n c.b.pdl
  | 0x050 => c.w.dctl.setWidth 64
  | 0x060 => c.b.pantimer.setWidth 64
  | 0x071 => c.w.mstfail
  | _ => 0

/-- SRW of the register traps PRIVILEGE: identifiers, registers that R96 marks RO, and trap-frame registers
outside the access of R324. -/
def srwRefused (f : Frag) (sl : BitVec 12) : Bool :=
  if sl == 0x031#12 then !f.handler
  else !([0x020, 0x021, 0x030, 0x060, 0x071].contains sl.toNat)

/-- %pantimer stores 16 for a smaller value (R96). -/
def pantimerOf (x : DWord) : BitVec 16 := if (bits x 0 16).toNat < 16 then 16 else bits x 0 16

/-- SRW of a register that may be written: the fragment and the state after it (R147, R148). A bit of %mstfail that a failure of
the same cycle has set stays. -/
def writeSpecial (c : Ctx) (sl : BitVec 12) (x : DWord) : State × Frag :=
  match sl.toNat with
  | 0x020 => (c.s, { c.f with fflags := bits x 0 6 &&& 0x1F#6 })
  | 0x021 => (c.s, { c.f with mflags := bits x 0 6 &&& 0x37#6 })
  | 0x030 => (c.s.setWarp { c.w with tvec := x }, c.f)
  | 0x031 => (c.s.setWarp { c.w with frame := { c.w.frame with tpc := x } }, c.f)
  | 0x060 => (c.s.setBlock { c.b with pantimer := pantimerOf x }, c.f)
  | 0x071 => (c.s.setWarp { c.w with mstfail := c.w.mstfail &&& ~~~(x &&& ~~~(if c.w.mstNew.2 = c.s.cycle then c.w.mstNew.1 else 0)) }, c.f)
  | _ => (c.s, c.f)

/-- R147. -/
def execSrr (ch : Bool) (d : BitVec 6) (sl : BitVec 12) (s : State) : Out :=
  issueWhen s 2 (uni ch) (.uni d) [] (fun _ => isWarpReg sl) fun c => c.uniform d (warpRegister c sl)

/-- R147, R148. -/
def execSrw (ch : Bool) (a : BitVec 6) (sl : BitVec 12) (s : State) : Out :=
  issueWhen s 2 (uni ch) .none [.u a] (fun _ => isWarpReg sl) fun c =>
    if srwRefused c.f sl then c.trap .privilege c.f.mask
    else
      let r := writeSpecial c sl (c.f.getU a)
      c.retireIn r.1 r.2

end Sys2Proof.Machine
end

