-- ==== Sys2Proof/Machine/Uniform.lean ====
section
/-! DEFINITION. Uniform arithmetic, logic and comparison (07 R144 to R146). -/

namespace Sys2Proof.Machine

open Sys2Proof

/-- The shape of R144. -/
def uniBinary (s : State) (ch : Bool) (d a b : BitVec 6) (g : DWord → DWord → DWord) : Out :=
  issueU s 1 ch (.uni d) [.u a, .u b] fun c => c.uniform d (g (c.f.getU a) (c.f.getU b))

def execSadd (ch : Bool) (d a b : BitVec 6) (s : State) : Out := uniBinary s ch d a b (· + ·)
def execSsub (ch : Bool) (d a b : BitVec 6) (s : State) : Out := uniBinary s ch d a b (· - ·)
def execSmul (ch : Bool) (d a b : BitVec 6) (s : State) : Out := uniBinary s ch d a b (· * ·)

/-- R144: shifts by 64 or more give 0, or the sign for .sar. -/
def uniShift (m : ShfOp) (x y : DWord) : DWord :=
  match m with
  | .shl => if 64 ≤ y.toNat then 0 else x <<< y.toNat
  | .shr => if 64 ≤ y.toNat then 0 else x >>> y.toNat
  | .sar => x.sshiftRight (min y.toNat 63)

def execSshf (ch : Bool) (d a b : BitVec 6) (m : ShfOp) (s : State) : Out := uniBinary s ch d a b (uniShift m)

def uniLogic (m : BitVec 2) (x y : DWord) : DWord :=
  match m.toNat with
  | 0 => x &&& y
  | 1 => x ||| y
  | 2 => x ^^^ y
  | _ => x &&& ~~~y

def execSlog (ch : Bool) (d a b : BitVec 6) (m : BitVec 2) (s : State) : Out := uniBinary s ch d a b (uniLogic m)

/-- M: 00 .min.i, 01 .max.i, 10 .min.n, 11 .max.n. -/
def uniMinmax (m : BitVec 2) (x y : DWord) : DWord :=
  let sg := !bit m 1
  if bit m 0 == decide (int64 sg x < int64 sg y) then y else x

def execSminmax (ch : Bool) (d a b : BitVec 6) (m : BitVec 2) (s : State) : Out := uniBinary s ch d a b (uniMinmax m)

def execSmov (ch : Bool) (d a : BitVec 6) (s : State) : Out :=
  issueU s 1 ch (.uni d) [.u a] fun c => c.uniform d (c.f.getU a)

def execSmovi (ch : Bool) (d : BitVec 6) (i : BitVec 8) (s : State) : Out :=
  issueU s 1 ch (.uni d) [] fun c => c.uniform d (i.signExtend 64)

/-- R145. -/
def execSmad (ch : Bool) (d a b e : BitVec 6) (s : State) : Out :=
  issueU s 2 ch (.uni d) [.u a, .u b, .u e] fun c => c.uniform d (c.f.getU a * c.f.getU b + c.f.getU e)

def execSlea (ch : Bool) (d a b sh : BitVec 6) (disp : BitVec 20) (s : State) : Out :=
  issueU s 2 ch (.uni d) [.u a, .u b] fun c =>
    c.uniform d (c.f.getU a + (c.f.getU b <<< sh.toNat) + disp.signExtend 64)

def execSlimm (ch : Bool) (d : BitVec 6) (hi : Bool) (i : Word) (s : State) : Out :=
  issueU s 2 ch (.uni d) [] fun c =>
    c.uniform d (if hi then i ++ bits (c.f.getU d) 0 32 else i.signExtend 64)

/-- R146: the result goes to every lane of the fragment mask. -/
def execScmp (ch : Bool) (d : BitVec 3) (a b : BitVec 6) (sg : Bool) (cond : Cmp) (s : State) : Out :=
  issueU s 2 ch (.pred d) [.u a, .u b] fun c =>
    c.predicate d (fun _ => cmpHolds cond (int64 sg (c.f.getU a)) (int64 sg (c.f.getU b)))

end Sys2Proof.Machine
end

