-- ==== Sys2Proof/Machine/VectorInt.lean ====
section
/-! DEFINITION. Vector integer, logic, predicate, immediate and special-register instructions
(07 R118 to R127, R142, R143). -/

namespace Sys2Proof.Machine

open Sys2Proof

/-- The shape of R118. -/
def vecBinary (s : State) (h : Head) (d a b : BitVec 6) (g : Word → Word → Word) : Out :=
  issue s 1 h (.vec d 1) [.v a 1, .v b 1] fun c => c.vec2 d a b g

/-- The shape of R119. -/
def vecUnary (s : State) (h : Head) (d a : BitVec 6) (g : Word → Word) : Out :=
  issue s 1 h (.vec d 1) [.v a 1] fun c => c.vec1 d a g

/-- R85, R78: NOP does nothing and needs no pipe. -/
def execNop (ch : Bool) (s : State) : Out :=
  issue s 1 { chain := ch, g := 7, neg := false } .none [] fun c => c.retire c.f

def execIadd (h : Head) (d a b : BitVec 6) (s : State) : Out := vecBinary s h d a b (· + ·)
def execIsub (h : Head) (d a b : BitVec 6) (s : State) : Out := vecBinary s h d a b (· - ·)
def execImul (h : Head) (d a b : BitVec 6) (s : State) : Out := vecBinary s h d a b (· * ·)

/-- The high word of a product (R118). -/
def mulHigh (m : MulSign) (x y : Word) : Word :=
  let p : Int := match m with
    | .ii => x.toInt * y.toInt
    | .nn => (x.toNat : Int) * y.toNat
    | .ni => (x.toNat : Int) * y.toInt
  (BitVec.ofInt 64 p).extractLsb' 32 32

def execImulh (h : Head) (d a b : BitVec 6) (m : MulSign) (s : State) : Out := vecBinary s h d a b (mulHigh m)

/-- The smaller or the larger operand (R118). -/
def pickMin (mx sg : Bool) (x y : Word) : Word :=
  if mx == decide (int32 sg x < int32 sg y) then y else x

def execImin (h : Head) (d a b : BitVec 6) (sg : Bool) (s : State) : Out := vecBinary s h d a b (pickMin false sg)
def execImax (h : Head) (d a b : BitVec 6) (sg : Bool) (s : State) : Out := vecBinary s h d a b (pickMin true sg)

/-- R119: |sv(a)|, and 0x8000_0000 for itself. -/
def execIabs (h : Head) (d a : BitVec 6) (s : State) : Out := vecUnary s h d a (fun x => if x.msb then -x else x)

/-- R118: shifts by 32 or more give 0, or the sign for ISAR. -/
def shiftLeft (x y : Word) : Word := if 32 ≤ y.toNat then 0 else x <<< y.toNat
def shiftRight (x y : Word) : Word := if 32 ≤ y.toNat then 0 else x >>> y.toNat
def shiftArith (x y : Word) : Word := x.sshiftRight (min y.toNat 31)

def execIshl (h : Head) (d a b : BitVec 6) (s : State) : Out := vecBinary s h d a b shiftLeft
def execIshr (h : Head) (d a b : BitVec 6) (s : State) : Out := vecBinary s h d a b shiftRight
def execIsar (h : Head) (d a b : BitVec 6) (s : State) : Out := vecBinary s h d a b shiftArith
def execAnd (h : Head) (d a b : BitVec 6) (s : State) : Out := vecBinary s h d a b (· &&& ·)
def execOr (h : Head) (d a b : BitVec 6) (s : State) : Out := vecBinary s h d a b (· ||| ·)
def execXor (h : Head) (d a b : BitVec 6) (s : State) : Out := vecBinary s h d a b (· ^^^ ·)
def execAndn (h : Head) (d a b : BitVec 6) (s : State) : Out := vecBinary s h d a b (fun x y => x &&& ~~~y)

/-- R119. -/
def popCount (x : Word) : Word := BitVec.ofNat 32 (Mask.count x)
def leadingZeros (x : Word) : Word := BitVec.ofNat 32 (if x = 0#32 then 32 else 31 - Nat.log2 x.toNat)
def reverseBits (x : Word) : Word := maskOf (fun i => x.getLsbD (31 - i))

def execPopc (h : Head) (d a : BitVec 6) (s : State) : Out := vecUnary s h d a popCount
def execClz (h : Head) (d a : BitVec 6) (s : State) : Out := vecUnary s h d a leadingZeros
def execBrev (h : Head) (d a : BitVec 6) (s : State) : Out := vecUnary s h d a reverseBits
def execMov (h : Head) (d a : BitVec 6) (s : State) : Out := vecUnary s h d a id

/-- R125. -/
def execMovi (h : Head) (d : BitVec 6) (i : BitVec 8) (s : State) : Out :=
  issue s 1 h (.vec d 1) [] fun c => c.retire (c.f.setV d c.act (fun _ => i.signExtend 32))

def execIaddi (h : Head) (d a : BitVec 6) (i : BitVec 8) (s : State) : Out := vecUnary s h d a (· + i.signExtend 32)

def execLimm (h : Head) (d : BitVec 6) (i : Word) (s : State) : Out :=
  issue s 2 h (.vec d 1) [] fun c => c.retire (c.f.setV d c.act (fun _ => i))

/-- An E4M3 pattern widened to FP32 (R15, R125). -/
def e4m3Word (i : BitVec 8) : Word := BitVec.ofNat 32 (Fmt.fp32.round .rne false (Fmt.e4m3.decode i.toNat)).1

def execFmovi (h : Head) (d : BitVec 6) (i : BitVec 8) (s : State) : Out :=
  issue s 1 h (.vec d 1) [] fun c => c.retire (c.f.setV d c.act (fun _ => e4m3Word i))

/-- R124, on whole masks. -/
def plogOp (m : BitVec 2) (x y : Mask) : Mask :=
  match m.toNat with
  | 0 => x &&& y
  | 1 => x ||| y
  | 2 => x ^^^ y
  | _ => x &&& ~~~y

def execPlog (h : Head) (d a b : BitVec 3) (m : BitVec 2) (s : State) : Out :=
  issue s 1 h (.pred d) [] fun c => c.retire (c.f.setP d c.act (plogOp m (c.f.getP a) (c.f.getP b)))

/-- R120. -/
def execImad (h : Head) (d a b e : BitVec 6) (s : State) : Out :=
  issue s 2 h (.vec d 1) [.v a 1, .v b 1, .v e 1] fun c =>
    c.retire (c.f.setV d c.act (fun l => c.f.getV a l * c.f.getV b l + c.f.getV e l))

def execLea (h : Head) (d a b : BitVec 6) (sh : BitVec 5) (s : State) : Out :=
  issue s 2 h (.vec d 1) [.v a 1, .v b 1] fun c => c.vec2 d a b (fun x y => x + y <<< sh.toNat)

/-- The width of the field of R121, cut at bit 31. -/
def fieldWidth (pos : BitVec 5) (len : BitVec 6) : Nat := min (pos.toNat + len.toNat) 32 - pos.toNat

/-- BFX: the field, extended (R121). -/
def extractField (pos : BitVec 5) (len : BitVec 6) (sg : Bool) (x : Word) : Word :=
  let w := fieldWidth pos len
  let f := x.toNat / 2 ^ pos.toNat % 2 ^ w
  if sg && f / 2 ^ (w - 1) % 2 == 1 then BitVec.ofInt 32 ((f : Int) - 2 ^ w) else BitVec.ofNat 32 f

/-- BFI: the field replaced (R121). -/
def insertField (pos : BitVec 5) (len : BitVec 6) (x y : Word) : Word :=
  let m : Word := BitVec.ofNat 32 ((2 ^ fieldWidth pos len - 1) * 2 ^ pos.toNat)
  (x &&& ~~~m) ||| ((y <<< pos.toNat) &&& m)

def execBfx (h : Head) (d a : BitVec 6) (pos : BitVec 5) (len : BitVec 6) (sg : Bool) (s : State) : Out :=
  issue s 2 h (.vec d 1) [.v a 1] fun c => c.vec1 d a (extractField pos len sg)

def execBfi (h : Head) (d a b : BitVec 6) (pos : BitVec 5) (len : BitVec 6) (s : State) : Out :=
  issue s 2 h (.vec d 1) [.v a 1, .v b 1] fun c => c.vec2 d a b (insertField pos len)

/-- R122. -/
def execSel (h : Head) (d a b : BitVec 6) (pc : BitVec 3) (s : State) : Out :=
  issue s 2 h (.vec d 1) [.v a 1, .v b 1] fun c =>
    c.retire (c.f.setV d c.act (fun l => if (c.f.getP pc).getLsbD l then c.f.getV a l else c.f.getV b l))

/-- R123. -/
def execIcmp (h : Head) (d : BitVec 3) (a b : BitVec 6) (sg : Bool) (cond : Cmp) (s : State) : Out :=
  issue s 2 h (.pred d) [.v a 1, .v b 1] fun c =>
    c.predicate d (fun l => cmpHolds cond (int32 sg (c.f.getV a l)) (int32 sg (c.f.getV b l)))

/-- The sum of R126. -/
def dot4 (sa sb : Bool) (x y z : Word) : Word :=
  low32 ((List.range 4).foldl (fun (s : Int) j => s + val8 (byteOf x j) sa * val8 (byteOf y j) sb) z.toInt)

def execDot4i (h : Head) (d a b e : BitVec 6) (sa sb : Bool) (s : State) : Out :=
  issue s 2 h (.vec d 1) [.v a 1, .v b 1, .v e 1] fun c =>
    c.retire (c.f.setV d c.act (fun l => dot4 sa sb (c.f.getV a l) (c.f.getV b l) (c.f.getV e l)))

/-- R142, R143: VSRR of a lane register, or of bits [31:0] of a warp register (R66). -/
def execVsrr (h : Head) (d : BitVec 6) (sl : BitVec 12) (s : State) : Out :=
  issueWhen s 1 h (.vec d 1) [] (fun _ => isLaneReg sl || isWarpReg sl) fun c =>
    c.retire (c.f.setV d c.act (fun l => if isLaneReg sl then laneRegister c sl l else (warpRegister c sl).setWidth 32))

/-- R142, R143: VSRW writes %xen or %tsub; the other lane registers are read only. -/
def execVsrw (h : Head) (d : BitVec 6) (sl : BitVec 12) (s : State) : Out :=
  issueWhen s 1 h .none [.v d 1] (fun _ => isLaneReg sl) fun c =>
    if laneWritable sl then c.retireIn (c.s.setWarp (writeLaneReg c sl (c.f.getV d))) c.f
    else if c.act == 0#32 then c.retire c.f
    else c.trap .privilege c.act

end Sys2Proof.Machine
end

