-- ==== Sys2Proof/Machine/Dispatch.lean ====
section
/-! DEFINITION. One arm for each operation or event of `Instr`: a direct call of its meaning. -/

namespace Sys2Proof.Machine

open Sys2Proof

def exec (i : Instr) (s : State) : Host.Outcome State Fault Refusal :=
  match i with
  -- vector integer, logic, moves and immediates (R118 to R126)
  | .nop x1 => Sys2Proof.Machine.execNop x1 s
  | .iadd x1 x2 x3 x4 => Sys2Proof.Machine.execIadd x1 x2 x3 x4 s
  | .isub x1 x2 x3 x4 => Sys2Proof.Machine.execIsub x1 x2 x3 x4 s
  | .imul x1 x2 x3 x4 => Sys2Proof.Machine.execImul x1 x2 x3 x4 s
  | .imulh x1 x2 x3 x4 x5 => Sys2Proof.Machine.execImulh x1 x2 x3 x4 x5 s
  | .imin x1 x2 x3 x4 x5 => Sys2Proof.Machine.execImin x1 x2 x3 x4 x5 s
  | .imax x1 x2 x3 x4 x5 => Sys2Proof.Machine.execImax x1 x2 x3 x4 x5 s
  | .iabs x1 x2 x3 => Sys2Proof.Machine.execIabs x1 x2 x3 s
  | .ishl x1 x2 x3 x4 => Sys2Proof.Machine.execIshl x1 x2 x3 x4 s
  | .ishr x1 x2 x3 x4 => Sys2Proof.Machine.execIshr x1 x2 x3 x4 s
  | .isar x1 x2 x3 x4 => Sys2Proof.Machine.execIsar x1 x2 x3 x4 s
  | .and x1 x2 x3 x4 => Sys2Proof.Machine.execAnd x1 x2 x3 x4 s
  | .or x1 x2 x3 x4 => Sys2Proof.Machine.execOr x1 x2 x3 x4 s
  | .xor x1 x2 x3 x4 => Sys2Proof.Machine.execXor x1 x2 x3 x4 s
  | .andn x1 x2 x3 x4 => Sys2Proof.Machine.execAndn x1 x2 x3 x4 s
  | .popc x1 x2 x3 => Sys2Proof.Machine.execPopc x1 x2 x3 s
  | .clz x1 x2 x3 => Sys2Proof.Machine.execClz x1 x2 x3 s
  | .brev x1 x2 x3 => Sys2Proof.Machine.execBrev x1 x2 x3 s
  | .mov x1 x2 x3 => Sys2Proof.Machine.execMov x1 x2 x3 s
  | .movi x1 x2 x3 => Sys2Proof.Machine.execMovi x1 x2 x3 s
  | .iaddi x1 x2 x3 x4 => Sys2Proof.Machine.execIaddi x1 x2 x3 x4 s
  | .limm x1 x2 x3 => Sys2Proof.Machine.execLimm x1 x2 x3 s
  | .fmovi x1 x2 x3 => Sys2Proof.Machine.execFmovi x1 x2 x3 s
  | .plog x1 x2 x3 x4 x5 => Sys2Proof.Machine.execPlog x1 x2 x3 x4 x5 s
  | .vsrr x1 x2 x3 => Sys2Proof.Machine.execVsrr x1 x2 x3 s
  | .vsrw x1 x2 x3 => Sys2Proof.Machine.execVsrw x1 x2 x3 s
  | .imad x1 x2 x3 x4 x5 => Sys2Proof.Machine.execImad x1 x2 x3 x4 x5 s
  | .lea x1 x2 x3 x4 x5 => Sys2Proof.Machine.execLea x1 x2 x3 x4 x5 s
  | .bfx x1 x2 x3 x4 x5 x6 => Sys2Proof.Machine.execBfx x1 x2 x3 x4 x5 x6 s
  | .bfi x1 x2 x3 x4 x5 x6 => Sys2Proof.Machine.execBfi x1 x2 x3 x4 x5 x6 s
  | .sel x1 x2 x3 x4 x5 => Sys2Proof.Machine.execSel x1 x2 x3 x4 x5 s
  | .icmp x1 x2 x3 x4 x5 x6 => Sys2Proof.Machine.execIcmp x1 x2 x3 x4 x5 x6 s
  | .dot4i x1 x2 x3 x4 x5 x6 x7 => Sys2Proof.Machine.execDot4i x1 x2 x3 x4 x5 x6 x7 s
  | .dot2h x1 x2 x3 x4 x5 x6 x7 => Sys2Proof.Machine.execDot2h x1 x2 x3 x4 x5 x6 x7 s
  -- vector floating point (R128 to R134)
  | .fadd x1 x2 x3 x4 x5 => Sys2Proof.Machine.execFadd x1 x2 x3 x4 x5 s
  | .fsub x1 x2 x3 x4 x5 => Sys2Proof.Machine.execFsub x1 x2 x3 x4 x5 s
  | .fmul x1 x2 x3 x4 x5 => Sys2Proof.Machine.execFmul x1 x2 x3 x4 x5 s
  | .fmac x1 x2 x3 x4 x5 => Sys2Proof.Machine.execFmac x1 x2 x3 x4 x5 s
  | .ffma x1 x2 x3 x4 x5 x6 x7 x8 => Sys2Proof.Machine.execFfma x1 x2 x3 x4 x5 x6 x7 x8 s
  | .fmin x1 x2 x3 x4 => Sys2Proof.Machine.execFmin x1 x2 x3 x4 s
  | .fmax x1 x2 x3 x4 => Sys2Proof.Machine.execFmax x1 x2 x3 x4 s
  | .fsgn x1 x2 x3 x4 => Sys2Proof.Machine.execFsgn x1 x2 x3 x4 s
  | .fcmp x1 x2 x3 x4 x5 => Sys2Proof.Machine.execFcmp x1 x2 x3 x4 x5 s
  | .fclass x1 x2 x3 x4 => Sys2Proof.Machine.execFclass x1 x2 x3 x4 s
  | .frnd x1 x2 x3 x4 => Sys2Proof.Machine.execFrnd x1 x2 x3 x4 s
  | .fscl x1 x2 x3 x4 x5 => Sys2Proof.Machine.execFscl x1 x2 x3 x4 x5 s
  | .hadd2 x1 x2 x3 x4 x5 => Sys2Proof.Machine.execHadd2 x1 x2 x3 x4 x5 s
  | .hmul2 x1 x2 x3 x4 x5 => Sys2Proof.Machine.execHmul2 x1 x2 x3 x4 x5 s
  | .hmin2 x1 x2 x3 x4 x5 => Sys2Proof.Machine.execHmin2 x1 x2 x3 x4 x5 s
  | .hmax2 x1 x2 x3 x4 x5 => Sys2Proof.Machine.execHmax2 x1 x2 x3 x4 x5 s
  | .hfma2 x1 x2 x3 x4 x5 x6 x7 => Sys2Proof.Machine.execHfma2 x1 x2 x3 x4 x5 x6 x7 s
  -- conversion and special functions (R135 to R141)
  | .cvt x1 x2 x3 x4 x5 x6 x7 => Sys2Proof.Machine.execCvt x1 x2 x3 x4 x5 x6 x7 s
  | .cvtp x1 x2 x3 x4 x5 x6 x7 x8 => Sys2Proof.Machine.execCvtp x1 x2 x3 x4 x5 x6 x7 x8 s
  | .cvtu x1 x2 x3 x4 x5 => Sys2Proof.Machine.execCvtu x1 x2 x3 x4 x5 s
  | .qdec x1 x2 x3 x4 x5 => Sys2Proof.Machine.execQdec x1 x2 x3 x4 x5 s
  | .qenc x1 x2 x3 x4 x5 => Sys2Proof.Machine.execQenc x1 x2 x3 x4 x5 s
  | .rcp x1 x2 x3 => Sys2Proof.Machine.execRcp x1 x2 x3 s
  | .rsq x1 x2 x3 => Sys2Proof.Machine.execRsq x1 x2 x3 s
  | .sqrt x1 x2 x3 => Sys2Proof.Machine.execSqrt x1 x2 x3 s
  | .exp2 x1 x2 x3 => Sys2Proof.Machine.execExp2 x1 x2 x3 s
  | .log2 x1 x2 x3 => Sys2Proof.Machine.execLog2 x1 x2 x3 s
  | .sinp x1 x2 x3 => Sys2Proof.Machine.execSinp x1 x2 x3 s
  | .cosp x1 x2 x3 => Sys2Proof.Machine.execCosp x1 x2 x3 s
  | .tanh x1 x2 x3 => Sys2Proof.Machine.execTanh x1 x2 x3 s
  -- uniform (R144 to R147)
  | .sadd x1 x2 x3 x4 => Sys2Proof.Machine.execSadd x1 x2 x3 x4 s
  | .ssub x1 x2 x3 x4 => Sys2Proof.Machine.execSsub x1 x2 x3 x4 s
  | .smul x1 x2 x3 x4 => Sys2Proof.Machine.execSmul x1 x2 x3 x4 s
  | .sshf x1 x2 x3 x4 x5 => Sys2Proof.Machine.execSshf x1 x2 x3 x4 x5 s
  | .slog x1 x2 x3 x4 x5 => Sys2Proof.Machine.execSlog x1 x2 x3 x4 x5 s
  | .sminmax x1 x2 x3 x4 x5 => Sys2Proof.Machine.execSminmax x1 x2 x3 x4 x5 s
  | .smov x1 x2 x3 => Sys2Proof.Machine.execSmov x1 x2 x3 s
  | .smovi x1 x2 x3 => Sys2Proof.Machine.execSmovi x1 x2 x3 s
  | .smad x1 x2 x3 x4 x5 => Sys2Proof.Machine.execSmad x1 x2 x3 x4 x5 s
  | .slea x1 x2 x3 x4 x5 x6 => Sys2Proof.Machine.execSlea x1 x2 x3 x4 x5 x6 s
  | .slimm x1 x2 x3 x4 => Sys2Proof.Machine.execSlimm x1 x2 x3 x4 s
  | .scmp x1 x2 x3 x4 x5 x6 => Sys2Proof.Machine.execScmp x1 x2 x3 x4 x5 x6 s
  | .srr x1 x2 x3 => Sys2Proof.Machine.execSrr x1 x2 x3 s
  | .srw x1 x2 x3 => Sys2Proof.Machine.execSrw x1 x2 x3 s
  -- control transfer, filing, cross-lane (R150 to R168, R289, R332)
  | .bra x1 x2 => Sys2Proof.Machine.execBra x1 x2 s
  | .bru x1 x2 => Sys2Proof.Machine.execBru x1 x2 s
  | .call x1 x2 => Sys2Proof.Machine.execCall x1 x2 s
  | .calli x1 x2 x3 x4 => Sys2Proof.Machine.execCalli x1 x2 x3 x4 s
  | .jmpi x1 x2 x3 x4 => Sys2Proof.Machine.execJmpi x1 x2 x3 x4 s
  | .ret x1 => Sys2Proof.Machine.execRet x1 s
  | .reform x1 x2 x3 => Sys2Proof.Machine.execReform x1 x2 x3 s
  | .spawn x1 x2 x3 => Sys2Proof.Machine.execSpawn x1 x2 x3 s
  | .exit x1 => Sys2Proof.Machine.execExit x1 s
  | .yield x1 x2 x3 => Sys2Proof.Machine.execYield x1 x2 x3 s
  | .balw x1 x2 x3 x4 => Sys2Proof.Machine.execBalw x1 x2 x3 x4 s
  | .shfl x1 x2 x3 x4 x5 x6 x7 x8 x9 x10 x11 x12 => Sys2Proof.Machine.execShfl x1 x2 x3 x4 x5 x6 x7 x8 x9 x10 x11 x12 s
  | .vote x1 x2 x3 x4 x5 x6 x7 => Sys2Proof.Machine.execVote x1 x2 x3 x4 x5 x6 x7 s
  | .redw x1 x2 x3 x4 x5 x6 x7 => Sys2Proof.Machine.execRedw x1 x2 x3 x4 x5 x6 x7 s
  | .scanw x1 x2 x3 x4 x5 x6 x7 x8 x9 => Sys2Proof.Machine.execScanw x1 x2 x3 x4 x5 x6 x7 x8 x9 s
  | .elect x1 x2 => Sys2Proof.Machine.execElect x1 x2 s
  | .rdlane x1 x2 x3 x4 => Sys2Proof.Machine.execRdlane x1 x2 x3 x4 s
  | .bcast x1 x2 x3 x4 => Sys2Proof.Machine.execBcast x1 x2 x3 x4 s
  -- memory (R222 to R232)
  | .ld x1 x2 x3 => Sys2Proof.Machine.execLd x1 x2 x3 s
  | .st x1 x2 x3 => Sys2Proof.Machine.execSt x1 x2 x3 s
  | .sld x1 x2 x3 => Sys2Proof.Machine.execSld x1 x2 x3 s
  | .sst x1 x2 x3 => Sys2Proof.Machine.execSst x1 x2 x3 s
  | .ldf x1 x2 x3 => Sys2Proof.Machine.execLdf x1 x2 x3 s
  | .stf x1 x2 x3 => Sys2Proof.Machine.execStf x1 x2 x3 s
  | .lde x1 x2 x3 => Sys2Proof.Machine.execLde x1 x2 x3 s
  | .atom x1 x2 x3 => Sys2Proof.Machine.execAtom x1 x2 x3 s
  | .red x1 x2 x3 => Sys2Proof.Machine.execRed x1 x2 x3 s
  | .redm x1 x2 x3 => Sys2Proof.Machine.execRedm x1 x2 x3 s
  | .mst x1 x2 x3 => Sys2Proof.Machine.execMst x1 x2 x3 s
  | .touch x1 x2 => Sys2Proof.Machine.execTouch x1 x2 s
  | .evict x1 x2 => Sys2Proof.Machine.execEvict x1 x2 s
  | .pref x1 x2 => Sys2Proof.Machine.execPref x1 x2 s
  -- engines, tiles and matrix (R236 to R248)
  | .cpy x1 x2 x3 x4 x5 x6 x7 x8 x9 => Sys2Proof.Machine.execCpy x1 x2 x3 x4 x5 x6 x7 x8 x9 s
  | .cpyt x1 x2 x3 x4 x5 x6 x7 x8 x9 x10 x11 => Sys2Proof.Machine.execCpyt x1 x2 x3 x4 x5 x6 x7 x8 x9 x10 x11 s
  | .qfence x1 x2 x3 x4 x5 => Sys2Proof.Machine.execQfence x1 x2 x3 x4 x5 s
  | .ldt x1 x2 x3 x4 x5 x6 => Sys2Proof.Machine.execLdt x1 x2 x3 x4 x5 x6 s
  | .stt x1 x2 x3 x4 x5 => Sys2Proof.Machine.execStt x1 x2 x3 x4 x5 s
  | .mma x1 x2 x3 x4 x5 x6 x7 x8 x9 => Sys2Proof.Machine.execMma x1 x2 x3 x4 x5 x6 x7 x8 x9 s
  | .mmaz x1 x2 x3 x4 x5 x6 x7 x8 x9 => Sys2Proof.Machine.execMmaz x1 x2 x3 x4 x5 x6 x7 x8 x9 s
  | .accrd x1 x2 x3 x4 x5 => Sys2Proof.Machine.execAccrd x1 x2 x3 x4 x5 s
  | .accwr x1 x2 x3 x4 x5 => Sys2Proof.Machine.execAccwr x1 x2 x3 x4 x5 s
  | .accld x1 x2 x3 x4 => Sys2Proof.Machine.execAccld x1 x2 x3 x4 s
  | .accst x1 x2 x3 x4 => Sys2Proof.Machine.execAccst x1 x2 x3 x4 s
  | .accz x1 x2 => Sys2Proof.Machine.execAccz x1 x2 s
  | .txp x1 x2 x3 x4 => Sys2Proof.Machine.execTxp x1 x2 x3 x4 s
  -- synchronisation (R270 to R288, R308, R312)
  | .fence x1 x2 x3 x4 => Sys2Proof.Machine.execFence x1 x2 x3 x4 s
  | .acq x1 x2 x3 x4 => Sys2Proof.Machine.execAcq x1 x2 x3 x4 s
  | .rel x1 x2 x3 x4 x5 x6 => Sys2Proof.Machine.execRel x1 x2 x3 x4 x5 x6 s
  | .bind x1 x2 x3 x4 x5 => Sys2Proof.Machine.execBind x1 x2 x3 x4 x5 s
  | .bar x1 x2 x3 => Sys2Proof.Machine.execBar x1 x2 x3 s
  | .gbar x1 x2 x3 => Sys2Proof.Machine.execGbar x1 x2 x3 s
  | .barm x1 x2 x3 x4 => Sys2Proof.Machine.execBarm x1 x2 x3 x4 s
  | .bara x1 x2 x3 x4 => Sys2Proof.Machine.execBara x1 x2 x3 x4 s
  | .barw x1 x2 x3 x4 => Sys2Proof.Machine.execBarw x1 x2 x3 x4 s
  | .bart x1 x2 x3 x4 x5 => Sys2Proof.Machine.execBart x1 x2 x3 x4 x5 s
  | .waitc x1 x2 x3 x4 x5 => Sys2Proof.Machine.execWaitc x1 x2 x3 x4 x5 s
  | .waitcPoll x1 => Sys2Proof.Machine.execWaitcPoll x1 s
  | .pin x1 x2 x3 => Sys2Proof.Machine.execPin x1 x2 x3 s
  | .unpin x1 x2 => Sys2Proof.Machine.execUnpin x1 x2 s
  | .reclaim x1 x2 x3 => Sys2Proof.Machine.execReclaim x1 x2 x3 s
  | .reclaimd x1 x2 => Sys2Proof.Machine.execReclaimd x1 x2 s
  | .alw x1 x2 x3 => Sys2Proof.Machine.execAlw x1 x2 x3 s
  | .coll x1 x2 => Sys2Proof.Machine.execColl x1 x2 s
  | .collw x1 x2 x3 => Sys2Proof.Machine.execCollw x1 x2 x3 s
  -- traps and pre-emption (R329, R333, R326)
  | .trap x1 x2 => Sys2Proof.Machine.execTrap x1 x2 s
  | .brk x1 x2 => Sys2Proof.Machine.execBrk x1 x2 s
  | .rett x1 x2 => Sys2Proof.Machine.execRett x1 x2 s
  | .preq x1 x2 => Sys2Proof.Machine.execPreq x1 x2 s
  | .trapEntry x1 => Sys2Proof.Machine.execTrapEntry x1 s
  -- queues, grids and placement (R42 to R64, R335)
  | .tailWrite x1 x2 => Sys2Proof.Machine.execTailWrite x1 x2 s
  | .queueSlotWrite x1 x2 x3 => Sys2Proof.Machine.execQueueSlotWrite x1 x2 x3 s
  | .recordAccept x1 => Sys2Proof.Machine.execRecordAccept x1 s
  | .gridComplete x1 => Sys2Proof.Machine.execGridComplete x1 s
  | .blockPlace x1 x2 x3 => Sys2Proof.Machine.execBlockPlace x1 x2 x3 s
  | .gangPlace x1 x2 => Sys2Proof.Machine.execGangPlace x1 x2 s
  | .gangHold x1 x2 => Sys2Proof.Machine.execGangHold x1 x2 s
  | .blockResume x1 x2 => Sys2Proof.Machine.execBlockResume x1 x2 s
  | .panTimerExpire x1 => Sys2Proof.Machine.execPanTimerExpire x1 s
  | .panYield x1 x2 => Sys2Proof.Machine.execPanYield x1 x2 s
  -- buffers and engines (R252, R265, R235, R179)
  | .fsbRelease x1 => Sys2Proof.Machine.execFsbRelease x1 s
  | .bsbDrain x1 x2 => Sys2Proof.Machine.execBsbDrain x1 x2 s
  | .enginePerform x1 x2 => Sys2Proof.Machine.execEnginePerform x1 x2 s
  | .engineRemoteTimeout x1 x2 => Sys2Proof.Machine.execEngineRemoteTimeout x1 x2 s
  | .emptyTimeout x1 => Sys2Proof.Machine.execEmptyTimeout x1 s
  -- page walks and sharded pages (R188, R205 to R217)
  | .pageWalkDone x1 x2 => Sys2Proof.Machine.execPageWalkDone x1 x2 s
  | .memoryPressureEvict x1 x2 => Sys2Proof.Machine.execMemoryPressureEvict x1 x2 s
  | .deferredFill x1 => Sys2Proof.Machine.execDeferredFill x1 s
  | .greq x1 x2 => Sys2Proof.Machine.execGreq x1 x2 s
  | .gather x1 x2 => Sys2Proof.Machine.execGather x1 x2 s
  | .gdata x1 x2 => Sys2Proof.Machine.execGdata x1 x2 s
  | .gdone x1 x2 => Sys2Proof.Machine.execGdone x1 x2 s
  | .dreq x1 x2 => Sys2Proof.Machine.execDreq x1 x2 s
  | .drain x1 x2 => Sys2Proof.Machine.execDrain x1 x2 s
  | .dsum x1 x2 => Sys2Proof.Machine.execDsum x1 x2 s
  | .ddone x1 x2 => Sys2Proof.Machine.execDdone x1 x2 s
  | .pageEnd x1 x2 => Sys2Proof.Machine.execPageEnd x1 x2 s
  | .fetch x1 x2 => Sys2Proof.Machine.execFetch x1 x2 s
  | .fdata x1 x2 => Sys2Proof.Machine.execFdata x1 x2 s
  | .busy x1 x2 => Sys2Proof.Machine.execBusy x1 x2 s
  | .busyRetry x1 => Sys2Proof.Machine.execBusyRetry x1 s
  | .fail x1 x2 => Sys2Proof.Machine.execFail x1 x2 s
  | .pageTimeout x1 x2 x3 => Sys2Proof.Machine.execPageTimeout x1 x2 x3 s
  -- fabric packets (R291 to R300, R304, R309)
  | .read x1 x2 x3 x4 => Sys2Proof.Machine.execRead x1 x2 x3 x4 s
  | .write x1 x2 x3 x4 x5 => Sys2Proof.Machine.execWrite x1 x2 x3 x4 x5 s
  | .atomReq x1 x2 x3 x4 x5 x6 x7 => Sys2Proof.Machine.execAtomReq x1 x2 x3 x4 x5 x6 x7 s
  | .redReq x1 x2 x3 x4 x5 x6 => Sys2Proof.Machine.execRedReq x1 x2 x3 x4 x5 x6 s
  | .redmReq x1 x2 x3 x4 x5 => Sys2Proof.Machine.execRedmReq x1 x2 x3 x4 x5 s
  | .eread x1 x2 x3 x4 => Sys2Proof.Machine.execEread x1 x2 x3 x4 s
  | .ewrite x1 x2 x3 x4 => Sys2Proof.Machine.execEwrite x1 x2 x3 x4 s
  | .cstep x1 x2 x3 => Sys2Proof.Machine.execCstep x1 x2 x3 s
  | .cmatch x1 x2 x3 x4 x5 x6 => Sys2Proof.Machine.execCmatch x1 x2 x3 x4 x5 x6 s
  | .collTimeout x1 x2 => Sys2Proof.Machine.execCollTimeout x1 x2 s
  | .rdata x1 x2 x3 x4 => Sys2Proof.Machine.execRdata x1 x2 x3 x4 s
  | .areply x1 x2 x3 x4 => Sys2Proof.Machine.execAreply x1 x2 x3 x4 s
  | .ack x1 x2 => Sys2Proof.Machine.execAck x1 x2 s
  | .nack x1 x2 x3 => Sys2Proof.Machine.execNack x1 x2 x3 s
  | .remoteLoadTimeout x1 => Sys2Proof.Machine.execRemoteLoadTimeout x1 s
  | .storeAckTimeout x1 => Sys2Proof.Machine.execStoreAckTimeout x1 s
  | .aret x1 x2 x3 x4 x5 x6 => Sys2Proof.Machine.execAret x1 x2 x3 x4 x5 x6 s
  | .allowanceReturnTimer x1 => Sys2Proof.Machine.execAllowanceReturnTimer x1 s
  -- slices, TIDE and time (R293, R313, R314, R365)
  | .ready x1 x2 x3 => Sys2Proof.Machine.execReady x1 x2 x3 s
  | .sabort x1 x2 x3 x4 x5 => Sys2Proof.Machine.execSabort x1 x2 x3 x4 x5 s
  | .tide x1 x2 x3 x4 => Sys2Proof.Machine.execTide x1 x2 x3 x4 s
  | .timeq x1 x2 => Sys2Proof.Machine.execTimeq x1 x2 s
  | .timer x1 x2 x3 x4 => Sys2Proof.Machine.execTimer x1 x2 x3 x4 s
  | .sliceStart x1 => Sys2Proof.Machine.execSliceStart x1 s
  | .sliceGraceExpire x1 => Sys2Proof.Machine.execSliceGraceExpire x1 s
  | .routeHoldTimeout x1 x2 => Sys2Proof.Machine.execRouteHoldTimeout x1 x2 s
  | .linkRestrict x1 x2 => Sys2Proof.Machine.execLinkRestrict x1 x2 s
  | .tideFallback x1 x2 => Sys2Proof.Machine.execTideFallback x1 x2 s
  | .tideHoldEnd x1 => Sys2Proof.Machine.execTideHoldEnd x1 s
  -- saves, ends, errors and repair (R334, R346, R348, R356, R357, R195, R358)
  | .cooperativeSave x1 => Sys2Proof.Machine.execCooperativeSave x1 s
  | .forcedSave x1 => Sys2Proof.Machine.execForcedSave x1 s
  | .blockEnd x1 => Sys2Proof.Machine.execBlockEnd x1 s
  | .errorConsume x1 x2 => Sys2Proof.Machine.execErrorConsume x1 x2 s
  | .selfTest x1 x2 x3 => Sys2Proof.Machine.execSelfTest x1 x2 x3 s
  | .coreRetire x1 => Sys2Proof.Machine.execCoreRetire x1 s
  | .laneRemap x1 x2 x3 => Sys2Proof.Machine.execLaneRemap x1 x2 x3 s
  | .channelRetire x1 => Sys2Proof.Machine.execChannelRetire x1 s
  -- base-die packets (R192, R197)
  | .read64 x1 x2 x3 => Sys2Proof.Machine.execRead64 x1 x2 x3 s
  | .read256 x1 x2 x3 => Sys2Proof.Machine.execRead256 x1 x2 x3 s
  | .hbmWrite x1 x2 x3 x4 => Sys2Proof.Machine.execHbmWrite x1 x2 x3 x4 s
  | .hbmAtom x1 x2 x3 x4 x5 x6 x7 => Sys2Proof.Machine.execHbmAtom x1 x2 x3 x4 x5 x6 x7 s
  | .hbmRedm x1 x2 x3 x4 x5 => Sys2Proof.Machine.execHbmRedm x1 x2 x3 x4 x5 s
  -- power, host window, boot (R363, R44, R367, R368)
  | .apertureRead x1 x2 x3 => Sys2Proof.Machine.execApertureRead x1 x2 x3 s
  | .apertureWrite x1 x2 x3 => Sys2Proof.Machine.execApertureWrite x1 x2 x3 s
  | .stagingWrite x1 x2 x3 => Sys2Proof.Machine.execStagingWrite x1 x2 x3 s
  | .bootgo x1 => Sys2Proof.Machine.execBootgo x1 s
  | .registerWrite x1 x2 => Sys2Proof.Machine.execRegisterWrite x1 x2 s
  -- firmware requests (R45)
  | .jobOpen x1 x2 x3 => Sys2Proof.Machine.execJobOpen x1 x2 x3 s
  | .jobClose x1 => Sys2Proof.Machine.execJobClose x1 s
  | .queueConfig x1 x2 x3 x4 x5 x6 => Sys2Proof.Machine.execQueueConfig x1 x2 x3 x4 x5 x6 s
  | .queueReset x1 => Sys2Proof.Machine.execQueueReset x1 s
  | .keyLoad x1 x2 x3 => Sys2Proof.Machine.execKeyLoad x1 x2 x3 s
  | .groupWrite x1 x2 => Sys2Proof.Machine.execGroupWrite x1 x2 s
  | .map x1 x2 x3 => Sys2Proof.Machine.execMap x1 x2 x3 s
  | .grant x1 x2 x3 x4 => Sys2Proof.Machine.execGrant x1 x2 x3 x4 s
  | .routeLoad x1 x2 x3 => Sys2Proof.Machine.execRouteLoad x1 x2 x3 s
  | .admitKeys x1 x2 => Sys2Proof.Machine.execAdmitKeys x1 x2 s
  | .slice x1 x2 x3 => Sys2Proof.Machine.execSlice x1 x2 x3 s
  | .preempt x1 => Sys2Proof.Machine.execPreempt x1 s
  | .pgovWrite x1 => Sys2Proof.Machine.execPgovWrite x1 s
  | .quote x1 => Sys2Proof.Machine.execQuote x1 s
  | .debug x1 x2 => Sys2Proof.Machine.execDebug x1 x2 s
  | .saveArea x1 x2 x3 => Sys2Proof.Machine.execSaveArea x1 x2 x3 s
  | .reservedRequest x1 => Sys2Proof.Machine.execReservedRequest x1 s
  -- patrol, links, time and requests of system software (R293, R350, R358, R372)
  | .scrub x1 x2 => Sys2Proof.Machine.execScrub x1 x2 s
  | .linkTraining x1 x2 => Sys2Proof.Machine.execLinkTraining x1 x2 s
  | .timeqSend x1 => Sys2Proof.Machine.execTimeqSend x1 s
  | .sliceAbortRequest x1 => Sys2Proof.Machine.execSliceAbortRequest x1 s
  | .gridEndRequest x1 => Sys2Proof.Machine.execGridEndRequest x1 s
  -- no operands (R119, R363, R45, R371 to R373)
  | .governorPeriod => Sys2Proof.Machine.execGovernorPeriod s
  | .pgovRead => Sys2Proof.Machine.execPgovRead s
  | .reset => Sys2Proof.Machine.execReset s
  | .warmReset => Sys2Proof.Machine.execWarmReset s
  | .coldReset => Sys2Proof.Machine.execColdReset s
  | .resetPin => Sys2Proof.Machine.execResetPin s

end Sys2Proof.Machine
end

