-- ==== Sys2Proof/Machine/Run.lean ====
section
/-! DEFINITION. What one step performs, what the device may do next of itself, and how the model places one
instruction for the next step (06 R111; log 1, log 5). -/

namespace Sys2Proof.Machine

open Sys2Proof

/-- A fragment issues: fetch, then the instruction's meaning, then a STEP trap where one is due. -/
def State.issueFrag (s : State) (id : Nat) : Out :=
  match s.frag? id with
  | none => .next s
  | some f =>
      if f.run != .ready then .next s
      else
        match s.warp? f.warp with
        | none => .next s
        | some w =>
            match s.block? w.block with
            | none => .next s
            | some b =>
                match s.grid? b.grid with
                | none => .next s
                | some g =>
                    match s.fetch g.job b.kernel f.pc with
                    | (.bad cause addr, s1) => .next (s1.takeTrap f w b { cause, lanes := f.mask, addr, info := 0 })
                    | (.poison addr, s1) => .next (let r := s1.draw; r.2.consume f w b (r.2.placeUnit ((r.2.codePlace g.job addr).getD (.hbm 0)) b.core r.1) f.mask addr 0)
                    | (.illegal dst, s1) => .next (s1.takeTrap f w b { cause := .illegalOp, lanes := f.mask, addr := 0, info := dst.setWidth 64 })
                    | (.ok i cf pipe, s1) =>
                        match exec i (s1.dispatch f b.core i cf pipe) with
                        | .next s2 => .next (if g.launch.shadow then s1.leading f w b i s2 else s2.afterIssue f)
                        | .fault r => .fault r
                        | .refused r => .refused r

/-- Perform one item. -/
def State.perform (s : State) (t : Todo) : Out :=
  match t with
  | .issue f => s.issueFrag f
  | .event i => exec i s
  | .early f => .next (s.readEarly f)
  | .arrive b i => .next (s.arriveOne b i)
  | .redm i => .next (s.landRedms (fun x => x.id == i))
  | .restore b => .next (s.restoreBlock b)
  | .record i => .next (s.recordStep i)
  | .mend => .next s.mend
  | .hostRead p h o n => .next (s.hostRead p h o n)
  | .corrected => .next s.correctError
  | .extend => .next s.extendM
  | .translation => .next s.takeTranslation
  | .shadow w x => .next (s.shadowStep w x)
  | .spoiled b u g => .next (s.addPoison (.buf b u (16 * g)) 1)

/-- What time alone brings about: the next block to drain of a core that stays at three quarters (R255), and
collectives whose stores are performed (R308). -/
def State.upkeep (s : State) : State :=
  ((distinct (s.work.blocks.map (·.core))).foldl (fun s c => s.threshold c) s).kickColls

/-- Cycles pass; the age of a fragment that is no candidate stands still (R111) (log 60, DEDUCED). -/
def State.tick (s : State) (cycles ns : Nat) : State :=
  let s' := s.noteFirst.modWork fun y => { y with frags := y.frags.map (fun f => if s.candidate f then f else { f with dispatched := f.dispatched + cycles }) }
  ({ s' with cycle := s.cycle + cycles, time := s.time + ns, work := { s'.work with stalled := [] } } : State).upkeep

/-! ## What the device may do next of itself -/

/-- Steps of buffers, engines, pans and waits. -/
def State.blockSteps (s : State) : List Instr :=
  s.work.blocks.flatMap (fun b =>
    (if b.run == .saved then [] else
      (distinct (b.fsb.flatMap (·.frags))).map Instr.fsbRelease
      ++ ((List.range b.bsb.length).filter (fun i => match b.bsb[i]? with | some e => e.draining && b.drainable e | none => false)).map (Instr.bsbDrain b.id)
      ++ ((List.range 8).filter (fun q => !(b.queues.toList.getD q []).isEmpty)).flatMap (fun q =>
          [Instr.enginePerform b.id (BitVec.ofNat 3 q), Instr.engineRemoteTimeout b.id (BitVec.ofNat 3 q)]))
    ++ (if s.blockOver b then [Instr.blockEnd b.id] else [])
    ++ (if b.run == .placed && s.forceDue b then [Instr.forcedSave b.id] else [])
    ++ (if b.preq.isSome && (s.blockWarps b.id).isEmpty then [Instr.cooperativeSave b.id] else []))

/-- Steps of pans. -/
def State.panSteps (s : State) : List Instr :=
  s.work.pans.flatMap (fun p =>
    (if !p.expired && p.opened + p.timer ≤ s.cycle then [Instr.panTimerExpire p.id] else [])
    ++ (match s.block? p.block with
        | some b => if p.due && s.pansYield b then (b.slots.filter (s.contextFree b)).map (fun x => Instr.panYield p.id x.toNat) else []
        | none => []))

/-- Steps that end the waits of fragments. -/
def State.fragSteps (s : State) : List Instr :=
  s.work.frags.flatMap (fun f =>
    match f.run with
    | .atEntry _ => [Instr.trapEntry f.id]
    | .parked .fullEmpty _ => if emptyLimit ≤ f.waited s.cycle then [Instr.emptyTimeout f.id] else []
    | .parked .remoteReply _ => [Instr.remoteLoadTimeout f.id]
    | _ => [])
  ++ s.sync.polls.map Instr.waitcPoll

/-- Acceptance, placement and the end of grids. A gang and a resume are offered the lowest of the cores of a cluster that fit; the
placing itself takes any (log 76, DESIGN CHOICE). -/
def State.gridSteps (s : State) : List Instr :=
  ((s.work.queues.filter (fun q => q.enable && q.status != .faulted && q.head < q.tail)).map (fun q => Instr.recordAccept q.num))
  ++ s.work.grids.flatMap (fun g =>
    (if s.gridDone g then [Instr.gridComplete g.gid] else [])
    ++ (if !(s.placing g && s.isNext g) then [] else
        match s.gridItem? g with
        | none => []
        | some x =>
            let clusters := (List.range 12).filter (fun cl => s.clusterTakes g x cl && s.clusterOk g x cl)
            let sets := clusters.map (fun cl => (s.fitting g x.2 cl).take (s.itemSize g x))
            if x.1 then
              match s.work.blocks.find? (fun b => b.grid == g.key && b.gang == x.2 && b.run == .saved) with
              | some b => sets.map (Instr.blockResume b.id)
              | none => []
            else if g.launch.gang = 1 then
              clusters.flatMap (fun cl => (s.fitting g x.2 cl).filterMap (fun c => (s.autoParts c g).map (Instr.blockPlace g.gid c)))
            else sets.map (Instr.gangPlace g.gid))
    ++ (if s.work.firstGangs.any (fun f => f.grid == g.key && f.since + 100000 ≤ s.time) then (List.range 12).map (Instr.gangHold g.gid) else []))

/-- Walks, fills, evictions and timeouts of pages. -/
def State.pageSteps (s : State) : List Instr :=
  s.mem.walks.map (fun x => Instr.pageWalkDone x.job x.page)
  ++ ((s.work.jobs.filter (fun j => !j.swapped && !j.deferred.isEmpty)).map (fun j => Instr.deferredFill j.num))
  ++ (if s.mem.framePool < 16384 then
        s.mem.frames.map (fun x => Instr.memoryPressureEvict x.job x.page)
          ++ s.work.jobs.flatMap (fun j => j.deferred.map (Instr.memoryPressureEvict j.num)) else [])
  ++ (((List.range s.mem.busyRetries.length).filter (fun i => match s.mem.busyRetries[i]? with | some x => x.1 + 4000 ≤ s.time | none => false)).map Instr.busyRetry)
  ++ s.mem.transitions.flatMap (fun t => match s.leaf? t.job t.page with
      | some lf => match s.leafGroup lf with
        | some g => ((List.range g.n).filter (s.pageSilent lf g)).map (fun r => Instr.pageTimeout t.job t.page (BitVec.ofNat 6 r))
        | none => []
      | none => [])

/-- Timers of the fabric, collectives, slices, TIDE and the governor. -/
def State.timerSteps (s : State) : List Instr :=
  ((s.coll.colls.filter (fun k => !(s.silentRanks k).isEmpty || s.collUnanswered k)).map (fun k => Instr.collTimeout k.sgid (BitVec.ofNat 32 k.pair)))
  ++ ((s.fab.requests.filter (fun r => r.isPosted && r.late s.time)).map (fun r => Instr.storeAckTimeout r.tag))
  ++ ((s.fab.returns.filter (fun r => r.due s.time)).map (fun r => Instr.allowanceReturnTimer r.dev))
  ++ ((s.fab.injectHolds.filter (fun h => h.since + 100000 ≤ s.time)).map (fun h => Instr.routeHoldTimeout h.dev h.cls))
  ++ ((s.coll.slices.filter (fun x => !x.begun && x.start ≤ s.time)).map (fun x => Instr.sliceStart x.sgid))
  ++ ((s.coll.slices.filter (fun x => !x.aborted && x.start + x.grace ≤ s.time)).map (fun x => Instr.sliceGraceExpire x.sgid))
  ++ ((s.coll.tideHolds.filter (fun h => h.ends.isNone && h.fallback ≤ s.time)).map (fun h => Instr.tideFallback h.sgid (BitVec.ofNat 32 h.pair)))
  ++ ((s.coll.tideHolds.filter (fun h => h.over s.time)).map (fun h => Instr.tideHoldEnd h.job))
  ++ (if 1000 * (s.power.period + 1) ≤ s.time then [Instr.governorPeriod] else [])
  ++ (if s.fw.resetPending && s.power.now = 0 then [Instr.warmReset] else [])

/-- Steps that no row of the opcode table names. -/
def State.otherSteps (s : State) : List Todo :=
  ((s.work.frags.filter (fun f => f.run == .ready)).map (fun f => Todo.early f.id))
  ++ s.work.blocks.flatMap (fun b => (List.range b.wire.length).map (Todo.arrive b.id) ++ (if b.restoring && !s.blockFilling b then [Todo.restore b.id] else []))
  ++ s.sync.redms.map (fun x => Todo.redm x.id)
  ++ (distinct (s.work.unmatched.map (fun x => x.warp.id))).flatMap (fun w => [Todo.shadow w false, Todo.shadow w true])
  ++ (s.work.records.filter (fun r => r.left = 0)).map (fun r => Todo.record r.id)
  ++ (if s.repair.mends.isEmpty then [] else [Todo.mend])
  ++ (if s.mem.l2.isEmpty then [] else [Todo.translation])
  ++ (if s.fw.dstat.fwRun then [Todo.extend, Todo.corrected] else [])

/-- The results of the self-tests under way. -/
def State.testSteps (s : State) : List Instr :=
  s.repair.tests.flatMap (fun x => [Instr.selfTest x.1 x.2 true, Instr.selfTest x.1 x.2 false])

/-- Everything that the device may do next of itself. -/
def State.enabled (s : State) : List Todo :=
  s.choices.map Todo.issue ++ s.otherSteps
    ++ (s.blockSteps ++ s.panSteps ++ s.fragSteps ++ s.gridSteps ++ s.pageSteps ++ s.timerSteps ++ s.testSteps).map Todo.event

/-- The next item of the agenda, in the same cycle, or, with none, a free choice among what is enabled after free spans of
cycles and of fabric time (log 1). -/
def State.advance (s : State) : Out :=
  match s.ctl.agenda with
  | t :: rest => ({ s with ctl := { s.ctl with agenda := rest } } : State).perform t
  | [] =>
      let c := s.draw
      let n := c.2.draw
      let s1 := n.2.tick (c.1 + 1) n.1
      match s1.enabled with
      | [] => .next s1
      | t :: ts => let r := s1.draw; r.2.perform ((t :: ts).getD (r.1 % (ts.length + 1)) t)

/-! ## One instruction placed for the next step -/

/-- The page-table root of the placed job, 256 GiB up. -/
def placedRoot : Nat := 2 ^ 38

/-- A walk from the root to one 1 GiB code page at VA 0, over HBM from 0. -/
def State.placeTables (s : State) : State :=
  ((s.putPte placedRoot (BitVec.ofNat 128 (1 + 48 + (placedRoot + 8192)))).putPte (placedRoot + 8192) (BitVec.ofNat 128 (1 + 48 + (placedRoot + 16384)))).putPte
    (placedRoot + 16384) (BitVec.ofNat 128 (1 + 2 + 32))

/-- Lay a packet out in code memory. -/
def State.storeWords (s : State) (a : Nat) (ws : List Word) : State :=
  s.modMem fun y => { y with hbm := y.hbm.putN a (ws.flatMap (fun w => bytesOf w 4)) }

def placedKernel : Kernel := { va := 0, npkt := 1, tvec := 0xFFFFFFFF#32, vreg := 64, sreg := 64, treg := 4, areg := 4 }

def placedQuota : Quota := { qa := 16, qc := 4, ql := 2048, qw := 4, qpan := 8, qthr := 32 }

def placedLaunch : Launch :=
  { kva := 0, gx := 1, gy := 1, gz := 1, bx := 32, byy := 1, bz := 1, gang := 1, prio := 0, shadow := false, pva := 0,
    cva := 0, deps := [], tlsva := 0, tlsb := 0, maxb := 1 }

/-- A job, a grid of one block of one warp of 32 threads, its code page, and its one packet (log 5). -/
def State.placeWords (s : State) (ws : List Word) : State :=
  let n := s.ctl.nextId
  let job : Job := { num := 0, root := placedRoot, key := 0, swapped := false, keys := [], bittern := [], deferred := [], saveArea := none }
  let grid : Grid :=
    { key := n, gid := { queue := 0, seq := 0 }, detached := false, job := 0, launch := placedLaunch, kernel := placedKernel,
      quota := placedQuota, run := .released, order := 0, nextUnit := 1, again := [], nkill := 0,
      fblk := 0, cause := 0, nrelaunch := 0, tstart := 0, tend := 0, aborted := false }
  let block := Block.born (n + 1) n 0 0 0 placedKernel placedQuota 20000 0 [0] [] s.cycle
  let warp := Warp.born (n + 2) (n + 1) 0 (Vector.ofFn (fun (l : Fin 32) => some (Thread.born l.val l.val 0))) 0
  let frag := Frag.born (n + 3) (n + 2) 64 0xFFFFFFFF#32 s.cycle
  let s1 := (s.storeWords 64 ws).placeTables
  let s2 := s1.modWork fun y => { y with
    jobs := [job] ++ y.jobs.filter (fun j => j.num != 0), grids := [grid] ++ y.grids, blocks := [block] ++ y.blocks,
    warps := [warp] ++ y.warps, frags := [frag] ++ y.frags }
  { s2 with ctl := { s.ctl with agenda := [Todo.issue (n + 3)], nextId := n + 4 } }

end Sys2Proof.Machine
end

