-- ==== Sys2Proof/Machine/Step.lean ====
section
/-! DEFINITION. The step, and the state whose next step runs a given instruction. -/

namespace Sys2Proof.Machine

open Sys2Proof

/-- One step of the device. -/
def step (s : State) : Host.Outcome State Fault Refusal := s.advance

/-- The state whose next step fetches and runs the instruction with bits `w`, the rest of its packet
zero words (log 5). -/
def State.withFetchWord (s : State) (nbits w : Nat) : State :=
  let v := w % 2 ^ nbits
  s.placeWords [BitVec.ofNat 32 v, BitVec.ofNat 32 (v / 2 ^ 32), 0]

end Sys2Proof.Machine
end

