-- ==== Sys2Proof/Certificates/Slice0/Obligations.lean ====
section
/-! DEFINITION. The statements for the provers: each `Obligations.<Name>` is a proposition about the model, with the
rules of the manual that it rests on. `Sys2Proof.Claim` holds the words they are written in. -/

namespace Sys2Proof.Claim

open Sys2Proof Sys2Proof.Machine

/-! ## An instruction that executes -/

/-- The fragment `f` of warp `w`, block `b` and grid `g` executes, its group has no chain fault (R78), and no uncorrectable
error of a register awaits its instruction (R348). -/
structure Runs (s : State) (f : Frag) (w : Warp) (b : Block) (g : Grid) : Prop where
  cur : s.current? = some (f, w, b, g)
  noChainFault : s.ctl.chainFault = false
  noError : s.ctl.consuming = none

/-- The kernel of the block has these vector registers (R81). -/
def HasV (b : Block) (rs : List (BitVec 6)) : Prop := ∀ r ∈ rs, r.toNat < b.kernel.vreg

/-- The kernel of the block has these uniform registers; s63 is always legal (R81). -/
def HasU (b : Block) (rs : List (BitVec 6)) : Prop := ∀ r ∈ rs, r = 63#6 ∨ r.toNat < b.kernel.sreg

/-- The lanes that RETT .subst named take the values of their threads' %tsub into the destination (R330). -/
def supplied (w : Warp) (f : Frag) (dst : Dst) (f' : Frag) : Frag :=
  let tsub := fun l => match w.threads.toList.getD l none with | some t => t.tsub | none => 0#32
  match f.subst, dst with
  | some m, .vec d _ => f'.setV d m tsub
  | some m, .pred d => f'.setP d m (maskOf (fun l => bit (tsub l) 0))
  | _, _ => f'

/-- The state `s` with the fragment's registers as in `f'`, its instruction retired and its program counter
at `pc`; what the fragment kept while its instruction waited is gone. -/
def retired (s : State) (w : Warp) (f : Frag) (dst : Dst) (f' : Frag) (pc : DWord) : State :=
  (s.setFrag { supplied w f dst f' with
    pc, subst := none, arrived := none, replies := [], kept := [], relSent := false, relPaid := [], emptyWait := 0, run := .ready }).markRetired

/-- The program counter after `n` words (R73). -/
def onward (f : Frag) (n : Nat) : DWord := f.pc + BitVec.ofNat 64 (4 * n)

/-! ## Vector integer instructions (07 R118 to R126, R130) -/

def smaller (sg : Bool) (x y : Word) : Word :=
  if sg then (if x.toInt ≤ y.toInt then x else y) else (if x.toNat ≤ y.toNat then x else y)

def larger (sg : Bool) (x y : Word) : Word :=
  if sg then (if x.toInt ≤ y.toInt then y else x) else (if x.toNat ≤ y.toNat then y else x)

/-- The top bit of the field of R121. -/
def fieldTop (pos : BitVec 5) (len : BitVec 6) : Nat := min (pos.toNat + len.toNat) 32 - 1

/-- Bit `i` of a BFX result: the field, then its sign or zeros. -/
def bfxBit (pos : BitVec 5) (len : BitVec 6) (sg : Bool) (x : Word) (i : Nat) : Bool :=
  let top := fieldTop pos len
  if pos.toNat + i ≤ top then x.getLsbD (pos.toNat + i) else sg && x.getLsbD top

/-- Bit `i` of a BFI result: `y` from its bit 0 on in the field, `x` elsewhere. -/
def bfiBit (pos : BitVec 5) (len : BitVec 6) (x y : Word) (i : Nat) : Bool :=
  if pos.toNat ≤ i ∧ i ≤ fieldTop pos len then y.getLsbD (i - pos.toNat) else x.getLsbD i

/-- A product of byte `j` of two words in the signedness of each (R126). -/
def byteProduct (sa sb : Bool) (x y : Word) (j : Nat) : Int :=
  let v := fun (sg : Bool) (z : Word) => let b : Byte := z.extractLsb' (8 * j) 8; if sg then b.toInt else (b.toNat : Int)
  v sa x * v sb y

/-- An instruction whose result goes to V[d] in the active lanes: its guard, its destination, the vector
registers it reads, its words, and the result of a lane. -/
structure VecRow where
  h : Head
  d : BitVec 6
  reads : List (BitVec 6)
  words : Nat
  result : Frag → Nat → Word

/-- The results of R118, R119, R120, R122, R125, R126 and R130. -/
inductive IntegerRow : Instr → VecRow → Prop where
  | iadd h d a b : IntegerRow (.iadd h d a b)
      ⟨h, d, [a, b], 1, fun f l => BitVec.ofNat 32 ((f.getV a l).toNat + (f.getV b l).toNat)⟩
  | isub h d a b : IntegerRow (.isub h d a b)
      ⟨h, d, [a, b], 1, fun f l => BitVec.ofInt 32 ((f.getV a l).toNat - (f.getV b l).toNat)⟩
  | imul h d a b : IntegerRow (.imul h d a b)
      ⟨h, d, [a, b], 1, fun f l => BitVec.ofNat 32 ((f.getV a l).toNat * (f.getV b l).toNat)⟩
  | imulhIi h d a b : IntegerRow (.imulh h d a b .ii)
      ⟨h, d, [a, b], 1, fun f l => BitVec.ofInt 32 ((f.getV a l).toInt * (f.getV b l).toInt / 2 ^ 32)⟩
  | imulhNn h d a b : IntegerRow (.imulh h d a b .nn)
      ⟨h, d, [a, b], 1, fun f l => BitVec.ofNat 32 ((f.getV a l).toNat * (f.getV b l).toNat / 2 ^ 32)⟩
  | imulhNi h d a b : IntegerRow (.imulh h d a b .ni)
      ⟨h, d, [a, b], 1, fun f l => BitVec.ofInt 32 ((f.getV a l).toNat * (f.getV b l).toInt / 2 ^ 32)⟩
  | imin h d a b sg : IntegerRow (.imin h d a b sg)
      ⟨h, d, [a, b], 1, fun f l => smaller sg (f.getV a l) (f.getV b l)⟩
  | imax h d a b sg : IntegerRow (.imax h d a b sg)
      ⟨h, d, [a, b], 1, fun f l => larger sg (f.getV a l) (f.getV b l)⟩
  | iabs h d a : IntegerRow (.iabs h d a)
      ⟨h, d, [a], 1, fun f l => BitVec.ofNat 32 (f.getV a l).toInt.natAbs⟩
  | ishl h d a b : IntegerRow (.ishl h d a b)
      ⟨h, d, [a, b], 1, fun f l =>
      if 32 ≤ (f.getV b l).toNat then 0 else BitVec.ofNat 32 ((f.getV a l).toNat * 2 ^ (f.getV b l).toNat)⟩
  | ishr h d a b : IntegerRow (.ishr h d a b)
      ⟨h, d, [a, b], 1, fun f l =>
      if 32 ≤ (f.getV b l).toNat then 0 else BitVec.ofNat 32 ((f.getV a l).toNat / 2 ^ (f.getV b l).toNat)⟩
  | isar h d a b : IntegerRow (.isar h d a b)
      ⟨h, d, [a, b], 1, fun f l => BitVec.ofInt 32 ((f.getV a l).toInt / 2 ^ min (f.getV b l).toNat 31)⟩
  | and h d a b : IntegerRow (.and h d a b)
      ⟨h, d, [a, b], 1, fun f l => f.getV a l &&& f.getV b l⟩
  | or h d a b : IntegerRow (.or h d a b)
      ⟨h, d, [a, b], 1, fun f l => f.getV a l ||| f.getV b l⟩
  | xor h d a b : IntegerRow (.xor h d a b)
      ⟨h, d, [a, b], 1, fun f l => f.getV a l ^^^ f.getV b l⟩
  | andn h d a b : IntegerRow (.andn h d a b)
      ⟨h, d, [a, b], 1, fun f l => f.getV a l &&& ~~~(f.getV b l)⟩
  | popc h d a : IntegerRow (.popc h d a)
      ⟨h, d, [a], 1, fun f l => BitVec.ofNat 32 ((List.range 32).countP (fun i => (f.getV a l).getLsbD i))⟩
  | clz h d a : IntegerRow (.clz h d a)
      ⟨h, d, [a], 1, fun f l =>
      BitVec.ofNat 32 ((List.range 32).takeWhile (fun i => !(f.getV a l).getLsbD (31 - i))).length⟩
  | brev h d a : IntegerRow (.brev h d a)
      ⟨h, d, [a], 1, fun f l => (f.getV a l).reverse⟩
  | mov h d a : IntegerRow (.mov h d a)
      ⟨h, d, [a], 1, fun f l => f.getV a l⟩
  | imad h d a b e : IntegerRow (.imad h d a b e)
      ⟨h, d, [a, b, e], 2, fun f l =>
      BitVec.ofNat 32 ((f.getV a l).toNat * (f.getV b l).toNat + (f.getV e l).toNat)⟩
  | lea h d a b sh : IntegerRow (.lea h d a b sh)
      ⟨h, d, [a, b], 2, fun f l =>
      BitVec.ofNat 32 ((f.getV a l).toNat + (f.getV b l).toNat * 2 ^ sh.toNat)⟩
  | sel h d a b pc : IntegerRow (.sel h d a b pc)
      ⟨h, d, [a, b], 2, fun f l => if (f.getP pc).getLsbD l then f.getV a l else f.getV b l⟩
  | movi h d i : IntegerRow (.movi h d i)
      ⟨h, d, [], 1, fun _ _ => BitVec.ofInt 32 i.toInt⟩
  | iaddi h d a i : IntegerRow (.iaddi h d a i)
      ⟨h, d, [a], 1, fun f l => BitVec.ofInt 32 ((f.getV a l).toNat + i.toInt)⟩
  | limm h d i : IntegerRow (.limm h d i)
      ⟨h, d, [], 2, fun _ _ => i⟩
  | fmovi h d i : IntegerRow (.fmovi h d i)
      ⟨h, d, [], 1, fun _ _ => BitVec.ofNat 32 (Fmt.fp32.round .rne false (Fmt.e4m3.decode i.toNat)).1⟩
  | dot4i h d a b e sa sb : IntegerRow (.dot4i h d a b e sa sb)
      ⟨h, d, [a, b, e], 2, fun f l =>
      let p := byteProduct sa sb (f.getV a l) (f.getV b l)
      BitVec.ofInt 32 ((f.getV e l).toNat + p 0 + p 1 + p 2 + p 3)⟩
  | fsgn h d a m : IntegerRow (.fsgn h d a m)
      ⟨h, d, [a], 1, fun f l =>
      let x := f.getV a l
      (match m with | .abs => 0#1 | .neg => BitVec.ofBool (!x.msb) | .negabs => 1#1) ++ x.extractLsb' 0 31⟩

/-! ## Predicates (07 R123, R124, R132, R146; 08 R168) -/

/-- The comparisons of R123. -/
def holds (c : Cmp) (x y : Int) : Prop :=
  match c with
  | .eq => x = y
  | .ne => x ≠ y
  | .lt => x < y
  | .le => x ≤ y
  | .gt => x > y
  | .ge => x ≥ y

/-- The class bits of R132, read from the sign, the exponent and the fraction of the pattern. -/
def classBit (x : Word) : Nat :=
  let e := (x.extractLsb' 23 8).toNat
  let m := (x.extractLsb' 0 23).toNat
  if e = 255 then (if m = 0 then (if x.msb then 0 else 7) else if x.getLsbD 22 then 9 else 8)
  else if e = 0 then (if m = 0 then (if x.msb then 3 else 4) else if x.msb then 2 else 5)
  else if x.msb then 1 else 6

/-- An instruction whose result goes to P[d] in the active lanes. -/
structure PredRow where
  h : Head
  d : BitVec 3
  readsV : List (BitVec 6)
  readsU : List (BitVec 6)
  words : Nat
  /-- Lane `l` of the result, from the fragment and ACTIVE. -/
  result : Frag → Mask → Nat → Prop

inductive PredicateRow : Instr → PredRow → Prop where
  | plogAnd h d a b : PredicateRow (.plog h d a b 0) ⟨h, d, [], [], 1, fun f _ l => (f.getP a).getLsbD l ∧ (f.getP b).getLsbD l⟩
  | plogOr h d a b : PredicateRow (.plog h d a b 1) ⟨h, d, [], [], 1, fun f _ l => (f.getP a).getLsbD l ∨ (f.getP b).getLsbD l⟩
  | plogXor h d a b : PredicateRow (.plog h d a b 2)
      ⟨h, d, [], [], 1, fun f _ l => ¬((f.getP a).getLsbD l ↔ (f.getP b).getLsbD l)⟩
  | plogAndn h d a b : PredicateRow (.plog h d a b 3) ⟨h, d, [], [], 1, fun f _ l => (f.getP a).getLsbD l ∧ ¬(f.getP b).getLsbD l⟩
  | icmpI h d a b c : PredicateRow (.icmp h d a b true c)
      ⟨h, d, [a, b], [], 2, fun f _ l => holds c (f.getV a l).toInt (f.getV b l).toInt⟩
  | icmpN h d a b c : PredicateRow (.icmp h d a b false c)
      ⟨h, d, [a, b], [], 2, fun f _ l => holds c (f.getV a l).toNat (f.getV b l).toNat⟩
  | fclass h d a mask : PredicateRow (.fclass h d a mask)
      ⟨h, d, [a], [], 2, fun f _ l => mask.getLsbD (classBit (f.getV a l))⟩
  | scmpI c d a b o : PredicateRow (.scmp c d a b true o)
      ⟨uni c, d, [], [a, b], 2, fun f _ _ => holds o (f.getU a).toInt (f.getU b).toInt⟩
  | scmpN c d a b o : PredicateRow (.scmp c d a b false o)
      ⟨uni c, d, [], [a, b], 2, fun f _ _ => holds o (f.getU a).toNat (f.getU b).toNat⟩
  | elect h d : PredicateRow (.elect h d) ⟨h, d, [], [], 1, fun _ act l => act.getLsbD l ∧ ∀ k < l, ¬act.getLsbD k⟩

/-! ## Uniform instructions (07 R144, R145) -/

structure UniRow where
  c : Bool
  d : BitVec 6
  reads : List (BitVec 6)
  words : Nat
  result : Frag → DWord

def smaller64 (sg : Bool) (x y : DWord) : DWord :=
  if sg then (if x.toInt ≤ y.toInt then x else y) else (if x.toNat ≤ y.toNat then x else y)

def larger64 (sg : Bool) (x y : DWord) : DWord :=
  if sg then (if x.toInt ≤ y.toInt then y else x) else (if x.toNat ≤ y.toNat then y else x)

inductive UniformRow : Instr → UniRow → Prop where
  | sadd c d a b : UniformRow (.sadd c d a b) ⟨c, d, [a, b], 1, fun f => BitVec.ofNat 64 ((f.getU a).toNat + (f.getU b).toNat)⟩
  | ssub c d a b : UniformRow (.ssub c d a b) ⟨c, d, [a, b], 1, fun f => BitVec.ofInt 64 ((f.getU a).toNat - (f.getU b).toNat)⟩
  | smul c d a b : UniformRow (.smul c d a b) ⟨c, d, [a, b], 1, fun f => BitVec.ofNat 64 ((f.getU a).toNat * (f.getU b).toNat)⟩
  | shl c d a b : UniformRow (.sshf c d a b .shl) ⟨c, d, [a, b], 1, fun f =>
      if 64 ≤ (f.getU b).toNat then 0 else BitVec.ofNat 64 ((f.getU a).toNat * 2 ^ (f.getU b).toNat)⟩
  | shr c d a b : UniformRow (.sshf c d a b .shr) ⟨c, d, [a, b], 1, fun f =>
      if 64 ≤ (f.getU b).toNat then 0 else BitVec.ofNat 64 ((f.getU a).toNat / 2 ^ (f.getU b).toNat)⟩
  | sar c d a b : UniformRow (.sshf c d a b .sar) ⟨c, d, [a, b], 1, fun f =>
      BitVec.ofInt 64 ((f.getU a).toInt / 2 ^ min (f.getU b).toNat 63)⟩
  | sand c d a b : UniformRow (.slog c d a b 0) ⟨c, d, [a, b], 1, fun f => f.getU a &&& f.getU b⟩
  | sor c d a b : UniformRow (.slog c d a b 1) ⟨c, d, [a, b], 1, fun f => f.getU a ||| f.getU b⟩
  | sxor c d a b : UniformRow (.slog c d a b 2) ⟨c, d, [a, b], 1, fun f => f.getU a ^^^ f.getU b⟩
  | sandn c d a b : UniformRow (.slog c d a b 3) ⟨c, d, [a, b], 1, fun f => f.getU a &&& ~~~(f.getU b)⟩
  | minI c d a b : UniformRow (.sminmax c d a b 0) ⟨c, d, [a, b], 1, fun f => smaller64 true (f.getU a) (f.getU b)⟩
  | maxI c d a b : UniformRow (.sminmax c d a b 1) ⟨c, d, [a, b], 1, fun f => larger64 true (f.getU a) (f.getU b)⟩
  | minN c d a b : UniformRow (.sminmax c d a b 2) ⟨c, d, [a, b], 1, fun f => smaller64 false (f.getU a) (f.getU b)⟩
  | maxN c d a b : UniformRow (.sminmax c d a b 3) ⟨c, d, [a, b], 1, fun f => larger64 false (f.getU a) (f.getU b)⟩
  | smov c d a : UniformRow (.smov c d a) ⟨c, d, [a], 1, fun f => f.getU a⟩
  | smovi c d i : UniformRow (.smovi c d i) ⟨c, d, [], 1, fun _ => BitVec.ofInt 64 i.toInt⟩
  | smad c d a b e : UniformRow (.smad c d a b e)
      ⟨c, d, [a, b, e], 2, fun f => BitVec.ofNat 64 ((f.getU a).toNat * (f.getU b).toNat + (f.getU e).toNat)⟩
  | slea c d a b sh disp : UniformRow (.slea c d a b sh disp)
      ⟨c, d, [a, b], 2, fun f => BitVec.ofInt 64 ((f.getU a).toNat + (f.getU b).toNat * 2 ^ sh.toNat + disp.toInt)⟩
  | slimmLo c d i : UniformRow (.slimm c d false i) ⟨c, d, [], 2, fun _ => BitVec.ofInt 64 i.toInt⟩
  | slimmHi c d i : UniformRow (.slimm c d true i) ⟨c, d, [], 2, fun f => BitVec.ofNat 64 (i.toNat * 2 ^ 32 + (f.getU d).toNat % 2 ^ 32)⟩

/-! ## Special registers (04 R65, R66; 06 R96; 18 R324) -/

/-- The warp- and block-scope registers by selector, as SRR reads them. -/
def specialValues (s : State) (f : Frag) (w : Warp) (b : Block) (g : Grid) : List (BitVec 12 × DWord) :=
  let n := fun (x : Nat) => BitVec.ofNat 64 x
  [(0x003, n w.ctx.toNat), (0x004, n b.index),
   (0x005, n (g.launch.bx + 2 ^ 11 * g.launch.byy + 2 ^ 22 * g.launch.bz)),
   (0x006, n (b.index / g.launch.gang)), (0x007, n (b.index % g.launch.gang)),
   (0x008, n (g.gid.queue.toNat * 2 ^ 52 + g.gid.seq.toNat)), (0x009, n g.job.toNat),
   (0x00A, n b.core), (0x00B, n (b.core / 16)), (0x00C, n Config.deviceId.toNat), (0x010, n s.cycle), (0x011, n s.time),
   (0x020, n f.fflags.toNat), (0x021, n f.mflags.toNat), (0x030, w.tvec), (0x031, w.frame.tpc), (0x032, w.frame.tcause),
   (0x033, w.frame.tmask), (0x034, w.frame.taddr), (0x035, w.frame.tinfo), (0x036, w.frame.tparent), (0x037, w.frame.tsib),
   (0x040, n (if b.preq.isSome then 1 else 0)), (0x041, n b.pdl), (0x050, n w.dctl.toNat), (0x060, n b.pantimer.toNat),
   (0x071, w.mstfail)]

/-- The lane-scope registers by selector. -/
def laneValues (t : Thread) (l : Nat) : List (BitVec 12 × Word) :=
  [(0x000, BitVec.ofNat 32 t.tid), (0x001, BitVec.ofNat 32 l), (0x002, t.vtid), (0x022, t.xen), (0x038, t.tsub),
   (0x070, BitVec.ofNat 32 t.tlsbase.toNat)]

/-- A trap that an instruction without a destination takes, with nothing in %taddr and %tinfo. -/
def plainTrap (s : State) (f : Frag) (w : Warp) (b : Block) (cause : Cause) (lanes : Mask) : State :=
  s.takeTrap f w b { cause, lanes, addr := 0, info := 0 }

/-! ## Floating point: results, flags and traps (02 R25 to R31; 07 R127 to R141) -/

/-- The NV, DZ, OF, UF and NX that a lane raises and its %xen enables (R28). -/
def enabled (w : Warp) (l : Nat) (fl : Flags) (e : Nat) : Bool :=
  match w.threads.toList.getD l none with
  | some t => fl.getLsbD e && t.xen.getLsbD e
  | none => false

/-- No active lane raises an exception with its %xen bit set, or the fragment is in handler mode, where
arithmetic never traps (R327). -/
def Quiet (w : Warp) (f : Frag) (act : Mask) (fl : Nat → Flags) : Prop :=
  f.handler = true ∨ ∀ l e, e ≤ 4 → act.getLsbD l → enabled w l (fl l) e = false

/-- `fl` joined over the active lanes. -/
def joined (act : Mask) (fl : Nat → Flags) : Flags := (List.range 32).foldl (fun m l => if act.getLsbD l then m ||| fl l else m) 0

/-- A rounding field of two bits (R25). -/
def rm (m : BitVec 2) : Rm := [Rm.rne, .rz, .rdn, .rup].getD m.toNat .rne

/-- An instruction whose lanes give a value and flags. -/
structure FpRow where
  h : Head
  d : BitVec 6
  reads : List (BitVec 6)
  words : Nat
  /-- The result of a lane from ACTIVE, and the flags it raises. -/
  result : Frag → Mask → Nat → Nat × Flags

/-- The value of half `i` of a word in BF16 or FP16. -/
def half (f16 : Bool) (x : Word) (i : Nat) : Fv :=
  (if f16 then Fmt.fp16 else Fmt.bf16).decode (x.toNat / 65536 ^ i % 65536)

/-- Both halves of a result, and the OR of their flags. -/
def halves (f16 : Bool) (mode : Rm) (v : Nat → Fv) : Nat × Flags :=
  let r := fun i => (if f16 then Fmt.fp16 else Fmt.bf16).round mode false (v i)
  ((r 0).1 % 65536 + 65536 * ((r 1).1 % 65536), (r 0).2 ||| (r 1).2)

/-- Both halves of HMIN2 or HMAX2. -/
def halfExtremes (f16 mx : Bool) (x y : Word) : Nat × Flags :=
  let r := fun i => (if f16 then Fmt.fp16 else Fmt.bf16).minmax mx (x.toNat / 65536 ^ i % 65536) (y.toNat / 65536 ^ i % 65536)
  ((r 0).1 % 65536 + 65536 * ((r 1).1 % 65536), (r 0).2 ||| (r 1).2)

/-- FP32 rounding of an exact value in a mode. -/
def rounded (m : BitVec 2) (v : Fv) : Nat × Flags := Fmt.fp32.round (rm m) false v

def signed (n : Bool) (v : Fv) : Fv := if n then v.neg else v

/-! ### Values as rational numbers (02 R14 to R27) -/

/-- A finite value, and its magnitude. -/
def val : Fv → ℚ
  | .fin s n e => (if s then -1 else 1) * (n * 2 ^ e)
  | _ => 0
def mag : Fv → ℚ
  | .fin _ n e => n * 2 ^ e
  | _ => 0

/-- The mode rounds a value of this sign towards zero, or away from it. -/
def Inward (m : Rm) (neg : Bool) : Prop := m = .rz ∨ (m = .rdn ∧ neg = false) ∨ (m = .rup ∧ neg = true)
def Outward (m : Rm) (neg : Bool) : Prop := (m = .rdn ∧ neg = true) ∨ (m = .rup ∧ neg = false)

/-- Half the step between the largest finite numbers of a format. -/
def halfStep (k : Fmt) : ℚ := 2 ^ ((2 ^ k.ebits - (if k.fn then 1 else 2) - k.bias - k.fbits - 1 : Int))

/-- The magnitude rounds beyond the largest finite one (R26). -/
def TooLarge (k : Fmt) (m : Rm) (neg : Bool) (a : ℚ) : Prop :=
  let most := mag (k.decode k.maxFinite)
  (Outward m neg ∧ most < a) ∨ (Inward m neg ∧ most + 2 * halfStep k ≤ a) ∨ (m = .rna ∧ most + halfStep k ≤ a)
    ∨ (m = .rne ∧ if k.fn then most + halfStep k < a else most + halfStep k ≤ a)

/-- Of the finite magnitudes of the format, that of pattern `x` is the one to which the mode rounds `a` (R25). -/
def Rounds (k : Fmt) (m : Rm) (neg : Bool) (a : ℚ) (x : Nat) : Prop :=
  let r := mag (k.decode x)
  x ≤ k.maxFinite
  ∧ (Inward m neg → r ≤ a ∧ ∀ y, y ≤ k.maxFinite → mag (k.decode y) ≤ a → mag (k.decode y) ≤ r)
  ∧ (Outward m neg → a ≤ r ∧ ∀ y, y ≤ k.maxFinite → a ≤ mag (k.decode y) → r ≤ mag (k.decode y))
  ∧ (m = .rne ∨ m = .rna → ∀ y, y ≤ k.maxFinite → |r - a| ≤ |mag (k.decode y) - a|)
  ∧ (m = .rne → ∀ y, y ≤ k.maxFinite → y ≠ x → |r - a| = |mag (k.decode y) - a| → x % 2 = 0)
  ∧ (m = .rna → ∀ y, y ≤ k.maxFinite → |r - a| = |mag (k.decode y) - a| → mag (k.decode y) ≤ r)

/-- A zero sum is negative when all its terms are, positive when all are positive, and else negative under RDN alone (R17). -/
def ZeroSign (m : Rm) (ts : List Fv) (s : Bool) : Prop :=
  s = true ↔ (ts ≠ [] ∧ ∀ x ∈ ts, x.isNeg = true) ∨ m = .rdn ∧ ∃ x ∈ ts, x.isNeg = true

/-- Sums of any number of terms (R16, R17, R29, R31). -/
def SumsExact : Prop :=
  ∀ (m : Rm) (ts : List Fv),
    let clash := .inf true ∈ ts ∧ .inf false ∈ ts
    ((∃ x ∈ ts, x.isNan = true) ∨ clash → sumFv m ts = .nan (ts.any Fv.isSnan || decide clash))
    ∧ (∀ s, (∀ x ∈ ts, x.isNan = false) → .inf s ∈ ts → .inf (!s) ∉ ts → sumFv m ts = .inf s)
    ∧ ((∀ x ∈ ts, ∃ s n e, x = .fin s n e) → ∃ s n e, sumFv m ts = .fin s n e ∧ val (.fin s n e) = (ts.map val).sum ∧ (n = 0 → ZeroSign m ts s))

/-- Products of two values (R16, R29). -/
def ProductsExact : Prop :=
  ∀ x y : Fv,
    (x.isNan = true ∨ y.isNan = true → x.mul y = .nan (x.isSnan || y.isSnan))
    ∧ (∀ s, x = .inf s → y.isNan = false → x.mul y = (if y.isZero then .nan true else .inf (xor s y.isNeg)) ∧ y.mul x = x.mul y)
    ∧ (∀ s n e t k d, x = .fin s n e → y = .fin t k d → ∃ n' e', x.mul y = .fin (xor s t) n' e' ∧ val (.fin (xor s t) n' e') = val x * val y)

/-- The scaling of FSCL, by a power of two between −1000 and 1000 (R128). -/
def ScalingExact : Prop :=
  (∀ (x : Fv) (k : ℤ), (∀ s n e, x ≠ .fin s n e) → x.scale k = x)
  ∧ (∀ s n e (k : ℤ), ∃ e', (Fv.fin s n e).scale k = .fin s n e' ∧ val (.fin s n e') = val (.fin s n e) * 2 ^ k)
  ∧ (∀ y : Word, clampScale y = if y.toInt < -1000 then -1000 else if 1000 < y.toInt then 1000 else y.toInt)

/-- The smaller (`mx` false) or the larger of two patterns, −0 below +0, with NaNs by R17. -/
def ExtremesExact : Prop :=
  ∀ k ∈ [Fmt.fp32, .bf16, .fp16], ∀ (mx : Bool) (x y : Nat), x < 2 ^ k.width → y < 2 ^ k.width →
    let a := k.decode x
    let b := k.decode y
    let r := k.minmax mx x y
    r.2 = (if a.isSnan || b.isSnan then Flags.nv else 0)
    ∧ (a.isNan = true → b.isNan = true → r.1 = k.canonicalNan)
    ∧ (a.isNan = true → b.isNan = false → r.1 = y) ∧ (a.isNan = false → b.isNan = true → r.1 = x)
    ∧ (a.isNan = false → b.isNan = false → (r.1 = x ∨ r.1 = y) ∧ ∀ z ∈ [x, y],
        let below := fun (u v : Nat) => (k.decode u).lt (k.decode v) = true
          ∨ (k.decode u).lt (k.decode v) = false ∧ (k.decode v).lt (k.decode u) = false ∧ (k.decode u).isNeg = true ∧ (k.decode v).isNeg = false
        if mx then ¬below r.1 z else ¬below z r.1)

/-- A real magnitude under a sign rounds to this FP32 pattern under RNE, with these flags (R25, R26). -/
def RealRounds (neg : Bool) (a : ℝ) (r : Nat × Flags) : Prop :=
  let sign := Fmt.fp32.signBit neg
  let away := fun (y : Nat) => |((mag (Fmt.fp32.decode y) : ℚ) : ℝ) - a|
  (2 ^ 128 - 2 ^ 103 ≤ a ∧ r = (sign + 0x7F800000, Flags.of ||| Flags.nx))
  ∨ (a < 2 ^ 128 - 2 ^ 103 ∧ ∃ x : Nat, x ≤ 0x7F7FFFFF ∧ r.1 = sign + x
      ∧ (∀ y : Nat, y ≤ 0x7F7FFFFF → away x ≤ away y ∧ (y ≠ x → away x = away y → x % 2 = 0))
      ∧ (away x = 0 → r.2 = 0) ∧ (away x ≠ 0 → a < (2 : ℝ) ^ (-126 : ℤ) → r.2 = Flags.uf ||| Flags.nx)
      ∧ (away x ≠ 0 → (2 : ℝ) ^ (-126 : ℤ) ≤ a → r.2 = Flags.nx))

/-- A special function's result for the exact value `v`: its rounding wherever all reals near it round alike; and always the rounding of
a real near it (R30; log 12). -/
def Approaches (v : ℝ) (r : Nat × Flags) : Prop :=
  let neg := fun (b : Bool) => (b = true ↔ v < 0)
  (∀ b q, neg b → (∀ y : ℝ, |y - (|v|)| ≤ |v| / 2 ^ 180 → RealRounds b y q) → r = q)
  ∧ ∃ b, neg b ∧ ∃ y : ℝ, |y - (|v|)| ≤ |v| / 2 ^ 40 ∧ RealRounds b y r

/-- The integer to which the mode rounds (R25, R27). -/
def IntRounds (m : Rm) (v : ℚ) (r : ℤ) : Prop :=
  match m with
  | .rdn => (r : ℚ) ≤ v ∧ v < r + 1
  | .rup => v ≤ r ∧ (r : ℚ) - 1 < v
  | .rz => if 0 ≤ v then (r : ℚ) ≤ v ∧ v < r + 1 else v ≤ r ∧ (r : ℚ) - 1 < v
  | .rne => |v - r| ≤ 1 / 2 ∧ (|v - r| = 1 / 2 → r % 2 = 0)
  | .rna => |v - r| ≤ 1 / 2 ∧ (|v - r| = 1 / 2 → |v| ≤ |(r : ℚ)|)

/-- An integer in the lane of a destination, with the upper bits of R135. -/
def laneOf (dst : BitVec 4) (v : ℤ) : Nat :=
  if dst = 6 then ((BitVec.ofInt 8 v).signExtend 32).toNat else if dst = 7 then (BitVec.ofInt 8 v).toNat else (BitVec.ofInt 32 v).toNat

/-- The ends of an integer destination, and the integer that a source holds. -/
def leastOf (c : BitVec 4) : ℤ := if c = 6 then -128 else if c = 8 then -2 ^ 31 else 0
def mostOf (c : BitVec 4) : ℤ := if c = 6 then 127 else if c = 7 then 255 else if c = 8 then 2 ^ 31 - 1 else 2 ^ 32 - 1
def integerOf (c : BitVec 4) (x : Word) : ℤ :=
  if c = 6 then (x.setWidth 8).toInt else if c = 7 then (x.toNat % 256 : Nat) else if c = 8 then x.toInt else x.toNat

/-- A word is the FP32 pattern of a value of another format, widened exactly (R15, R16). -/
def Widened (w : Nat) (v : Fv) : Prop :=
  (v.isNan = true → w = 0x7FC00000) ∧ (∀ s, v = .inf s → w = if s then 0xFF800000 else 0x7F800000)
  ∧ (∀ s n e, v = .fin s n e → w < 2 ^ 32 ∧ ∃ n' e', Fmt.fp32.decode w = .fin s n' e' ∧ mag (.fin s n' e') = mag v)

/-- The value of a 4-bit code of a type (R21). -/
def codeValue (type : BitVec 2) (c : Nat) : ℚ :=
  if type = 0 then (c : ℚ) - 15 / 2
  else (if 8 ≤ c then -1 else 1) * (([[], [0, 1 / 2, 1, 3 / 2, 2, 3, 4, 6], [0, 1 / 4, 1 / 2, 1, 2, 4, 8, 16], [0, 1, 2, 3, 4, 8, 16, 32]] : List (List ℚ)).getD
    type.toNat []).getD (c % 8) 0

/-- The largest magnitude of a type. -/
def codeMost (type : BitVec 2) : ℚ := ([15 / 2, 6, 16, 32] : List ℚ).getD type.toNat 0

/-- The scale exponent takes every value of a block (R140). -/
def Covers (type : BitVec 2) (xs : List Fv) (e : Nat) : Prop :=
  ∀ x ∈ xs, (∀ s, x ≠ .inf s) ∧ mag x ≤ codeMost type * 2 ^ ((e : ℤ) - 31)

/-- 07 R127 to R129, R133, R134, R136 to R138, R140, R141. -/
inductive FloatRow : Instr → FpRow → Prop where
  | fadd h d a b m : FloatRow (.fadd h d a b m)
      ⟨h, d, [a, b], 1, fun f _ l => rounded m (sumFv (rm m) [fp32 (f.getV a l), fp32 (f.getV b l)])⟩
  | fsub h d a b m : FloatRow (.fsub h d a b m)
      ⟨h, d, [a, b], 1, fun f _ l => rounded m (sumFv (rm m) [fp32 (f.getV a l), (fp32 (f.getV b l)).neg])⟩
  | fmul h d a b m : FloatRow (.fmul h d a b m)
      ⟨h, d, [a, b], 1, fun f _ l => rounded m ((fp32 (f.getV a l)).mul (fp32 (f.getV b l)))⟩
  | fmac h d a b m : FloatRow (.fmac h d a b m)
      ⟨h, d, [a, b], 1, fun f _ l => rounded m (sumFv (rm m) [(fp32 (f.getV a l)).mul (fp32 (f.getV b l)), fp32 (f.getV d l)])⟩
  | ffma h d a b e m np nc : FloatRow (.ffma h d a b e m np nc)
      ⟨h, d, [a, b, e], 2, fun f _ l => rounded m (sumFv (rm m)
        [(signed np (fp32 (f.getV a l))).mul (fp32 (f.getV b l)), signed nc (fp32 (f.getV e l))])⟩
  | fmin h d a b : FloatRow (.fmin h d a b)
      ⟨h, d, [a, b], 1, fun f _ l => Fmt.fp32.minmax false (f.getV a l).toNat (f.getV b l).toNat⟩
  | fmax h d a b : FloatRow (.fmax h d a b)
      ⟨h, d, [a, b], 1, fun f _ l => Fmt.fp32.minmax true (f.getV a l).toNat (f.getV b l).toNat⟩
  | frnd h d a m : FloatRow (.frnd h d a m) ⟨h, d, [a], 1, fun f _ l => fpIntegral (rm m) (f.getV a l)⟩
  | fscl h d a b m : FloatRow (.fscl h d a b m)
      ⟨h, d, [a, b], 1, fun f _ l => rounded m ((fp32 (f.getV a l)).scale (clampScale (f.getV b l)))⟩
  | hadd2 h d a b t : FloatRow (.hadd2 h d a b t)
      ⟨h, d, [a, b], 1, fun f _ l => halves t .rne (fun i => sumFv .rne [half t (f.getV a l) i, half t (f.getV b l) i])⟩
  | hmul2 h d a b t : FloatRow (.hmul2 h d a b t)
      ⟨h, d, [a, b], 1, fun f _ l => halves t .rne (fun i => (half t (f.getV a l) i).mul (half t (f.getV b l) i))⟩
  | hfma2 h d a b e m t : FloatRow (.hfma2 h d a b e m t)
      ⟨h, d, [a, b, e], 2, fun f _ l => halves t (rm m) (fun i =>
        sumFv (rm m) [(half t (f.getV a l) i).mul (half t (f.getV b l) i), half t (f.getV e l) i])⟩
  | hmin2 h d a b t : FloatRow (.hmin2 h d a b t) ⟨h, d, [a, b], 1, fun f _ l => halfExtremes t false (f.getV a l) (f.getV b l)⟩
  | hmax2 h d a b t : FloatRow (.hmax2 h d a b t) ⟨h, d, [a, b], 1, fun f _ l => halfExtremes t true (f.getV a l) (f.getV b l)⟩
  | dot2h h d a b e m t : FloatRow (.dot2h h d a b e m t)
      ⟨h, d, [a, b, e], 2, fun f _ l => rounded m (sumFv (rm m)
        [(half t (f.getV a l) 0).mul (half t (f.getV b l) 0), (half t (f.getV a l) 1).mul (half t (f.getV b l) 1), fp32 (f.getV e l)])⟩
  | cvt h d a src dst mode sat : FloatRow (.cvt h d a src dst mode sat)
      ⟨h, d, [a], 2, fun f _ l => convert src dst (rmOf mode.toNat) sat (f.getV a l)⟩
  | cvtp h d a b dst mode sat hi : FloatRow (.cvtp h d a b dst mode sat hi)
      ⟨h, d, [a, b], 2, fun f _ l => packPair dst (rmOf mode.toNat) sat hi (f.getV a l) (f.getV b l) (f.getV d l)⟩
  | cvtu h d a src idx : FloatRow (.cvtu h d a src idx) ⟨h, d, [a], 2, fun f _ l => unpackElement src idx (f.getV a l)⟩
  | qenc h d a type q16 : FloatRow (.qenc h d a type q16)
      ⟨h, d, [a], 2, fun f act l =>
        let block := (List.range 32).filter (fun i => act.getLsbD i && (!q16 || i / 16 == l / 16))
        let e := blockScale type (block.map (fun i => fp32 (f.getV a i)))
        let r := encodeLane type e (fp32 (f.getV a l))
        (type.toNat * 2 ^ 14 + e * 2 ^ 8 + r.1, r.2)⟩
  | rcp h d a : FloatRow (.rcp h d a) ⟨h, d, [a], 1, fun f _ l => sfuRcp (f.getV a l)⟩
  | rsq h d a : FloatRow (.rsq h d a) ⟨h, d, [a], 1, fun f _ l => sfuRsq (f.getV a l)⟩
  | sqrt h d a : FloatRow (.sqrt h d a) ⟨h, d, [a], 1, fun f _ l => sfuSqrt (f.getV a l)⟩
  | exp2 h d a : FloatRow (.exp2 h d a) ⟨h, d, [a], 1, fun f _ l => sfuExp2 (f.getV a l)⟩
  | log2 h d a : FloatRow (.log2 h d a) ⟨h, d, [a], 1, fun f _ l => sfuLog2 (f.getV a l)⟩
  | sinp h d a : FloatRow (.sinp h d a) ⟨h, d, [a], 1, fun f _ l => sfuSinp (f.getV a l)⟩
  | cosp h d a : FloatRow (.cosp h d a) ⟨h, d, [a], 1, fun f _ l => sfuCosp (f.getV a l)⟩
  | tanh h d a : FloatRow (.tanh h d a) ⟨h, d, [a], 1, fun f _ l => sfuTanh (f.getV a l)⟩

/-- The priority order of R28, as bits of the flags. -/
def fpCause : Nat → Cause
  | 4 => .fpInvalid
  | 3 => .fpDivzero
  | 2 => .fpOverflow
  | 1 => .fpUnderflow
  | _ => .fpInexact

/-! ## Cross-lane instructions (08 R160 to R168) -/

/-- The members that hold a live thread of another fragment. -/
def Absent (w : Warp) (f : Frag) (m : Mask) (l : Nat) : Prop :=
  m.getLsbD l ∧ ¬f.mask.getLsbD l ∧ (w.threads.toList.getD l none).isSome

/-- The member mask (R160). -/
def memberMask (f : Frag) (mm : Bool) (e : BitVec 6) : Mask := if mm then (f.getU e).setWidth 32 else f.mask

/-- The instruction goes on: it is lenient, or no member is absent. -/
def Present (w : Warp) (f : Frag) (mm ln : Bool) (e : BitVec 6) : Prop :=
  ln = true ∨ ∀ l, ¬Absent w f (memberMask f mm e) l

/-- The values that the contributors among `among` give, by ascending vlane (R160). -/
def given (f : Frag) (act m : Mask) (a : BitVec 6) (among : Nat → Bool) : List Word :=
  ((List.range 32).filter (fun l => m.getLsbD l && act.getLsbD l && among l)).map (fun l => f.getV a l)

/-- Whether some member among `among` gives the identity. -/
def someIdle (act m : Mask) (among : Nat → Bool) : Bool :=
  (List.range 32).any (fun l => m.getLsbD l && !act.getLsbD l && among l)

/-- What source vlane `j` gives to SHFL (R163). -/
def shuffled (f : Frag) (act m : Mask) (a : BitVec 6) (j : Nat) : Word :=
  if j < 32 ∧ m.getLsbD j ∧ act.getLsbD j then f.getV a j else 0

/-- V[d][l] of SHFL with segment width `n`, by the tables of R162 and R163. -/
def shflLane (w : Warp) (f : Frag) (act m : Mask) (a : BitVec 6) (mode : ShflMode) (edge : Edge) (n l b : Nat) : Word :=
  let q := l / n * n
  let out := fun (j : Nat) =>
    match edge with
    | .keep => f.getV a l
    | .zero => 0
    | .wrap => shuffled f act m a j
  match mode with
  | .idx => shuffled f act m a (q + b % n)
  | .xor => shuffled f act m a (q + ((l % n) ^^^ (b % n)))
  | .up => if n ≤ b ∨ l < q + b then out (q + (((l - q : Nat) : Int) - b).emod n |>.toNat) else shuffled f act m a (l - b)
  | .down => if n ≤ b ∨ q + n ≤ l + b then out (q + (l - q + b) % n) else shuffled f act m a (l + b)
  | .tid =>
      match (List.range 32).find? (fun j => match w.threads.toList.getD j none with | some t => t.tid == b | none => false) with
      | some j => shuffled f act m a j
      | none => 0

/-! ## Control transfer (05 R74, R79; 06 R99, R100; 08 R149 to R156; 14 R289) -/

/-- A packet VA of the kernel: a legal target of a control transfer (R73, R74). -/
def IsPacket (k : Kernel) (t : DWord) : Prop := ∃ n, n < k.npkt ∧ t.toNat = k.va.toNat + 64 + 12 * n

/-- The lanes of ACTIVE whose target is `t`. -/
def lanesFor (act : Mask) (target : Nat → DWord) (t : DWord) : Mask := maskOf (fun l => act.getLsbD l && target l == t)

/-- The fragment that splits off `f` with some lanes and a place: a clone of its registers and flags (R99, R100).
Its name is the model's own. -/
def clone (s : State) (f : Frag) (lanes : Mask) (pc : DWord) : Frag :=
  { f with id := s.ctl.nextId, pc, mask := lanes, run := .ready, isSplit := true, splitFrom := BitVec.ofNat 5 (Mask.lowest f.mask),
           dispatched := s.cycle, subst := none, arrived := none, replies := [], kept := [], relSent := false, relPaid := [] }

/-- The state with that fragment; it shares the stores that `f` has made and that its block still holds. -/
def forked (s : State) (f : Frag) (b : Block) (lanes : Mask) (pc : DWord) : State :=
  let own := fun (e : Entry) => if e.frags.contains f.id then { e with frags := e.frags ++ [s.ctl.nextId] } else e
  { s with
    ctl := { s.ctl with nextId := s.ctl.nextId + 1 }
    work := { s.work with
      frags := s.work.frags ++ [clone s f lanes pc]
      blocks := s.work.blocks.map (fun x => if x.id == b.id then { x with fsb := x.fsb.map own, bsb := x.bsb.map own, wire := x.wire.map own } else x) } }

/-- The state after the lanes of ACTIVE go to their targets, listed in `order`: other lanes stay in the fragment at
the next slot; with none left, the fragment itself goes to the first target (R149). -/
def transferred (s : State) (w : Warp) (f : Frag) (b : Block) (act : Mask) (target : Nat → DWord) (order : List DWord) (words : Nat) : State :=
  let rest := f.mask &&& ~~~act
  let fork := fun (ts : List DWord) => ts.foldl (fun s t => forked s f b (lanesFor act target t) t) s
  match order with
  | [] => retired s w f .none f (onward f words)
  | t :: more =>
      if rest = 0 then retired (fork more) w f .none { f with mask := lanesFor act target t } t
      else retired (fork (t :: more)) w f .none { f with mask := rest } (onward f words)

/-- `order` lists the targets of the active lanes, each once, ascending. -/
def Lists (act : Mask) (target : Nat → DWord) (order : List DWord) : Prop :=
  order.Pairwise (fun x y => x.toNat < y.toNat) ∧ ∀ t, t ∈ order ↔ ∃ l, l < 32 ∧ act.getLsbD l ∧ target l = t

/-- In handler mode the fragment may not split (R327). -/
def OneWay (f : Frag) (act : Mask) (order : List DWord) : Prop :=
  f.handler = true → order.length + (if f.mask &&& ~~~act = 0 then 0 else 1) ≤ 1

/-- The cause of a target that is no packet of the kernel: outside the code, or inside it between packets (R74). -/
def BadTarget (k : Kernel) (t : DWord) (c : Cause) : Prop :=
  let inside := k.va.toNat + 64 ≤ t.toNat ∧ t.toNat < k.va.toNat + 64 + 12 * k.npkt
  c = .illegalOp ∧ ¬inside ∨ c = .misaligned ∧ inside ∧ ¬IsPacket k t

/-- The trap of targets some of which are bad: that of the lowest bad one, for the lanes whose targets are bad in the same way (R149; log 80). -/
structure Astray (k : Kernel) (act : Mask) (target : Nat → DWord) (info : DWord) (t : TrapInfo) : Prop where
  some' : ∃ l, l < 32 ∧ act.getLsbD l ∧ target l = t.addr
  bad : BadTarget k t.addr t.cause
  lowest : ∀ l c, l < 32 → act.getLsbD l → BadTarget k (target l) c → t.addr.toNat ≤ (target l).toNat
  lanes : ∀ l, l < 32 → (t.lanes.getLsbD l = true ↔ act.getLsbD l ∧ BadTarget k (target l) t.cause)
  info : t.info = info

/-- A transfer without a return address: its guard, its words, the lanes that go, their targets. -/
structure JumpRow where
  h : Head
  words : Nat
  readsV : List (BitVec 6)
  readsU : List (BitVec 6)
  /-- Whether the lanes of ACTIVE go at all. -/
  taken : State → Frag → Bool
  target : Frag → Kernel → Nat → DWord

def ofs (f : Frag) (k : Kernel) (o : BitVec 20) : DWord := k.packet f.pc + BitVec.ofInt 64 (12 * o.toInt)

def indirect (f : Frag) (a b : BitVec 6) (ix : Bool) (l : Nat) : DWord :=
  BitVec.ofNat 64 ((f.getU a).toNat + if ix then (f.getV b l).toNat else 0)

inductive Jump : Instr → JumpRow → Prop where
  | bra h o : Jump (.bra h o) ⟨h, 1, [], [], fun _ _ => true, fun f k _ => ofs f k o⟩
  | jmpi h a b ix : Jump (.jmpi h a b ix) ⟨h, 1, if ix then [b] else [], [a], fun _ _ => true, fun f _ l => indirect f a b ix l⟩
  | balw c a b o : Jump (.balw c a b o)
      ⟨uni c, 2, [], [a, b], fun s f => decide ((f.getU b).toNat ≤ s.allowance ((f.getU a).setWidth 11)), fun f k _ => ofs f k o⟩

/-- A call: its targets. -/
inductive Call : Instr → Head → List (BitVec 6) → List (BitVec 6) → (Frag → Kernel → Nat → DWord) → Prop where
  | call h o : Call (.call h o) h [] [] (fun f k _ => ofs f k o)
  | calli h a b ix : Call (.calli h a b ix) h (if ix then [b] else []) [a] (fun f _ l => indirect f a b ix l)

/-- The threads of some lanes of a warp changed. -/
def withThreads (s : State) (w : Warp) (act : Mask) (g : Nat → Thread → Thread) : State :=
  s.modWarp w.id (fun x => { x with threads := Vector.ofFn (fun (l : Fin 32) =>
    if act.getLsbD l then (x.threads[l]).map (g l) else x.threads[l]) })

/-- The depth of a lane's return stack. -/
def depthOf (w : Warp) (l : Nat) : Nat := match w.threads.toList.getD l none with | some t => t.depth | none => 0

/-- The oldest entry of a lane's return stack that the hardware holds. -/
def bottomOf (w : Warp) (l : Nat) : DWord := match w.threads.toList.getD l none with | some t => t.stack.getLast?.getD 0 | none => 0

/-- The newest entry of a lane's return stack. -/
def topOf (w : Warp) (l : Nat) : DWord := match w.threads.toList.getD l none with | some t => t.stack.headD 0 | none => 0

/-! ## Memory (09 R169 to R191; 11 R219 to R232; 12 R249 to R253) -/

/-- A byte of this device. -/
def Near : Place → Prop
  | .far _ _ | .member _ _ _ _ => False
  | _ => True

/-- Every active lane's access of `n` bytes passes rows 1 to 9 of R191 at a place of this device. -/
def Resolves (s : State) (f : Frag) (w : Warp) (b : Block) (g : Grid) (act : Mask) (m : MemOp) (atomic : Bool) (n : Nat) (k : Access)
    (keyed extra : BitVec 128 → Bool) (pl : Nat → Place) : Prop :=
  ∀ l, act.getLsbD l → Near (pl l) ∧ ∃ leaf, s.check g w b m.sp l (laneAddr f m atomic l) n k keyed extra = .ok (pl l) leaf

/-- No uncorrectable error marks the bytes of an active lane (row 11 of R191). -/
def Sound (s : State) (act : Mask) (n : Nat) (pl : Nat → Place) : Prop := ∀ l, act.getLsbD l → s.isPoisoned (pl l) n = false

/-- The bytes at a place as the fragment reads them: its block's buffered stores first (R253). -/
def seenBytes (s : State) (f : Frag) (b : Block) (p : Place) (n : Nat) : List Byte :=
  (List.range n).map (fun i => (buffered b f.id (p.at i)).getD ((s.getAt (p.at i) 1).headD 0))

/-- No store to the bytes is bound to a sync object and still unseen by some reader (R260), and no REDM of a word of them is
still unseen by its own fragment (R254). -/
def Settled (s : State) (p : Place) (n : Nat) : Prop :=
  (∀ h ∈ s.sync.histories, ∀ i, i < n → h.place ≠ p.at i)
  ∧ ∀ h ∈ s.sync.hidden, ∀ i k, i < n → h.place.offset (p.at i) = some k → 4 ≤ k ∧ h.base.length ≤ k

/-- The bytes at their home. -/
def homeBytes (s : State) (p : Place) (n : Nat) : List Byte := (List.range n).map (fun i => (s.getAt (p.at i) 1).headD 0)

/-- No store of the threads in some lanes to the bytes is still held by the block or on its way (R252, R273). -/
def NoOwnStore (w : Warp) (b : Block) (m : Mask) (p : Place) (n : Nat) : Prop :=
  ∀ e ∈ b.fsb ++ b.wire ++ b.bsb, ∀ x ∈ e.pieces, (∃ t ∈ x.threads, t ∈ w.serials m) → p.overlap n x.place x.bytes.length = false

/-- What a store of a lane leaves in the fragment store buffer. -/
def lanePiece (w : Warp) (b : Block) (sp : Space) (l : Nat) (a : DWord) (p : Place) (bytes : List Byte) : Piece :=
  { threads := match w.threads.toList.getD l none with | some t => [t.serial] | none => []
    va := laneVa w sp l a, place := p, bytes
    sync := if sp = .g ∨ sp = .t then b.boundTo (laneVa w sp l a) bytes.length else none }

/-- The block holds no store in its buffers or on its way, no REDM of it is on its way, and no delivery of it is open
or unreported. -/
structure Drained (s : State) (b : Block) : Prop where
  buffers : ∀ x ∈ s.work.blocks, x.id = b.id → x.fsb = [] ∧ x.bsb = [] ∧ x.wire = []
  here : b.fsb = [] ∧ b.bsb = [] ∧ b.wire = []
  redms : ∀ r ∈ s.sync.redms, r.block ≠ b.id
  deliveries : ∀ d ∈ s.sync.deliveries, d.block ≠ b.id

/-- The threads in some lanes of the warp have read nothing early (R103). -/
def NothingEarly (s : State) (w : Warp) (m : Mask) : Prop := ∀ e ∈ s.sync.early, e.thread ∉ w.serials m

/-- An instruction that costs no flits at a destination keeps no place among those who wait for its allowance (R301). -/
def unqueued (s : State) (f : Frag) : State := s.keepWaits f.id []

/-! ## Ending, filing and spawning threads (04 R67, R68; 06 R106 to R108; 08 R157 to R159; 12 R331) -/

/-- The state after the lanes of ACTIVE leave the fragment, which goes on at `pc` with the lanes it keeps; what their
threads have read early is void, the warp goes with its last fragment, and a barrier may now have all its arrivals. -/
def departed (s : State) (w : Warp) (f : Frag) (b : Block) (act : Mask) (pc : DWord) : State :=
  let f' := { f with mask := f.mask &&& ~~~act, pc, subst := none, arrived := none, replies := [], kept := [], relSent := false,
                     relPaid := [], emptyWait := 0, run := .ready }
  ((((s.forgetEarly (w.serials act)).setFrag f').leave w.id act).checkBars b.id).markRetired

/-- What the thread of lane `l` files with `n` vector registers (R106). -/
structure IsFiled (w : Warp) (f : Frag) (n l : Nat) (x : Filed) : Prop where
  thread : w.threads.toList.getD l none = some x.thread
  vectors : x.v = (List.range n).map (fun r => f.getV (BitVec.ofNat 6 r) l)
  preds : ∀ r, r < 7 → x.p.getLsbD r = (f.getP (BitVec.ofNat 3 r)).getLsbD l
  carried : x.fresh = false

/-- `xs` holds the filings of the lanes of ACTIVE, in ascending %tid (R107). -/
structure Filings (w : Warp) (f : Frag) (act : Mask) (n : Nat) (xs : List Filed) : Prop where
  distinct : ∀ l k t u, act.getLsbD l → act.getLsbD k → l ≠ k → w.threads.toList.getD l none = some t → w.threads.toList.getD k none = some u →
    t.tid ≠ u.tid
  ascending : xs.Pairwise (fun x y => x.thread.tid < y.thread.tid)
  of_lane : ∀ x ∈ xs, ∃ l, l < 32 ∧ act.getLsbD l ∧ IsFiled w f n l x
  every_lane : ∀ l t, l < 32 → act.getLsbD l → w.threads.toList.getD l none = some t → ∃ x ∈ xs, IsFiled w f n l x

/-- A pan opened with its first filings, and the flags that they bring (R106). -/
def opened (s : State) (w : Warp) (b : Block) (key : DWord) (n m : Nat) (u : List DWord) (xs : List Filed) (fl ml : Flags) : State :=
  { s with
    ctl := { s.ctl with nextId := s.ctl.nextId + 1 }
    work := { s.work with pans := s.work.pans ++ [⟨s.ctl.nextId, b.id, key, n, m, u, w.tvec, b.pantimer.toNat, s.cycle, false, fl, ml, xs⟩] } }

/-- More filings in a pan, with the flags that they bring. -/
def joinedPan (s : State) (p : Pan) (xs : List Filed) (fl ml : Flags) : State :=
  s.setPan { p with threads := p.threads ++ xs, fflags := p.fflags ||| fl, mflags := p.mflags ||| ml }

/-- The thread of SPAWN from lane `l`: the lowest free %tid, bit 31 of %vtid set and bit 30 clear above the
parent's low bits, and the rest as at entry (R67, R68). -/
def spawned (s : State) (w : Warp) (f : Frag) (b : Block) (g : Grid) (l : Nat) : Filed :=
  let tid := lowestFree ((s.liveThreads b.id).map (·.tid)) 1024 0
  { thread := { Thread.born s.ctl.nextId tid (BitVec.ofNat 64 (g.launch.tlsva.toNat + (b.index * b.quota.qthr + tid) * g.launch.tlsb)) with
      vtid := 0x80000000 ||| ((match w.threads.toList.getD l none with | some t => t.vtid | none => 0) &&& 0x3FFFFFFF) }
    v := [f.getV 0 l, f.getV 1 l, f.getV 2 l, f.getV 3 l]
    p := 0
    fresh := true }

/-- One lane of SPAWN: the state after it and whether it succeeded (R67). The thread brings flags of 0 (R68). -/
def spawnOne (s : State) (w : Warp) (f : Frag) (b : Block) (g : Grid) (key : DWord) (l : Nat) : State × Bool :=
  let s' : State := { s with ctl := { s.ctl with nextId := s.ctl.nextId + 1 } }
  let x := spawned s w f b g l
  if b.quota.qthr ≤ (s.liveThreads b.id).length then (s, false)
  else match s.openPan? b.id key with
    | some p => if p.n = 4 ∧ p.m = 1 ∧ p.u = [f.getU 0] then (joinedPan s' p [x] 0 0, true) else (s, false)
    | none => if s.panFree b then (opened s' w b key 4 1 [f.getU 0] [x] 0 0, true) else (s, false)

/-! ## Synchronisation (12 R255 to R268; 13 R270 to R288) -/

/-- The displacement of an instruction with one address (R82). -/
def addr (f : Frag) (a : BitVec 6) (imm : BitVec 12) : DWord := BitVec.ofInt 64 ((f.getU a).toNat + imm.toInt)

/-- One access by the fragment's lowest lane passes rows 1 to 9 of R191 at place `p` of this device, and nothing
of it is in error or still unseen by a reader. -/
structure OneAccess (s : State) (f : Frag) (w : Warp) (b : Block) (g : Grid) (sp : Space) (a : DWord) (n : Nat) (k : Access)
    (extra : BitVec 128 → Bool) (p : Place) (leaf : Option Leaf) : Prop where
  passes : s.check g w b sp (Mask.lowest f.mask) a n k noKeyRule extra = .ok p leaf
  near : Near p
  sound : s.isPoisoned p n = false
  settled : Settled s p n

/-- A satisfied .full fence of some threads: nothing that they have read early counts any more (R256), and every load sees the
REDMs that it covers (R254). -/
def fenced (s : State) (b : Block) (scope : BitVec 3) (cmask : BitVec 8) (ths : List Nat) : State :=
  (s.forgetEarly ths).reveal (fun x => x.block == b.id && x.covered scope cmask ths)

/-- A fragment that parks; but for the wait for a reply, what it has read early is void (R104). -/
def parked (s : State) (w : Warp) (f : Frag) (why : Park) : State :=
  (if why = .remoteReply then s else s.forgetEarly (w.serials f.mask)).setFrag { f with run := .parked why s.cycle }

/-- BAR and GBAR: the block's or the gang's barrier they name. -/
inductive Meeting : Instr → Head → BitVec 6 → BarKey → Prop where
  | bar h rb id : Meeting (.bar h rb id) h rb (.bar id.toNat)
  | gbar h rb id : Meeting (.gbar h rb id) h rb (.gbar id.toNat)

/-- The most arrivals that a fixed count may name (R277, R278). -/
def countLimit (b : Block) (g : Grid) : BarKey → Nat
  | .bar _ => b.quota.qthr
  | .gbar _ => b.quota.qthr * g.launch.gang

/-- PENDING taken to `n` by a change: reaching 0 turns the phase (R280). -/
def turned (x : ByteBar) (n : Int) : ByteBar := if n = 0 ∧ x.pending ≠ 0 then ⟨0, x.phase + 1, 0⟩ else { x with pending := n }

/-- An arrival at a byte barrier that moves PENDING by `n`; at its least value PENDING stays (R280). -/
def arrival (x : ByteBar) (n : Int) : ByteBar :=
  if x.pending = -2 ^ 63 then { x with arrivals := x.arrivals + 1 } else turned { x with arrivals := x.arrivals + 1 } (x.pending + n)

/-- The block's pin set; a name that leaves the board has the reclaim waits search again (R285, R287). -/
def pinned (s : State) (w : Warp) (k : BitVec 3) (x : DWord) : State :=
  let s' := s.modWarp w.id (fun y => { y with pins := y.pins.set k.toNat x k.isLt, raw := y.raw.set k.toNat 0 k.isLt })
  if w.pins[k.toNat]'(k.isLt) = 0 then s' else s'.wakeReclaim

/-! ## Atomics, reductions, multicast, full/empty and typed accesses (09 R177 to R180, R197; 11 R224 to R232) -/

/-- What each active lane does to the state, by ascending vlane: `t l` is the state before lane `l`. -/
def ByLane (act : Mask) (one : Nat → State → State) (t : Nat → State) : Prop :=
  ∀ l, l < 32 → t (l + 1) = if act.getLsbD l then one l (t l) else t l

/-- What the active threads have read early of the bytes that their atomics name is void (R253). -/
def voided (s : State) (w : Warp) (act : Mask) (pl : Nat → Place) (n : Nat) : State :=
  (Mask.lanes act).foldl (fun s l => s.forgetAt (w.serials act) (pl l) n) s

/-- An application of REDM sets out for its home (R254); the threads of its fragment, `readers`, do not see it yet. -/
def redmSent (s : State) (b : Block) (threads readers : List Nat) (col : BitVec 3) (p : Place) (aop : BitVec 4) (word : Word) : State :=
  { s with
    ctl := { s.ctl with nextId := s.ctl.nextId + 1 }
    sync := { s.sync with redms := s.sync.redms ++
      [{ id := s.ctl.nextId, block := b.id, threads, colour := col, place := p, aop, word, readers }] } }

/-- Bytes of an access of this device. -/
def accessBytes (m : MemOp) : Nat := 2 ^ m.wd.toNat

/-- The 32- or 64-bit operand in V[r], or V[r] and V[r + 1]. -/
def operand (f : Frag) (r : BitVec 6) (wide : Bool) (l : Nat) : DWord :=
  BitVec.ofNat 64 ((f.getV r l).toNat + if wide then 2 ^ 32 * (f.getV (r + 1) l).toNat else 0)

/-- An access of g or t soils the block (R347). -/
def soiledBy (s : State) (b : Block) (sp : Space) : State := if sp = .g ∨ sp = .t then s.soil b.id else s

/-- A page holds an element of lane `l` (R225): the page of the base, and the places of the element's bytes and of
its scale byte, on this device and without error. -/
structure ElementAt (s : State) (f : Frag) (w : Warp) (b : Block) (g : Grid) (m : MemOp) (l : Nat) (lf : Leaf) (loc : ElemLoc) (p q : Place) : Prop where
  inside : m.sp = .t → (addr f m.a m.imm).toNat < g.launch.tlsb
  canon : canonical (laneVa w m.sp l (addr f m.a m.imm)) = true
  page : s.leaf? g.job (laneVa w m.sp l (addr f m.a m.imm)) = some lf
  typed : pteFmt lf.pte ≠ 0
  aligned : (laneVa w m.sp l (addr f m.a m.imm)).toNat % elemAlign (pteFmt lf.pte) = 0
  element : loc = elemLoc (pteFmt lf.pte) (pteBg lf.pte) (elemIndex f m l)
  data : ∃ k, s.check g w b m.sp l (addr f m.a m.imm + BitVec.ofNat 64 loc.off) loc.len .read pteKy (fun e => pteTag e != pteTag lf.pte) = .ok p k
  scale : ∀ o, loc.scale = some o →
    ∃ k, s.check g w b m.sp l (addr f m.a m.imm + BitVec.ofNat 64 o) 1 .read pteKy (fun e => pteTag e != pteTag lf.pte) = .ok q k
  near : Near p ∧ Near q
  sound : s.isPoisoned p loc.len = false ∧ s.isPoisoned q 1 = false
  settled : Settled s p loc.len ∧ Settled s q 1

/-! ## Engines (11 R233 to R239) -/

/-- The setting of an instruction that names no vector register. -/
def setting (s : State) (f : Frag) (w : Warp) (b : Block) (g : Grid) (act : Mask) : Ctx := ⟨s, f, w, b, g, act, .none, 2⟩

/-- The chunks of a range, one for each page or segment, pass their checks and lie at the spans; `inW` marks a source in w. -/
def Spans (c : Ctx) (sp : Space) (k : Access) (keyed extra : BitVec 128 → Bool) (inW : Bool) (xs : List (DWord × Nat)) (ys : List Span) : Prop :=
  List.Forall₂ (fun x y => ∃ p leaf, (c.engineCheck sp x k keyed extra).check = .ok p leaf
    ∧ y = ⟨p, x.2, match leaf with | some lf => pteTag lf.pte | none => 0, x.1, inW⟩) xs ys

/-- What the completion address names (R234). -/
def Completes (c : Ctx) (ck : Ck) (a : DWord) (dn : Done) : Prop :=
  match ck with
  | .none => dn = .none
  | .bar => a.toNat % 16 = 0 ∧ ∃ k o leaf, (c.engineCheck .a (a, 16) .both noKeyRule noKeyRule).check = .ok (.buf k .a o) leaf ∧ dn = .bar o
  | .cnta => a.toNat % 8 = 0 ∧ ∃ k o leaf, (c.engineCheck .a (a, 8) .both noKeyRule noKeyRule).check = .ok (.buf k .a o) leaf ∧ dn = .cnta o
  | .cnt => a.toNat % 8 = 0 ∧ ∃ p leaf, (c.engineCheck .g (a, 8) .write pteKy cntPageBad).check = .ok p leaf ∧ dn = .cnt p

/-- The warp may enter another operation: it has fewer than 63 in the queue. -/
def QueueRoom (b : Block) (w : Warp) (q : BitVec 3) : Prop := ((b.queue q).filter (fun o => o.warp == w.id)).length < 63

/-- The state after an operation enters the end of queue `q` of the block. -/
def entered (s : State) (f : Frag) (w : Warp) (b : Block) (q : BitVec 3) (moves : List Move) (key : BitVec 16) (decrypt : Bool)
    (segTag : Option (BitVec 6)) (waits : List Nat) (fence : Option (BitVec 8)) (dn : Done) (bytes : Nat) : State :=
  ({ s with ctl := { s.ctl with nextId := s.ctl.nextId + 1 } } : State).modBlock b.id (fun x => x.setQueue q (x.queue q ++
    [⟨s.ctl.nextId, w.id, f.id, s.ctl.nextId, moves, key, decrypt, segTag, fence, dn, bytes, waits, false, false, [], 0⟩]))

def HasCk (b : Block) (ck : Ck) (e : BitVec 6) : Prop := ck ≠ .none → HasU b [e]

/-! ## Tiles and accumulators (02 R31; 11 R240 to R248) -/

def HasT (b : Block) (rs : List (BitVec 2)) : Prop := ∀ r ∈ rs, r.toNat < b.kernel.treg
def HasA (b : Block) (rs : List (BitVec 2)) : Prop := ∀ r ∈ rs, r.toNat < b.kernel.areg

/-- Row `i` of a tile, element `j` of row `i` of an accumulator. -/
def tileRow (f : Frag) (t : BitVec 2) (i : Nat) : BitVec 512 := (f.getT t).toList.getD i 0
def accElem (f : Frag) (a : BitVec 2) (i j : Nat) : Word := ((f.getA a).toList.getD i zeroWords).toList.getD j 0

/-- A row of an accumulator. -/
def rowOf (x : Nat → Word) : Lanes Word := Vector.ofFn (fun (j : Fin 32) => x j.val)

/-- The row addresses of LDT and STT. -/
def rowAddr (f : Frag) (a : BitVec 6) (pitch : BitVec 11) (imm : BitVec 12) (i : Nat) : DWord :=
  addr f a imm + BitVec.ofNat 64 (16 * pitch.toNat * i)

/-! ### Where an access traps or waits (09 R169 to R172, R186, R191) -/

/-- Bits [63:57] all equal bit 56 (R169). -/
def CanonVa (va : DWord) : Prop := ∀ i, 56 ≤ i → i < 64 → va.getLsbD i = va.getLsbD 56

/-- The access lacks a permission: that of its kind (R186), a weight page's for any write (R204), or one that its instruction asks. -/
def Lacks (k : Access) (extra : BitVec 128 → Bool) (e : BitVec 128) : Prop :=
  (match k with
    | .read | .touch => pteR e = false
    | .write => pteW e = false
    | .both => pteR e = false ∨ pteW e = false
    | .redm => pteW e = false ∨ pteNr e = false)
  ∨ (pteShst e ≠ shPrivate ∧ pteRole e = false ∧ (k = .write ∨ k = .both ∨ k = .redm)) ∨ extra e = true

/-- A collective holds a byte of the range (R305). -/
def Held (s : State) (job : BitVec 16) (va : DWord) (n : Nat) : Prop :=
  ∃ x ∈ s.coll.ranges, x.coll.isSome ∧ x.job = job ∧ x.len ≠ 0 ∧ va.toNat < x.base.toNat + x.len ∧ x.base.toNat < va.toNat + n

/-- The group of a leaf is valid, for sharded pages, and of the leaf's job (R201). -/
def Grouped (s : State) (lf : Leaf) : Prop :=
  ∃ q, s.group? (pteSgid lf.pte) = some q ∧ bit q.flags 0 = true ∧ bit q.flags 1 = true ∧ q.job = lf.job

/-- Rows 3 to 9 of R191 for a VA. -/
def GRows (s : State) (core : Nat) (job : BitVec 16) (va : DWord) (n : Nat) (k : Access) (keyed extra : BitVec 128 → Bool) (r : Check) : Prop :=
  (¬CanonVa va → r = .bad 3 .noMapping 0)
  ∧ (CanonVa va → s.leaf? job va = none → r = .bad 4 .noMapping 0)
  ∧ (∀ lf, CanonVa va → s.leaf? job va = some lf →
    (Lacks k extra lf.pte → r = .bad 5 .permission 0)
    ∧ (¬Lacks k extra lf.pte →
      (keyed lf.pte = true → r = .bad 6 .keyRefused 0)
      ∧ (keyed lf.pte = false →
        (Held s job va n → r = .bad 7 .rangeBusy 0)
        ∧ (¬Held s job va n →
          let sharded := pteShst lf.pte ≠ shPrivate
          let lost := sharded ∧ (pteShst lf.pte = shFailed ∨ ¬Grouped s lf)
          let here := s.translated core job lf.page = true
          (lost → r = .bad 8 .shardLost (pteSgid lf.pte))
          ∧ (¬lost → ¬here → r = .miss lf)
          ∧ (¬lost → here → ¬sharded ∨ pteShst lf.pte = shGathered ∨ pteShst lf.pte = shPartial → r = .ok (lf.place va) (some lf))
          ∧ (¬lost → here → ¬(¬sharded ∨ pteShst lf.pte = shGathered ∨ pteShst lf.pte = shPartial) → r = .wait lf)))))

/-- Rows 3 and 6 for a buffer of a block (R169, R176). -/
def BufRows (b : Block) (x : Buf) (a n : Nat) (r : Check) : Prop :=
  let size := match x with | .a => 4096 * b.quota.qa | .w => 65536 * b.quota.qw | .c => 4096 * b.quota.qc
  let isSealed := x = .w ∧ ∃ i q, a / 65536 ≤ i ∧ 65536 * i < a + n ∧ b.segs[i]? = some q ∧ q.sealedBy.isSome
  (size < a + n → r = .bad 3 .bufferBounds 0)
  ∧ (a + n ≤ size → (isSealed → r = .bad 6 .keyRefused 0) ∧ (¬isSealed → r = .ok (.buf b.id x a) none))

/-- The same through the gang (R172). -/
def GangRows (s : State) (g : Grid) (b : Block) (x : Buf) (a : DWord) (n : Nat) (r : Check) : Prop :=
  let k := a.toNat / 2 ^ 20
  (2 ^ 24 ≤ a.toNat ∨ g.launch.gang ≤ k ∨ s.gangMember g b k = none → r = .bad 3 .bufferBounds 0)
  ∧ (∀ m, a.toNat < 2 ^ 24 → k < g.launch.gang → s.gangMember g b k = some m → BufRows m x (a.toNat % 2 ^ 20) n r)

/-- Rows 3 to 9 by space. -/
def SpaceRows (s : State) (g : Grid) (w : Warp) (b : Block) (sp : Space) (lane : Nat) (a : DWord) (n : Nat) (k : Access)
    (keyed extra : BitVec 128 → Bool) (r : Check) : Prop :=
  match sp with
  | .g => GRows s b.core g.job a n k keyed extra r
  | .a => BufRows b .a a.toNat n r
  | .w => BufRows b .w a.toNat n r
  | .c => BufRows b .c a.toNat n r
  | .l => (b.quota.ql < a.toNat + n → r = .bad 3 .bufferBounds 0) ∧ (a.toNat + n ≤ b.quota.ql → r = .ok (.lwin w.id lane a.toNat) none)
  | .t => (g.launch.tlsb < a.toNat + n → r = .bad 3 .bufferBounds 0)
      ∧ (a.toNat + n ≤ g.launch.tlsb → ∀ t, w.threads.toList.getD lane none = some t → GRows s b.core g.job (t.tlsbase + a) n k keyed extra r)
  | .cw => GangRows s g b .w a n r
  | .ca => GangRows s g b .a a n r

/-- The accesses of LDE for a lane: one that fails by the base's page, else those of the element and of its scale (R225). -/
def ElementRows (s : State) (f : Frag) (w : Warp) (b : Block) (g : Grid) (m : MemOp) (l : Nat) (xs : List LaneAcc) : Prop :=
  let base := addr f m.a m.imm
  let va := laneVa w m.sp l base
  let fails := fun row cause => xs = [⟨l, base, va, 1, .bad row cause 0⟩]
  let outside := m.sp = .t ∧ g.launch.tlsb ≤ base.toNat
  (outside → fails 3 .bufferBounds)
  ∧ (¬outside → ¬CanonVa va → fails 3 .noMapping)
  ∧ (¬outside → CanonVa va → s.leaf? g.job va = none → fails 4 .noMapping)
  ∧ (∀ lf, ¬outside → CanonVa va → s.leaf? g.job va = some lf →
    (pteFmt lf.pte = 0 → fails 5 .permission)
    ∧ (pteFmt lf.pte ≠ 0 →
      (va.toNat % elemAlign (pteFmt lf.pte) ≠ 0 → fails 2 .misaligned)
      ∧ (va.toNat % elemAlign (pteFmt lf.pte) = 0 →
        let loc := elemLoc (pteFmt lf.pte) (pteBg lf.pte) (elemIndex f m l)
        let one := fun (o n : Nat) => let a := base + BitVec.ofNat 64 o
          (⟨l, a, laneVa w m.sp l a, n, s.check g w b m.sp l a n .read pteKy (fun e => pteTag e != pteTag lf.pte)⟩ : LaneAcc)
        xs = one loc.off loc.len :: (match loc.scale with | some o => [one o 1] | none => []))))

/-- The accesses of some lanes of an instruction of R82. -/
def laneAccs (s : State) (f : Frag) (w : Warp) (b : Block) (g : Grid) (m : MemOp) (atomic : Bool) (ls : List Nat) (n : Nat) (k : Access)
    (keyed extra : BitVec 128 → Bool) : List LaneAcc :=
  ls.map (fun l => let a := laneAddr f m atomic l
    ⟨l, a, laneVa w m.sp l a, n, s.check g w b m.sp l a n k keyed extra⟩)

/-- The 64-byte row accesses of LDT and STT (R240). -/
def tileAccs (f : Frag) (b : Block) (act : Mask) (x : Buf) (a : BitVec 6) (pitch : BitVec 11) (imm : BitVec 12) : List LaneAcc :=
  (Mask.lanes act).map (fun i => let r := rowAddr f a pitch imm i
    ⟨i, r, r, 64, if r.toNat % 16 ≠ 0 then .bad 2 .misaligned 0 else checkBuf b x (b.limit x) r 64⟩)

/-- The one access of ACCLD and ACCST (R247). -/
def accAccs (f : Frag) (b : Block) (act : Mask) (a : BitVec 6) (imm : BitVec 12) : List LaneAcc :=
  let r := addr f a imm
  [⟨Mask.lowest act, r, r, 4096, if r.toNat % 128 ≠ 0 then .bad 2 .misaligned 0 else checkBuf b .c (b.limit .c) r 4096⟩]

/-- A row that the instruction itself breaks, at an address that it names. -/
def broken (f : Frag) (p : Bool) (row : Nat) (cause : Cause) (a : DWord) : List LaneAcc :=
  if p then [⟨Mask.lowest f.mask, a, a, 1, .bad row cause 0⟩] else []

/-- The accesses of the completion address (R234). -/
def doneAccs (c : Ctx) (ck : Ck) (a : DWord) : List LaneAcc :=
  match ck with
  | .none => []
  | .bar => broken c.f (a.toNat % 16 != 0) 2 .misaligned a ++ [c.engineCheck .a (a, 16) .both noKeyRule noKeyRule]
  | .cnta => broken c.f (a.toNat % 8 != 0) 2 .misaligned a ++ [c.engineCheck .a (a, 8) .both noKeyRule noKeyRule]
  | .cnt => broken c.f (a.toNat % 8 != 0) 2 .misaligned a ++ [c.engineCheck .g (a, 8) .write pteKy cntPageBad]

/-- The accesses of CPY (R236): a count beyond the limit reaches no page. -/
def copyAccs (c : Ctx) (dst src count : DWord) (dsp ssp : Space) (ck : Ck) (done : DWord) : List LaneAcc :=
  let n := if count.toNat ≤ 16777216 then count.toNat else 0
  broken c.f (dst.toNat % 16 != 0) 2 .misaligned dst ++ broken c.f (src.toNat % 16 != 0) 2 .misaligned src
    ++ broken c.f (count.toNat % 16 != 0) 2 .misaligned dst ++ broken c.f (decide (16777216 < count.toNat)) 3 .bufferBounds dst
    ++ (c.s.chunks c.g.job ssp src n).map (fun x => c.engineCheck ssp x .read noKeyRule noKeyRule)
    ++ (c.s.chunks c.g.job dsp dst n).map (fun x => c.engineCheck dsp x .write noKeyRule noKeyRule) ++ doneAccs c ck done

/-- The accesses of CPYT once its record is read (R237, R238): its own rows, the pages of its box, its buffer and its completion. -/
def boxAccs (c : Ctx) (t : Tlr) (dst lo hi : DWord) (st inW : Bool) (ck : Ck) (done : DWord) (box1 box0 : Nat) : List LaneAcc :=
  let c0 := lo.toNat % 2 ^ 32
  let runs := boxRuns t c0 (lo.toNat / 2 ^ 32) (hi.toNat % 2 ^ 32) (hi.toNat / 2 ^ 32) box0 box1
  let nibble := t.fmt == 9#4 || t.fmt == 10#4
  let keyed := t.key != 0#16
  let shape := nibble && (box1 != 1 || !inW || dst.toNat % 65536 != 0 || c0 % unitCount t.fmt t.bg != 0 || 16 < box0)
  let unit := keyed && runs.any (fun x => x.va.toNat % 64 != 0 || (if nibble then 65536 else box0 * elemSize t.fmt) % 64 != 0)
  let n := boxBytes runs
  let buf := if inW then Buf.w else .a
  broken c.f (dst.toNat % 16 != 0 || shape || unit) 2 .misaligned dst
    ++ broken c.f (keyed && (!inW || !((c.s.job? c.g.job).any (fun j => (getKey t.key j.keys).isSome)))) 6 .keyRefused dst
    ++ (runs.flatMap (fun x => c.s.chunksG c.g.job 64 x.va x.len)).map (fun x =>
      c.engineCheck .g x (if st then .write else .read) (fun p => pteKy p != keyed) (fun p => pteFmt p != 0#4 && pteTag p != t.tag))
    ++ [⟨Mask.lowest c.f.mask, dst, dst, n, if c.b.limit buf < dst.toNat + n then .bad 3 .bufferBounds 0
        else if inW && sealClash c.b dst.toNat n t.key st then .bad 6 .keyRefused 0 else .ok (.buf c.b.id buf dst.toNat) none⟩]
    ++ doneAccs c ck done

def HasAddress (b : Block) (m : MemOp) : Prop := HasU b [m.a] ∧ (m.ix = true → HasV b [m.b])

/-- The memory instructions with the accesses of their first checks, the one mask of those that make one access for all their lanes (R223),
and their destination. -/
inductive Accesses (s : State) (f : Frag) (w : Warp) (b : Block) (g : Grid) : Instr → Option Mask → Dst → List LaneAcc → Prop where
  | ld h d m : HasAddress b m → d.toNat + regsOfWd m.wd ≤ b.kernel.vreg → Accesses s f w b g (.ld h d m) none (.vec d (regsOfWd m.wd))
      (laneAccs s f w b g m false (Mask.lanes (activeMask f h)) (accessBytes m) .read noKeyRule noKeyRule)
  | ldf h d m : HasAddress b m → d.toNat + regsOfWd m.wd ≤ b.kernel.vreg → Accesses s f w b g (.ldf h d m) none (.vec d (regsOfWd m.wd))
      (laneAccs s f w b g m false (Mask.lanes (activeMask f h)) (accessBytes m) .read noKeyRule noKeyRule)
  | st h d m : HasAddress b m → d.toNat + regsOfWd m.wd ≤ b.kernel.vreg → Accesses s f w b g (.st h d m) none .none
      (laneAccs s f w b g m false (Mask.lanes (activeMask f h)) (accessBytes m) .write noKeyRule noKeyRule)
  | stf h d m : HasAddress b m → d.toNat + regsOfWd m.wd ≤ b.kernel.vreg → Accesses s f w b g (.stf h d m) none .none
      (laneAccs s f w b g m false (Mask.lanes (activeMask f h)) (accessBytes m) .write noKeyRule noKeyRule)
  | sld c d m : HasU b [d, m.a] → Accesses s f w b g (.sld c d m) (some f.mask) (.uni d)
      (laneAccs s f w b g m false [Mask.lowest f.mask] (accessBytes m) .read noKeyRule noKeyRule)
  | sst c d m : HasU b [d, m.a] → Accesses s f w b g (.sst c d m) (some f.mask) .none
      (laneAccs s f w b g m false [Mask.lowest f.mask] (accessBytes m) .write noKeyRule noKeyRule)
  | atom h d m : HasAddress b m → d.toNat + regsOfWd m.wd ≤ b.kernel.vreg →
      m.e.toNat + (if m.aop = 9 then 2 else 1) * (if m.wd = 3 then 2 else 1) ≤ b.kernel.vreg →
      Accesses s f w b g (.atom h d m) none (.vec d (regsOfWd m.wd))
        (laneAccs s f w b g m true (Mask.lanes (activeMask f h)) (accessBytes m) .both pteKy atomFmtBad)
  | red h d m : HasAddress b m → d.toNat + regsOfWd m.wd ≤ b.kernel.vreg → Accesses s f w b g (.red h d m) none .none
      (laneAccs s f w b g m true (Mask.lanes (activeMask f h)) (accessBytes m) .write pteKy atomFmtBad)
  | redm h d m : HasAddress b m → d.toNat + regsOfWd m.wd ≤ b.kernel.vreg → Accesses s f w b g (.redm h d m) none .none
      (laneAccs s f w b g m true (Mask.lanes (activeMask f h)) (accessBytes m) .redm pteKy (fun e => !redmFmt m.aop (pteFmt e)))
  | mst h d m : HasAddress b m → HasU b [m.e] → d.toNat + regsOfWd m.wd ≤ b.kernel.vreg → Accesses s f w b g (.mst h d m) none .none
      (laneAccs s f w b g m false (Mask.lanes (activeMask f h)) (accessBytes m) .write noKeyRule
        (fun _ => ((setting s f w b g (activeMask f h)).mstGroup m.e).isNone))
  | touch h m : HasAddress b m → Accesses s f w b g (.touch h m) none .none
      (laneAccs s f w b g m false (Mask.lanes (activeMask f h)) 1 .touch noKeyRule noKeyRule)
  | evict h m : HasAddress b m → Accesses s f w b g (.evict h m) none .none
      ((laneAccs s f w b g m false (Mask.lanes (activeMask f h)) 1 .touch noKeyRule noKeyRule).map (fun x => { x with check := evictCheck x.check }))
  | lde h d m : HasAddress b m → HasV b [d] → Accesses s f w b g (.lde h d m) none (.vec d 1)
      ((Mask.lanes (activeMask f h)).flatMap (fun l => ((setting s f w b g (activeMask f h)).elemChecks m l).1))
  | ldt h d a sp pitch imm : HasT b [d] → HasU b [a] → sp = .a ∨ sp = .w → Accesses s f w b g (.ldt h d a sp pitch imm) none (.tile d)
      (tileAccs f b (activeMask f h) (if sp = .w then .w else .a) a pitch imm)
  | stt h d a pitch imm : HasT b [d] → HasU b [a] → Accesses s f w b g (.stt h d a pitch imm) none .none
      (tileAccs f b (activeMask f h) .a a pitch imm)
  | accld h d a imm : HasA b [d] → HasU b [a] → activeMask f h ≠ 0 → Accesses s f w b g (.accld h d a imm) (some (activeMask f h)) (.acc d)
      (accAccs f b (activeMask f h) a imm)
  | accst h d a imm : HasA b [d] → HasU b [a] → activeMask f h ≠ 0 → Accesses s f w b g (.accst h d a imm) (some (activeMask f h)) .none
      (accAccs f b (activeMask f h) a imm)
  | cpy ch d a b' e dsp ssp q ck : HasU b [d, a, b'] → HasCk b ck e → QueueRoom b w q →
      Accesses s f w b g (.cpy ch d a b' e dsp ssp q ck) (some f.mask) .none
        (copyAccs (setting s f w b g (activeMask f (uni ch))) (f.getU d) (f.getU a) (f.getU b') dsp ssp ck (f.getU e))
  | cpyt ch d a b' e st inW q ck box1 box0 : HasU b [d, a, b', b' + 1] → HasCk b ck e → QueueRoom b w q →
      Accesses s f w b g (.cpyt ch d a b' e st inW q ck box1 box0) (some f.mask) .none
        [⟨Mask.lowest f.mask, f.getU a, f.getU a, 64, s.check g w b .g (Mask.lowest f.mask) (f.getU a) 64 .read noKeyRule noKeyRule⟩]

/-- The trap of some accesses, those of a lane in ascending lane: the cause of the lowest row (of the first access on that row), the lanes that
fail for the cause and the address of the first of them. -/
structure Worst (xs : List LaneAcc) (cause : Cause) (sgid : BitVec 12) (lanes : Mask) (a : DWord) : Prop where
  chosen : ∃ pre x post row, xs = pre ++ x :: post ∧ x.check = .bad row cause sgid
    ∧ (∀ y ∈ pre, ∀ r c q, y.check = .bad r c q → row < r) ∧ (∀ y ∈ post, ∀ r c q, y.check = .bad r c q → row ≤ r)
  lanes : ∀ l, l < 32 → (lanes.getLsbD l = true ↔ ∃ x ∈ xs, x.lane = l ∧ ∃ r q, x.check = .bad r cause q)
  first : ∃ pre x post r q, xs = pre ++ x :: post ∧ x.check = .bad r cause q ∧ x.addr = a ∧ ∀ y ∈ pre, ∀ r q, y.check ≠ .bad r cause q

/-- The trap's registers: %tinfo holds the destination descriptor, with the group of a lost shard above it (R323, R325). -/
def faultInfo (cause : Cause) (sgid : BitVec 12) (lanes : Mask) (a : DWord) (dst : Dst) : TrapInfo :=
  ⟨cause, lanes, a, dst.descriptor.setWidth 64 + (if cause = .shardLost then BitVec.ofNat 64 (2 ^ 32 * sgid.toNat) else 0)⟩

/-- The instructions whose accesses read data; those that act at the home (`true`) read none of it from a store buffer, and wait for their
block's older stores first. -/
inductive ReadsData (s : State) (b : Block) : Instr → Bool → Prop where
  | ld h d m : ReadsData s b (.ld h d m) false
  | sld c d m : ReadsData s b (.sld c d m) false
  | lde h d m : ReadsData s b (.lde h d m) false
  | ldt h d a sp pitch imm : ReadsData s b (.ldt h d a sp pitch imm) false
  | cpyt ch d a b' e st inW q ck box1 box0 : ReadsData s b (.cpyt ch d a b' e st inW q ck box1 box0) false
  | ldf h d m : Drained s b → ReadsData s b (.ldf h d m) false
  | atom h d m : Drained s b → ReadsData s b (.atom h d m) true
  | red h d m : Drained s b → ReadsData s b (.red h d m) true
  | redm h d m : Drained s b → ReadsData s b (.redm h d m) true

/-- The bytes carry an uncorrectable error, and one of them at least is read from where they stand. -/
def Poisons (s : State) (f : Frag) (b : Block) (home : Bool) (p : Place) (n : Nat) : Prop :=
  s.isPoisoned p n = true ∧ (home = true ∨ ∃ j, j < n ∧ buffered b f.id (p.at j) = none)

/-- The instruction consumes the error of a place (R348); which bank it lies in is a free value (log 4). -/
def Consumes (s : State) (f : Frag) (w : Warp) (b : Block) (i : Instr) (p : Place) (lanes : Mask) (a : DWord) (dst : Dst) : Prop :=
  ∃ n bank, let u : State := { s with ctl := { s.ctl with oracle := n } }
    exec i s = .next (u.consume f w b (u.placeUnit p b.core bank) lanes a (dst.descriptor.setWidth 64))

/-- The fragment after a product: row i of the accumulator holds, for the rows of ACTIVE, element by element the old
value (0 for MMAZ) plus row i of tile A times row j of B, and %mflags the flags raised. -/
def product (f : Frag) (act : Mask) (d a : BitVec 2) (zero : Bool) (af : BitVec 4) (brow : Nat → List Fv) : Frag :=
  let elem := fun i j => mmaElem (mmaInt af) zero (accElem f d i j) (tileElems af (tileRow f a i)) (brow j)
  let raised := (Mask.lanes act).foldl (fun (m : Flags) i => (List.range 32).foldl (fun m j => m ||| (elem i j).2) m) 0
  { f with mflags := f.mflags ||| raised }.setA d act (fun i => rowOf (fun j => (elem i j).1))

/-- The byte that the fragment sees at a place. -/
def seenByte (s : State) (f : Frag) (b : Block) (p : Place) : Byte := (seenBytes s f b p 1).headD 0

/-- The product instructions: MMA adds to the accumulator, MMAZ starts from zero. -/
inductive Product : Instr → Bool → Head → BitVec 2 → BitVec 2 → BitVec 6 → BitVec 6 → BSrc → BitVec 4 → BitVec 4 → Prop where
  | mma h d a b e k src bf af : Product (.mma h d a b e k src bf af) false h d a b e src bf af
  | mmaz h d a b e k src bf af : Product (.mmaz h d a b e k src bf af) true h d a b e src bf af

/-- Operand B in W: the block, its offset in W, the format and BG. -/
structure InW (s : State) (b : Block) (g : Grid) (gang : Bool) (addr : DWord) (bf af : BitVec 4) (m : Block) (o : Nat) (fmt : BitVec 4) (bg : BitVec 2) : Prop where
  own : gang = false → m = b ∧ o = addr.toNat
  other : gang = true → addr.toNat < 2 ^ 24 ∧ addr.toNat / 2 ^ 20 < g.launch.gang ∧ s.gangMember g b (addr.toNat / 2 ^ 20) = some m ∧ o = addr.toNat % 2 ^ 20
  aligned : o % 64 = 0
  oneSegment : o % 65536 + 2048 ≤ 65536
  inside : o + 2048 ≤ 65536 * m.quota.qw
  format : resolveTag ((m.segs.getD (o / 65536) Segment.blank).tag) bf af = some (fmt, bg)
  pair : mmaPair af fmt = true
  codes : fmt = 9 → o % 65536 + 2048 ≤ (q4Unit bg).2.1
  sound : ∀ k n, s.isPoisoned (.buf m.id .w k) n = false
  settled : ∀ k, Settled s (.buf m.id .w k) 1

/-- Element `k` of row `j` of B in W at offset `o`; Q4 codes lie 128 to a row, with their scales further on in the segment. -/
def wElem (s : State) (f : Frag) (b m : Block) (o : Nat) (fmt : BitVec 4) (bg : BitVec 2) (j k : Nat) : Fv :=
  let byte := fun n => seenByte s f b (.buf m.id .w n)
  if fmt = 9 then bElem fmt bg (o - o % 65536) (2 * (o % 65536) + 128 * j + k) byte else bElem fmt 0 (o + 64 * j) k byte

/-- The runs of bytes of B in a tensor: whole 64-byte units under a key, else what each line needs. -/
def tensorRuns (t : Tlr) (coords : DWord) (n : Nat) : List (Nat × Nat) :=
  let as := (List.range 32).flatMap (fun j => t.rowBytes (bits coords 0 32).toNat (bits coords 32 32).toNat j n)
  if t.key = 0 then lineRuns as else (distinct (as.map (· / 64))).map (fun l => (64 * l, 64))

/-- Element `k` of row `j` of B in a tensor; an element outside the tensor is 0. -/
def tensorElem (t : Tlr) (coords : DWord) (byte : Nat → Byte) (j k : Nat) : Fv :=
  let c0 := (bits coords 0 32).toNat
  let c1 := (bits coords 32 32).toNat
  if t.inside (c1 + j) 0 0 ∧ c0 + k < t.dims.headD 0 then bElem t.fmt t.bg (t.rowVa (c1 + j) 0 0).toNat (c0 + k) byte else .fin false 0 0

/-! ## Queues, grids and placement (03 R40 to R56; 04 R58 to R64; 18 R335) -/

/-- `t i` is the state after the first `i` members of a list are dealt with, each by `one`. -/
def InTurn {α : Type} (xs : List α) (one : State → α → Nat → State → Prop) (t : Nat → State) : Prop :=
  ∀ i x, xs[i]? = some x → one (t i) x i (t (i + 1))

/-- What a fragment holds at entry (R36): the first packet, the kernel's parameter VA in s0, and zeros. -/
structure AtEntry (g : Grid) (w : Warp) (f : Frag) : Prop where
  warp : f.warp = w.id
  pc : f.pc.toNat = (g.kernel.va.toNat + 64) % 2 ^ 64
  lanes : ∀ l, l < 32 → f.mask.getLsbD l = (w.threads.toList.getD l none).isSome
  param : f.getU 0 = g.launch.pva
  uniforms : ∀ r, r ≠ 0 → f.getU r = 0
  vectors : ∀ r l, f.getV r l = 0
  preds : ∀ r, r ≠ 7 → f.getP r = 0
  flags : f.fflags = 0 ∧ f.mflags = 0
  ready : f.run = .ready ∧ f.handler = false

/-- The threads of a block at entry, 32 to a warp in the order of their numbers (R36, R65). -/
def ThreadsAtEntry (g : Grid) (index : Nat) (ws : List Warp) : Prop :=
  ws.length = (g.launch.threads + 31) / 32 ∧ ∀ i w, ws[i]? = some w → w.frame = ⟨0, 0, 0, 0, 0, 0, 0⟩ ∧
    ∀ l, l < 32 →
      let n := 32 * i + l
      if n < g.launch.threads then ∃ t, w.threads.toList.getD l none = some t ∧ t.tid = n ∧ t.depth = 0 ∧ t.xen = 0 ∧ t.tsub = 0
        ∧ t.tlsbase = BitVec.ofNat 64 (g.launch.tlsva.toNat + (index * g.quota.qthr + n) * g.launch.tlsb)
        ∧ t.vtid = BitVec.ofNat 32 (n % g.launch.bx + 2 ^ 10 * (n / g.launch.bx % g.launch.byy) + 2 ^ 20 * (n / (g.launch.bx * g.launch.byy)))
      else w.threads.toList.getD l none = none

/-- What a grid's completion record says (R55, R56). -/
def verdictOf (g : Grid) : Verdict :=
  if g.aborted then ⟨.aborted, 0x14, if g.nkill = 0 then 0xFFFFFFFF else g.fblk, g.nkill⟩
  else if g.nkill ≠ 0 then ⟨.killed, g.cause, g.fblk, g.nkill⟩
  else ⟨.success, 0, 0xFFFFFFFF, 0⟩

/-- Its 64 bytes: the sequence number, how it ended, the cause, the lowest killed block, the times and the counts. -/
def recordOf (g : Grid) (v : Verdict) : List Byte :=
  bytesOf (BitVec.ofNat 64 g.gid.seq.toNat) 8 ++ bytesOf (BitVec.ofNat 16 v.how.code) 2 ++ [v.cause, 0] ++ bytesOf (BitVec.ofNat 32 v.fblk) 4
    ++ bytesOf (BitVec.ofNat 64 g.tstart) 8 ++ bytesOf (BitVec.ofNat 64 g.tend) 8 ++ bytesOf (BitVec.ofNat 32 v.nkill) 4
    ++ bytesOf (BitVec.ofNat 32 g.nrelaunch) 4 ++ List.replicate 24 0

/-! ## Pans, buffers and engines (06 R109; 09 R179; 11 R233 to R235; 12 R252, R255, R265) -/

/-- The warp and fragment of a pan that yields (R109). -/
structure Yielded (p : Pan) (b : Block) (ctx : Nat) (w : Warp) (f : Frag) : Prop where
  place : w.block = b.id ∧ w.ctx.toNat = ctx ∧ w.tvec = p.tvec ∧ f.warp = w.id
  threads : ∀ l, l < 32 → w.threads.toList.getD l none = (p.threads[l]?).map (·.thread)
  lanes : ∀ l, l < 32 → (f.mask.getLsbD l = true ↔ l < p.threads.length)
  pc : f.pc = p.key
  flags : f.fflags = p.fflags ∧ f.mflags = p.mflags
  ready : f.run = .ready ∧ f.handler = false ∧ f.isSplit = false
  vectors : ∀ (r : BitVec 6) l x, l < 32 → p.threads[l]? = some x → r.toNat < x.v.length → f.getV r l = x.v.getD r.toNat 0
  preds : ∀ (r : BitVec 3) l x, r.toNat < 7 → l < 32 → p.threads[l]? = some x → (f.getP r).getLsbD l = x.p.getLsbD r.toNat
  uniforms : ∀ r : BitVec 6, r ≠ 63 → r.toNat < p.m → f.getU r = p.u.getD r.toNat 0

/-- The block of a fragment. -/
def blockOf? (s : State) (k : Nat) : Option Block := (s.frag? k).bind (fun f => (s.warp? f.warp).bind (fun w => s.block? w.block))

/-- The head of a queue may be acted on: its block is placed or ending, its gang restored, no fill of its job is left, a save under way lets it go on, it
waits for nothing, and no answer is outstanding. -/
structure HeadFree (s : State) (b : Block) (g : Grid) (o : EngOp) : Prop where
  here : b.run ≠ .saved ∧ (∀ x ∈ s.gangBlocks b.grid b.gang, x.restoring = false) ∧ s.filling g.job = false
  saving : b.saving = true → (∃ m ∈ o.moves, moveToG m = true) ∨ o.fence ≠ none ∧ ∀ k ∈ o.waits, ∀ q ∈ b.queues.toList, ∀ x ∈ q, x.id ≠ k
  waits : ∀ k ∈ o.waits, ∀ q ∈ b.queues.toList, ∀ x ∈ q, x.id ≠ k
  answered : o.outstanding = 0

/-- No older store of the issuing fragment to the bytes of the operation is still held. -/
def OldStoresDone (b : Block) (o : EngOp) : Prop := ∀ e ∈ b.fsb ++ b.wire ++ b.bsb, o.after? e = false

/-! ## Packets (14 R290 to R300, R305; 22 R372) -/

/-- HBM and the queue regions take accesses of hosts and devices: the boot ROM has ended, memory is ready, firmware runs, and after a warm reset
both kinds of link have been trained again (R40, R372). -/
structure OpenWindow (s : State) : Prop where
  up : s.fw.dstat.rom = false ∧ s.fw.dstat.memReady = true ∧ s.fw.dstat.fwRun = true
  trained : s.fw.dstat.warm = true → s.fw.links.roswald = true ∧ s.fw.links.ultraEthernet = true

/-- A packet is taken: its CRC is good, and the membership table of the port it came in by admits its key; every table admits key 0. -/
structure Taken (s : State) (p : Arrival) : Prop where
  good : p.bad = false
  port : p.port.toNat < 18
  key : p.key = 0 ∨ ∃ m ∈ s.fab.members, m.1 = p.port.toNat ∧ p.key ∈ m.2

/-- The state in which a packet of a class with `data` data flits takes effect: its flits are to be returned to its sender (not for MGT),
and those that it returns are free again. -/
def arrived (s : State) (p : Arrival) (cls : BitVec 2) (data : Nat) : State :=
  (if cls = 3 then s else s.modReturns p.src (fun r => r.arrive cls (1 + data) s.time)).returnFlits p.src p.aret.toNat

/-- Its LEN is the data flits that its kind carries, at most 4; one of a class that reaches main memory, REQ or PAGE, comes once that takes accesses. -/
structure Fitting (s : State) (p : Arrival) (cls : BitVec 2) (data : Nat) : Prop where
  len : p.len.toNat = data ∧ data ≤ 4
  opened : cls = 0 ∨ cls = 2 → OpenWindow s

/-- The packet fits and takes effect at the state `t`. -/
def Arrives (s : State) (p : Arrival) (cls : BitVec 2) (data : Nat) (t : State) : Prop := Fitting s p cls data ∧ t = arrived s p cls data

/-- The STATUS at its home of a request for the bytes `a ..< a + n`: beyond the capacity 3, in a frame that a collective holds 2, poisoned and
read 1, else 0. -/
def StatusAt (s : State) (a n : Nat) (reads : Bool) (st : BitVec 8) : Prop :=
  let held := ∃ r ∈ s.coll.ranges, r.coll.isSome = true ∧ ∃ x ∈ r.spans, x.place.overlap x.len (.hbm a) n = true
  st = 3 ∧ s.capacity < a + n ∨ ¬s.capacity < a + n ∧ (st = 2 ∧ held ∨ ¬held ∧
    (st = 1 ∧ reads = true ∧ s.isPoisoned (.hbm a) n = true ∨ st = 0 ∧ ¬(reads = true ∧ s.isPoisoned (.hbm a) n = true)))

/-- A reply goes to the sender with its key. -/
def replyOf (s : State) (p : Arrival) (mk : Arrival → Instr) : State := s.send p.src 1 p.key mk

def ackOf (s : State) (p : Arrival) (tag : BitVec 12) (st : BitVec 8) : State :=
  replyOf s p (fun h => if st = 0 then .ack h tag else .nack h tag st)

/-- After bytes at offsets from an HBM address are written, the lines that they overwrite whole are in error no longer (R355). -/
def linesMended (s : State) (a : Nat) (offs : List Nat) : State := s.clearWritten (offs.map (fun o => (.hbm (a + o), 1)))

/-- The data flits of offsets in a granule: one for each 64-byte line with a byte. -/
def lineFlits (offs : List Nat) (n : Nat) : Prop := ∃ ls : List Nat, ls.Nodup ∧ (∀ x, x ∈ ls ↔ ∃ o ∈ offs, o / 64 = x) ∧ ls.length = n

/-- The lines of a mask, ascending. -/
def maskLines (m : BitVec 4) : List Nat := (List.range 4).filter (fun i => m.getLsbD i)

/-- The request that a reply answers. -/
def Answers (s : State) (p : Arrival) (tag : BitVec 12) (r : Request) : Prop := s.fab.requests.find? (fun x => x.dst == p.src && x.tag == tag) = some r

/-- A lost store marks the warps that hold a thread of it now, or the one that made it where none does (log 73). -/
def Marks (s : State) (d : Delivery) (w0 : Warp) : Prop :=
  (∃ v ∈ s.work.warps, v.id = w0.id ∧ v.block = d.block ∧ ∃ k ∈ d.threads, k ∈ v.serials 0xFFFFFFFF)
  ∨ d.warp = w0.id ∧ ∀ v ∈ s.work.warps, v.block = d.block → ∀ k ∈ d.threads, k ∉ v.serials 0xFFFFFFFF

/-- The request is over. -/
def settledBy (s : State) (r : Request) : State := { s with fab := { s.fab with requests := s.fab.requests.erase r } }

/-- One reply for each line of the request. -/
def repliesFor (r : Request) (st : BitVec 8) (bytes : List Byte) : List Reply :=
  (List.range (maskLines r.lines).length).map (fun i => ⟨r.dst, r.addr + 64 * (maskLines r.lines).getD i 0, 0, st, (bytes.drop (64 * i)).take 64⟩)

/-! ## Page messages (10 R202 to R217) -/

/-- A page message that names a sharded page of this device, at the state `u` in which it takes effect: it is taken, its key is that of a job,
the leaf of its VA agrees with it in SZ, SGID and ROLE, the group entry is one of the job, and the sender is heard. -/
structure Reaches (s : State) (p : Arrival) (m : PageMsg) (lf : Leaf) (g : Group) (u : State) : Prop where
  taken : Taken s p
  fits : Fitting s p 2 ((m.data.length + 3) / 4)
  job : ∃ j, (arrived s p 2 ((m.data.length + 3) / 4)).keyJob? p.key = some j
    ∧ (arrived s p 2 ((m.data.length + 3) / 4)).leaf? j.num m.va = some lf
  page : lf.page = m.va
  sharded : pteShst lf.pte ≠ shPrivate ∧ pteShst lf.pte ≠ shFailed
  ngran : m.ngran.toNat ≤ 16
  agrees : pteSz lf.pte = m.sz ∧ pteSgid lf.pte = m.sgid
  group : s.groupOk lf = true ∧ s.leafGroup lf = some g
  heard : u = (arrived s p 2 ((m.data.length + 3) / 4)).hearPage lf.job lf.page m.src.toNat

/-- The message is of the generation of the leaf. -/
def Current (m : PageMsg) (lf : Leaf) : Prop := m.gen = pteGen lf.pte

/-- The message is of another generation, at a leaf that rests with no operation open: it is absorbed (R212). -/
def Absorbed (u : State) (m : PageMsg) (lf : Leaf) : Prop :=
  m.gen ≠ pteGen lf.pte ∧ (pteShst lf.pte = shSharded ∨ pteShst lf.pte = shGathered ∨ pteShst lf.pte = shPending)
    ∧ u.transition? lf.job lf.page = none ∧ u.fill? lf.job lf.page = none

/-- The operation that the message belongs to is open here and has begun. -/
def OpenHere (u : State) (lf : Leaf) (m : PageMsg) (x : Transition) : Prop :=
  u.transition? lf.job lf.page = some x ∧ x.requested = false ∧ x.opn = m.opn

/-- No operation of the message is open here. -/
def NotOpen (u : State) (lf : Leaf) (m : PageMsg) : Prop := ∀ x, u.transition? lf.job lf.page = some x → x.requested = false → x.opn ≠ m.opn

/-- What is still awaited of each member: every other rank's granules have landed. -/
def AllLanded (x : Transition) (lf : Leaf) (g : Group) : Prop :=
  ∀ r, r < g.n → r ≠ g.rank → ownedBy lf.granules g.n r ≤ (getKey r x.got).getD 0

/-- The operation as a member begins it. -/
def begun (u : State) (lf : Leaf) (g : Group) (kind : OpKind) (opn : BitVec 16) : Transition :=
  { job := lf.job, page := lf.page, kind, gen := pteGen lf.pte, opn, coordinator := false, requested := false, dones := [], sentDone := false
    got := [], seen := [], written := [], heard := u.awaiting g }

/-- The answer to a message that cannot be served now. -/
def busyTo (u : State) (p : Arrival) (g : Group) (m : PageMsg) : State :=
  u.send p.src 2 p.key (fun h => .busy h ⟨BitVec.ofNat 6 g.rank, m.sgid, m.gen, m.opn, m.va, m.sz, 0, 0, 0, [], 0⟩)

/-! ## Collectives (14 R302 to R312; 22 R365) -/

/-- The values that R302 allows in a parameter block of a member of group `g` in a gang of `gang` blocks. -/
structure ParamsOk (p : CollParams) (g : Group) (gang : Nat) : Prop where
  op : 1 ≤ p.op.toNat ∧ p.op.toNat ≤ 6
  sums : p.op.toNat ∈ [1, 2, 5] → p.dtype.toNat ∈ [1, 2, 3, 8] ∧ p.rop.toNat ≤ 2
  moves : p.op.toNat ∉ [1, 2, 5] → 1 ≤ p.dtype.toNat ∧ p.dtype.toNat ≤ 8 ∧ p.rop = 0
  count : 1 ≤ p.count ∧ p.count ≤ 2 ^ 40
  root : if p.op.toNat ∈ [4, 5] then p.root < g.n else p.root = 0
  barrier : if p.bar = true then 1 ≤ p.barspan ∧ p.barspan ≤ 16 ∧ p.barblk + p.barspan ≤ gang else p.barspan = 0
  chunk : if p.op = 6 then p.total % (256 * g.n) = 0 else p.chunk % 256 = 0 ∧ 256 ≤ p.chunk ∧ p.chunk ≤ 16777216
  apart : p.src = p.dst ∨ p.srcLen g.n g.rank = 0 ∨ p.dstLen g.n g.rank = 0 ∨ p.dst.toNat + p.dstLen g.n g.rank ≤ p.src.toNat ∨ p.src.toNat + p.srcLen g.n g.rank ≤ p.dst.toNat
  aligned : p.crva.toNat % 32 = 0 ∧ p.src.toNat % p.esize = 0 ∧ p.dst.toNat % p.esize = 0 ∧ p.baroff % 16 = 0

/-- The collective as it opens: a member of group `gr` with pairing index `pair`, its record at the HBM bytes from `q`, and the ages of the stores
of its block that its source bytes come after. -/
def openedColl (s : State) (b : Block) (g : Grid) (gr : Group) (p : CollParams) (pair q : Nat) (src dst : List Span) (older : List Nat) : Coll :=
  { sgid := p.sgid, pair, job := g.job, block := b.id, grid := g.key, gang := b.gang, n := gr.n, rank := gr.rank, par := p, src, dst
    record := .hbm q, equal := [], differ := [], older, started := false, data := [], fetched := [], reading := none
    landing := none, refused := false, closing := none, inbox := [], ready := [], partials := [], got := [], landed := 0, flags := 0, tide := none
    heard := gr.others.map (fun i => (i, s.time)), retiredAt := s.time }

/-- The state after a COLL: the block's stores begin to drain, the block is not clean, the collective is open with its held ranges, and what
arrived for its pairing index before is taken; STATUS is 0, its tuple is sent to the other members, and collectives that may go on do. -/
def collOpened (s : State) (b : Block) (k0 : Coll) : State :=
  let u := (s.startDrain b.id).soil b.id
  let k := k0.takeEarly u.coll.early
  let v : State := { u with coll := { u.coll with
    colls := u.coll.colls ++ [k], counts := setKey k0.sgid (k0.pair + 1) u.coll.counts, ranges := u.coll.ranges ++ collRanges k
    early := u.coll.early.filter (fun e => !e.of k0.sgid k0.pair) } }
  State.kickColls ((v.performAt k0.record [0, 0]).sendTuple k)

/-- One access of `n` bytes, of which the first `m` pass rows 1 to 9 of R191, at a place of this device. -/
def Reads (s : State) (f : Frag) (w : Warp) (b : Block) (g : Grid) (a : DWord) (m n : Nat) (p : Place) (leaf : Option Leaf) : Prop :=
  s.check g w b .g (Mask.lowest f.mask) a m .read noKeyRule noKeyRule = .ok p leaf ∧ Near p ∧ s.isPoisoned p n = false ∧ Settled s p n

/-- The 32 bytes of a completion record (R307). -/
def collRecord (k : Coll) (status : Nat) (failed : DWord) (time : Nat) : List Byte :=
  bytesOf (BitVec.ofNat 16 status) 2 ++ bytesOf k.flags 1 ++ List.replicate 5 0 ++ bytesOf failed 8 ++ bytesOf (BitVec.ofNat 64 time) 8
    ++ bytesOf k.par.digest 8

/-- When a matrix hold of a rank ends under `t0` (R365). -/
def holdEnd (s : State) (rank t0 : Nat) : Nat := t0 + rank % 16 * s.power.pgov.step.toNat * 100

/-! ## Slices (14 R313, R314) -/

/-- An MGT message to every other member of a group. -/
def toOthers (s : State) (g : Group) (mk : Arrival → Instr) : State := g.others.foldl (fun s r => s.send (g.dev r) 3 0 mk) s

/-- The grid has not ended: it is held, has blocks to place, or a block that has neither ended nor been killed. -/
def Goes (s : State) (z : Grid) : Prop :=
  z.run = .held ∨ z.nextUnit < z.units ∨ z.again ≠ []
    ∨ ∃ b ∈ s.work.blocks, b.grid = z.key ∧ b.run ≠ .ending ∧ ¬(b.run = .placed ∧ s.liveThreads b.id = [])

/-! ## Saves, errors, repair (18 R331 to R337; 21 R345 to R359) -/

/-- The error record that firmware appends for an error of no block; the log keeps the newest 32,768. -/
def logged (s : State) (cls kind action : BitVec 8) (unit : BitVec 32) (t : State) : Prop :=
  t.fw.elogCount = s.fw.elogCount + 1 ∧ t.fw.elog.getLast? = some ⟨BitVec.ofNat 64 s.time, cls, kind, action, unit, 0, 0xFFFFFFFF, 0⟩ ∧ t.work = s.work
    ∧ t.mem = s.mem

/-- Where the registers of the vector class start in a warp record: after the fragments (R336). -/
def vectorsAt (k : Kernel) (frags : Nat) : Nat := 0xB40 + frags * (64 + 8 * k.sreg)

/-- A warp record lies as the table of R336 says. -/
structure WarpLaid (bs : List Byte) (k : Kernel) (ql : Nat) (w : Warp) (fs : List Frag) : Prop where
  whole : k.sreg % 8 = 0 → bs.length % 64 = 0
  header : imgField bs 0 1 = 1 ∧ imgField bs 1 1 = fs.length ∧ imgField bs 2 1 = k.vreg ∧ imgField bs 3 1 = k.sreg ∧ imgField bs 4 1 = k.treg
    ∧ imgField bs 5 1 = k.areg ∧ imgField bs 6 1 = (fs.findIdx? (fun f => f.handler)).getD 0xFF ∧ imgField bs 8 4 = ql
  vacant : ∀ l, l < 32 → w.threads.toList.getD l none = none → imgField bs (0x40 + 2 * l) 2 = 0xFFFF
  thread : ∀ l t, l < 32 → w.threads.toList.getD l none = some t → imgField bs (0x40 + 2 * l) 2 = t.tid % 65536
    ∧ imgField bs (0x100 + 4 * l) 4 = t.xen.toNat ∧ imgField bs (0x180 + 4 * l) 4 = t.tsub.toNat ∧ imgField bs (0x200 + 4 * l) 4 = t.tlsbase.toNat % 2 ^ 32
    ∧ imgField bs (0x300 + l) 1 = t.depth % 256 ∧ ∀ i, i < 8 → imgField bs (0x320 + 64 * l + 8 * i) 8 = (t.stack.getD i 0).toNat
  special : ∀ (i : Nat) (x : DWord), [w.tvec, w.frame.tpc, w.frame.tcause, w.frame.tmask, w.frame.taddr, w.frame.tinfo, w.frame.tparent, w.frame.tsib,
    w.dctl.setWidth 64, w.mstfail][i]? = some x → imgField bs (0x80 + 8 * i) 8 = x.toNat
  pred : ∀ r l f, r < 7 → l < 32 → ownerOf fs l = some f → ((imgField bs (0x280 + 4 * r) 4).testBit l = true ↔ bit (f.getP (BitVec.ofNat 3 r)) l = true)
  frag : ∀ (i : Nat) f, fs[i]? = some f → let e := 0xB40 + i * (64 + 8 * k.sreg)
    imgField bs e 8 = f.pc.toNat ∧ imgField bs (e + 8) 4 = f.mask.toNat ∧ imgField bs (e + 16) 4 = f.fflags.toNat ∧ imgField bs (e + 20) 4 = f.mflags.toNat
    ∧ imgField bs (e + 12) 4 = (match f.run with | .parked p _ => p.code | _ => 0) + (if f.handler then 16 else 0)
    ∧ ∀ r, r < k.sreg → imgField bs (e + 64 + 8 * r) 8 = (f.getU (BitVec.ofNat 6 r)).toNat
  vector : ∀ r l f, r < k.vreg → l < 32 → ownerOf fs l = some f → imgField bs (vectorsAt k fs.length + 128 * r + 4 * l) 4 = (f.getV (BitVec.ofNat 6 r) l).toNat
  window : ∀ l i, l < 32 → i < ql → imgField bs (vectorsAt k fs.length + 128 * k.vreg + 2048 * k.treg + 4096 * k.areg + l * ql + i) 1 = (w.lwin.get (lwinAddr l 0 + i)).toNat

/-! ## Boot (22 R366 to R369) -/

/-- A field of an image. -/
def field (m : Memory) (off n : Nat) : Nat := natOfBytes (m.getN off n)

/-- R366: MAGIC, VERSION, the reserved fields and LENGTH. -/
structure GoodForm (m : Memory) : Prop where
  magic : field m 0 4 = 0x464D5731
  version : field m 4 2 = 1
  reserved : field m 6 2 = 0 ∧ field m 0x30 208 = 0
  length : field m 0xC 4 % 64 = 0 ∧ 64 ≤ field m 0xC 4 ∧ field m 0xC 4 ≤ 16776192

/-- The checks of R368 in their order: an image passes those before the first failure. -/
inductive Fails (m : Memory) : BitVec 8 → Prop where
  | form : ¬GoodForm m → Fails m 4
  | key : GoodForm m → natOfBe (sha256 (m.getN 0x100 384)) ≠ Config.keyHash.toNat → Fails m 1
  | signature : GoodForm m → natOfBe (sha256 (m.getN 0x100 384)) = Config.keyHash.toNat →
      rsaVerify (m.getN 0x100 384) (m.getN 0x280 384) (m.getN 0 256) = false → Fails m 1
  | digest : GoodForm m → natOfBe (sha256 (m.getN 0x100 384)) = Config.keyHash.toNat →
      rsaVerify (m.getN 0x100 384) (m.getN 0x280 384) (m.getN 0 256) = true → m.getN 0x10 32 ≠ sha256 (m.getN 0x400 (field m 0xC 4)) → Fails m 2
  | old : GoodForm m → natOfBe (sha256 (m.getN 0x100 384)) = Config.keyHash.toNat →
      rsaVerify (m.getN 0x100 384) (m.getN 0x280 384) (m.getN 0 256) = true → m.getN 0x10 32 = sha256 (m.getN 0x400 (field m 0xC 4)) →
      field m 8 4 < Config.minSvn.toNat → Fails m 3

/-- An image that passes every check. -/
structure Passes (m : Memory) : Prop where
  form : GoodForm m
  key : natOfBe (sha256 (m.getN 0x100 384)) = Config.keyHash.toNat
  signature : rsaVerify (m.getN 0x100 384) (m.getN 0x280 384) (m.getN 0 256) = true
  digest : m.getN 0x10 32 = sha256 (m.getN 0x400 (field m 0xC 4))
  svn : Config.minSvn.toNat ≤ field m 8 4

/-- The access of the aperture is served (R44, R372). -/
structure Serves (s : State) (host a n : Nat) : Prop where
  known : Config.admitted host = true
  window : OpenWindow s
  inside : a + n ≤ s.capacity
  granted : ∀ i, i < (a % 65536 + n + 65535) / 65536 → ∃ g ∈ s.fw.grants, g.host = host ∧ g.frame ≤ a / 65536 + i ∧ a / 65536 + i < g.frame + g.count
  free : s.heldAt (.hbm a) n = false

/-! ## Power (22 R361 to R364) -/

def clamp (lo hi x : Nat) : Nat := max lo (min hi x)

/-! ## Firmware requests (03 R45) -/

/-- Firmware has handled the record that it reads: RESULT and the reply fields, after `args` bytes of arguments, are written, and RQHEAD and RPHEAD
go on by one. -/
def answered (s : State) (result : Nat) (reply : List Byte) (args : Nat := 0) : State := s.fwReply result reply args

/-- Firmware runs, a record is published that it has not handled, and the next one carries this code and nothing in its reserved fields. -/
structure Asks (s : State) (code : Nat) : Prop where
  running : s.fw.dstat.fwRun = true
  published : s.fw.rpHead ≠ s.fw.rqTail
  code : s.fwField 0 = code
  clear : s.fwField 2 = 0 ∧ s.fwField 6 = 0

/-- A job as JOB_OPEN makes it. -/
def newJob (job : BitVec 16) (root : Nat) (key : BitVec 32) : Job := ⟨job, root, key, true, [], [], [], none⟩

/-- The leaf is one that R185 and R201 let firmware install at `va`. -/
structure Installable (s : State) (job : BitVec 16) (va : DWord) (e : BitVec 128) (shift : Nat) : Prop where
  size : pteSz e = 0 ∧ shift = 16 ∨ pteSz e = 1 ∧ shift = 21 ∨ pteSz e = 2 ∧ shift = 30
  valid : leafValid shift e = true
  plain : ¬(pteKy e = true ∧ pteRole e = true)
  aligned : va.toNat % sizeOfSz (pteSz e) = 0 ∧ canonical va = true
  inside : ∀ x ∈ s.leafPart shift e, x.1 + x.2 ≤ s.capacity ∧ s.holdsNode x = false
  sharded : pteShst e ≠ shPrivate → pteShst e = shSharded ∧ (pteRole e = true → pteFmt e = 1 ∨ pteFmt e = 2 ∨ pteFmt e = 3 ∨ pteFmt e = 8)
    ∧ (pteRole e = false → pteW e = false) ∧ ∃ g, s.group? (pteSgid e) = some g ∧ g.flags.getLsbD 0 = true ∧ g.flags.getLsbD 1 = true ∧ g.job = job

/-! ## Words that the manual's encodings give (05 R79 to R85) -/

/-- The words decode to the instruction. -/
def Reads1 (w e : Word) (i : Instr) : Prop := decodeWords w e = .ok i

/-! ## A fetched instruction (05 R73 to R78; 06 R111; 18 R339) -/

/-- The packet of three words at bytes `a` of HBM. -/
def packetAt (s : State) (a : Nat) : Vector Word 3 :=
  #v[ofBytes 32 (s.mem.hbm.getN a 4), ofBytes 32 (s.mem.hbm.getN (a + 4) 4), ofBytes 32 (s.mem.hbm.getN (a + 8) 4)]

/-- The packet of the program counter lies at bytes `a` of HBM on code pages and is in order. -/
structure CodeAt (s : State) (job : BitVec 16) (k : Kernel) (pc : DWord) (a : Nat) : Prop where
  inside : k.inside pc = true
  pages : s.codeTrap job (k.packet pc) = none ∧ s.codeTrap job (k.packet pc + 11) = none
  place : ∀ j, j < 3 → s.codePlace job (k.packet pc + BitVec.ofNat 64 (4 * j)) = some (.hbm (a + 4 * j))
  sound : ∀ j, j < 3 → s.isPoisoned (.hbm (a + 4 * j)) 4 = false

/-- The slot of the program counter in its packet. -/
def slotOf (k : Kernel) (pc : DWord) : Nat := (pc.toNat - (k.packet pc).toNat) / 4

/-- After an instruction, no fragment executes. -/
def settledCtl (t : State) : State := { t with ctl := { t.ctl with cur := none, chainFault := false, retired := false, consuming := none } }

/-- The step without the first item of the agenda. -/
def begunStep (s : State) (rest : List Todo) : State := { s with ctl := { s.ctl with agenda := rest } }

end Sys2Proof.Claim

open Sys2Proof Sys2Proof.Machine Sys2Proof.Claim

/-- 07 R118 to R122, R125, R126, R130: each of these instructions completes, its result stands in V[d] of the active lanes, and nothing
else of the state changes but the program counter; BFX and BFI bit by bit. -/
def Obligations.IntegerResults : Prop :=
  (∀ (i : Instr) (r : VecRow), IntegerRow i r →
     ∀ s f w b g, Runs s f w b g → HasV b (r.d :: r.reads) →
       exec i s = .next (retired s w f (.vec r.d 1) (f.setV r.d (activeMask f r.h) (r.result f)) (onward f r.words)))
  ∧ (∀ h d a b' pos len sg s f w b g, Runs s f w b g → HasV b [d, a, b'] → 1 ≤ len.toNat → len.toNat ≤ 32 →
     (∃ x : Nat → Word, (∀ l i, i < 32 → (x l).getLsbD i = bfxBit pos len sg (f.getV a l) i) ∧
       exec (.bfx h d a pos len sg) s = .next (retired s w f (.vec d 1) (f.setV d (activeMask f h) x) (onward f 2)))
     ∧ (∃ x : Nat → Word, (∀ l i, i < 32 → (x l).getLsbD i = bfiBit pos len (f.getV a l) (f.getV b' l) i) ∧
       exec (.bfi h d a b' pos len) s = .next (retired s w f (.vec d 1) (f.setV d (activeMask f h) x) (onward f 2))))

/-- 07 R123, R124, R132, R146, 08 R168: each of these instructions completes and writes its result into P[d] of
the active lanes. -/
def Obligations.PredicateResults : Prop :=
  ∀ (i : Instr) (r : PredRow), PredicateRow i r →
    ∀ s f w b g, Runs s f w b g → HasV b r.readsV → HasU b r.readsU →
      ∃ m : Mask, (∀ l, (activeMask f r.h).getLsbD l → (m.getLsbD l = true ↔ r.result f (activeMask f r.h) l)) ∧
        exec i s = .next (retired s w f (.pred r.d) (f.setP r.d (activeMask f r.h) m) (onward f r.words))

/-- 07 R144, R145: each uniform instruction completes and writes its result into S[d] (nothing where d is
s63: RegisterFiles). -/
def Obligations.UniformResults : Prop :=
  ∀ (i : Instr) (r : UniRow), UniformRow i r →
    ∀ s f w b g, Runs s f w b g → HasU b (r.d :: r.reads) →
      exec i s = .next (retired s w f (.uni r.d) (f.setU r.d (r.result f)) (onward f r.words))

/-- 05 R81, 06 R94, R95: s63 reads zero and ignores writes, predicate 7 reads true, a write changes the named lanes of the
named register and nothing else, and an instruction that retires leaves every other fragment, memory and every other agent as they stand. -/
def Obligations.RegisterFiles : Prop :=
  (∀ f : Frag,
        f.getU 63 = 0 ∧ (∀ x, f.setU 63 x = f) ∧ f.getP 7 = 0xFFFFFFFF#32 ∧ (∀ m x, f.setP 7 m x = f)
      ∧ (∀ r x, r ≠ 63#6 → ∀ k, (f.setU r x).getU k = if k = r then x else f.getU k)
      ∧ (∀ r m g k l, l < 32 → (f.setV r m g).getV k l = if k = r ∧ m.getLsbD l then g l else f.getV k l)
      ∧ (∀ r m x k l, r ≠ 7#3 → l < 32 →
          (((f.setP r m x).getP k).getLsbD l = if k = r ∧ m.getLsbD l then x.getLsbD l else (f.getP k).getLsbD l)))
  ∧ (∀ (s : State) w f dst f' pc, let t := retired s w f dst f' pc
      t.mem = s.mem ∧ t.sync = s.sync ∧ t.fab = s.fab ∧ t.coll = s.coll ∧ t.power = s.power ∧ t.fw = s.fw ∧ t.repair = s.repair
      ∧ t.work.warps = s.work.warps ∧ t.work.blocks = s.work.blocks ∧ t.work.grids = s.work.grids ∧ t.work.jobs = s.work.jobs
      ∧ ∀ x ∈ s.work.frags, x.id ≠ f'.id → x ∈ t.work.frags)

/-- 02 R28, 04 R65, R66, 06 R96, 07 R142, R143, R147, R148, 18 R324: SRR gives every warp- and block-scope register in 64 bits, VSRR its low 32 bits or
each lane's own register; what SRW and VSRW write, and the registers they do not; a selector that names no register of the instruction's scope
traps ILLEGAL_OP. -/
def Obligations.SpecialRegisters : Prop :=
  (∀ s f w b g, Runs s f w b g →
     (∀ c d x, x ∈ specialValues s f w b g → HasU b [d] →
       exec (.srr c d x.1) s = .next (retired s w f (.uni d) (f.setU d x.2) (onward f 2)))
     ∧ (∀ h d x, x ∈ specialValues s f w b g → HasV b [d] →
       exec (.vsrr h d x.1) s = .next (retired s w f (.vec d 1) (f.setV d (activeMask f h) (fun _ => x.2.setWidth 32)) (onward f 1)))
     ∧ (∀ h d sl, sl ∈ [0x000#12, 0x001, 0x002, 0x022, 0x038, 0x070] → HasV b [d] →
       ∃ v : Nat → Word, (∀ l t, w.threads.toList.getD l none = some t → (sl, v l) ∈ laneValues t l) ∧
         exec (.vsrr h d sl) s = .next (retired s w f (.vec d 1) (f.setV d (activeMask f h) v) (onward f 1))))
  ∧ (∀ s f w b g, Runs s f w b g → ∀ c a, HasU b [a] →
     (exec (.srw c a 0x020) s = .next (retired s w f .none { f with fflags := (f.getU a).setWidth 6 &&& 0x1F } (onward f 2)))
     ∧ (exec (.srw c a 0x021) s = .next (retired s w f .none { f with mflags := (f.getU a).setWidth 6 &&& 0x37 } (onward f 2)))
     ∧ (exec (.srw c a 0x030) s = .next (retired (s.setWarp { w with tvec := f.getU a }) w f .none f (onward f 2)))
     ∧ (exec (.srw c a 0x060) s = .next (retired (s.setBlock { b with pantimer := BitVec.ofNat 16 (max 16 ((f.getU a).toNat % 65536)) })
         w f .none f (onward f 2)))
     ∧ (exec (.srw c a 0x071) s = .next (retired (s.setWarp { w with mstfail := w.mstfail &&& ~~~(f.getU a &&& ~~~(if w.mstNew.2 = s.cycle then w.mstNew.1 else 0)) })
         w f .none f (onward f 2)))
     ∧ (exec (.srw c a 0x031) s = .next (if f.handler then
           retired (s.setWarp { w with frame := { w.frame with tpc := f.getU a } }) w f .none f (onward f 2)
         else plainTrap s f w b .privilege f.mask))
     ∧ (∀ sl, sl ∈ [0x003#12, 0x004, 0x005, 0x006, 0x007, 0x008, 0x009, 0x00A, 0x00B, 0x00C, 0x010, 0x011, 0x032, 0x033, 0x034,
           0x035, 0x036, 0x037, 0x040, 0x041, 0x050] →
         exec (.srw c a sl) s = .next (plainTrap s f w b .privilege f.mask))
     ∧ (∀ h d, HasV b [d] →
         (∀ sl, sl ∈ [0x022#12, 0x038] →
           exec (.vsrw h d sl) s = .next (retired (s.setWarp { w with threads := Vector.ofFn (fun (l : Fin 32) =>
             (w.threads[l]).map (fun t => if (activeMask f h).getLsbD l then
               (if sl = 0x022 then { t with xen := f.getV d l &&& 0x1F } else { t with tsub := f.getV d l }) else t)) })
             w f .none f (onward f 1)))
         ∧ (∀ sl, sl ∈ [0x000#12, 0x001, 0x002, 0x070] → activeMask f h ≠ 0 →
           exec (.vsrw h d sl) s = .next (plainTrap s f w b .privilege (activeMask f h)))
         ∧ (∀ sl, sl ∈ [0x000#12, 0x001, 0x002, 0x070] → activeMask f h = 0 → exec (.vsrw h d sl) s = .next (retired s w f .none f (onward f 1)))))
  ∧ (∀ s f w b g, Runs s f w b g → ∀ sl : BitVec 12,
     let laneScope := sl ∈ [0x000#12, 0x001, 0x002, 0x022, 0x038, 0x070]
     let warpScope := ∃ x, (sl, x) ∈ specialValues s f w b g
     (¬warpScope → (∀ c d, exec (.srr c d sl) s = .next (s.takeTrap f w b ⟨.illegalOp, f.mask, 0, BitVec.ofNat 64 (2 + 16 * d.toNat)⟩))
       ∧ ∀ c a, exec (.srw c a sl) s = .next (plainTrap s f w b .illegalOp f.mask))
     ∧ (¬laneScope → ∀ h d, exec (.vsrw h d sl) s = .next (plainTrap s f w b .illegalOp f.mask))
     ∧ (¬warpScope → ¬laneScope → ∀ h d, exec (.vsrr h d sl) s = .next (s.takeTrap f w b ⟨.illegalOp, f.mask, 0, BitVec.ofNat 64 (1 + 16 * d.toNat)⟩)))

/-- 02 R16, R17, R28, R29, R31, 07 R127 to R129, R133, R134, R136 to R138, R140, R141: a floating-point instruction that raises nothing
enabled writes its results into V[d] of the active lanes and merges its flags into %fflags; what its sums, products, scalings, extremes and
conversions are over the rationals. -/
def Obligations.FloatResults : Prop :=
  (∀ (i : Instr) (r : FpRow), FloatRow i r →
    ∀ s f w b g, Runs s f w b g → HasV b (r.d :: r.reads) →
      let act := activeMask f r.h
      let out := r.result f act
      Quiet w f act (fun l => (out l).2) →
      exec i s = .next (retired s w f (.vec r.d 1)
        { (f.setV r.d act (fun l => BitVec.ofNat 32 (out l).1)) with fflags := f.fflags ||| joined act (fun l => (out l).2) }
        (onward f r.words)))
  ∧ SumsExact ∧ ProductsExact ∧ ScalingExact ∧ ExtremesExact
  ∧ fmtOf 1 = ⟨32, 23, 8, 127, false⟩ ∧ fmtOf 2 = ⟨16, 7, 8, 127, false⟩ ∧ fmtOf 3 = ⟨16, 10, 5, 15, false⟩ ∧ fmtOf 4 = ⟨8, 3, 4, 7, true⟩
  ∧ fmtOf 5 = ⟨8, 2, 5, 15, false⟩
  ∧ (∀ (src dst : BitVec 4) m sat x,
      (∀ v, 1 ≤ src.toNat → src.toNat ≤ 5 → v = (fmtOf src).decode (x.toNat % 2 ^ (fmtOf src).width) →
        (1 ≤ dst.toNat → dst.toNat ≤ 5 → convert src dst m sat x = (fmtOf dst).round m sat v)
        ∧ (6 ≤ dst.toNat → dst.toNat ≤ 9 →
          (v.isNan = true → convert src dst m sat x = (0, Flags.nv))
          ∧ (∀ s, v = .inf s → convert src dst m sat x = (laneOf dst (if s then leastOf dst else mostOf dst), Flags.nv))
          ∧ (∀ s n e r, v = .fin s n e → IntRounds m (val v) r → convert src dst m sat x =
              (laneOf dst (max (leastOf dst) (min (mostOf dst) r)),
                if r < leastOf dst ∨ mostOf dst < r then Flags.nv else if (r : ℚ) = val v then 0 else Flags.nx))))
      ∧ (∀ v, 6 ≤ src.toNat → src.toNat ≤ 9 → v = integerOf src x →
        (1 ≤ dst.toNat → dst.toNat ≤ 5 → convert src dst m sat x = (fmtOf dst).round m sat (.fin (decide (v < 0)) v.natAbs 0))
        ∧ (6 ≤ dst.toNat → dst.toNat ≤ 9 → convert src dst m sat x =
            (laneOf dst (if sat then max (leastOf dst) (min (mostOf dst) v) else v), 0))))
  ∧ (∀ (dst : BitVec 4) m sat (hi : Bool) (x y old : Word),
      let p := convert 1 dst m sat x
      let q := convert 1 dst m sat y
      let r := packPair dst m sat hi x y old
      let out : Word := BitVec.ofNat 32 r.1
      r.2 = p.2 ||| q.2
      ∧ (dst = 2 ∨ dst = 3 → out.extractLsb' 0 16 = BitVec.ofNat 16 p.1 ∧ out.extractLsb' 16 16 = BitVec.ofNat 16 q.1)
      ∧ (4 ≤ dst.toNat → dst.toNat ≤ 7 → let at' := if hi then 16 else 0
          out.extractLsb' at' 8 = BitVec.ofNat 8 p.1 ∧ out.extractLsb' (at' + 8) 8 = BitVec.ofNat 8 q.1
          ∧ out.extractLsb' (16 - at') 16 = old.extractLsb' (16 - at') 16))
  ∧ (∀ (idx : BitVec 3) (x : Word),
      let byte := x.toNat / 256 ^ idx.toNat % 256
      ((unpackElement 10 idx x).2 = 0 ∧ val (Fmt.fp32.decode (unpackElement 10 idx x).1) = codeValue 0 (x.toNat / 16 ^ idx.toNat % 16))
      ∧ (idx.toNat < 4 → unpackElement 6 idx x = (((BitVec.ofNat 8 byte).signExtend 32).toNat, 0) ∧ unpackElement 7 idx x = (byte, 0))
      ∧ (∀ src v, (src = 2 ∨ src = 3) ∧ idx.toNat < 2 ∧ v = (fmtOf src).decode (x.toNat / 65536 ^ idx.toNat % 65536)
          ∨ (src = 4 ∨ src = 5) ∧ idx.toNat < 4 ∧ v = (fmtOf src).decode byte →
          Widened (unpackElement src idx x).1 v ∧ (unpackElement src idx x).2 = if v.isSnan then Flags.nv else 0))
  ∧ (∀ (m : Rm) (x : Word),
      (∀ nv, fp32 x = .nan nv → fpIntegral m x = (0x7FC00000, if nv then Flags.nv else 0)) ∧ (∀ s, fp32 x = .inf s → fpIntegral m x = (x.toNat, 0))
      ∧ (∀ s n e, fp32 x = .fin s n e → (fpIntegral m x).2 = 0 ∧ ∃ (z : ℤ) (n' : Nat) (e' : ℤ), IntRounds m (val (fp32 x)) z
          ∧ Fmt.fp32.decode (fpIntegral m x).1 = .fin s n' e' ∧ val (.fin s n' e') = z))
  ∧ (∀ (type : BitVec 2) (xs : List Fv), let e := blockScale type xs
      (xs.any Fv.isNan = true → e = 63)
      ∧ (xs.any Fv.isNan = false → e ≤ 62 ∧ (∀ e', e' < e → ¬Covers type xs e') ∧ (e < 62 → Covers type xs e)))
  ∧ (∀ (type : BitVec 2) (e : Nat), e ≤ 62 →
      (∀ s n k, let r := encodeLane type e (.fin s n k)
        let x := val (.fin s n k) * 2 ^ (31 - (e : ℤ))
        let sided := fun (c : Nat) => c < 16 ∧ (type ≠ 0 → c / 8 = if s then 1 else 0)
        sided r.1 ∧ (∀ c, sided c → |codeValue type r.1 - x| ≤ |codeValue type c - x|)
        ∧ (∀ c, sided c → c ≠ r.1 → |codeValue type r.1 - x| = |codeValue type c - x| → r.1 % 2 = 0)
        ∧ r.2 = if codeValue type r.1 = x then 0 else Flags.nx)
      ∧ (∀ s, (encodeLane type e (.inf s)).1 = if type = 0 then (if s then 0 else 15) else if s then 15 else 7))
  ∧ (∀ (type : BitVec 2) x, (encodeLane type 63 x).1 = 0)

/-- 07 R131: FCMP, its encoding and its pipe, the eight comparisons of reals, what it writes, the NV it merges, and its trap. -/
def Obligations.FloatComparison : Prop :=
  (∀ h d a b' c, let w : Word := BitVec.ofBool h.chain ++ 0x28#7 ++ h.g ++ BitVec.ofBool h.neg ++ 0#3 ++ d ++ a ++ b' ++ 0#2
      (Instr.fcmp h d a b' c).encode = [w, 0#6 ++ 0#23 ++ c] ∧ pipeOf w = .valu)
  ∧ (∀ s n e t m d, (Fv.fin s n e).lt (.fin t m d) = true ↔ (if s then -1 else 1) * (n : ℚ) * 2 ^ e < (if t then -1 else 1) * (m : ℚ) * 2 ^ d)
  ∧ (∀ s n e, (Fv.inf true).lt (.fin s n e) = true ∧ (Fv.fin s n e).lt (.inf true) = false ∧ (Fv.fin s n e).lt (.inf false) = true
      ∧ (Fv.inf false).lt (.fin s n e) = false ∧ (Fv.inf true).lt (.inf false) = true ∧ (Fv.inf false).lt (.inf true) = false)
  ∧ (∀ (x y : Fv),
      let un := x.isNan || y.isNan
      let q := if x.isSnan || y.isSnan then Flags.nv else 0
      let n := if un then Flags.nv else 0
      fpCompare 0 x y = (!un && (!x.lt y && !y.lt x), q)
      ∧ fpCompare 1 x y = (un || x.lt y || y.lt x, q)
      ∧ fpCompare 2 x y = (!un && x.lt y, n)
      ∧ fpCompare 3 x y = (!un && !y.lt x, n)
      ∧ fpCompare 4 x y = (!un && y.lt x, n)
      ∧ fpCompare 5 x y = (!un && !x.lt y, n)
      ∧ fpCompare 6 x y = (un, q)
      ∧ fpCompare 7 x y = (!un, q))
  ∧ (∀ s f w b g, Runs s f w b g → ∀ h d a b' c, HasV b [a, b'] →
      let act := activeMask f h
      let out := fun l => fpCompare c (fp32 (f.getV a l)) (fp32 (f.getV b' l))
      (Quiet w f act (fun l => (out l).2) →
        exec (.fcmp h d a b' c) s = .next (retired s w f (.pred d)
          { (f.setP d act (maskOf (fun l => (out l).1))) with fflags := f.fflags ||| joined act (fun l => (out l).2) } (onward f 2)))
      ∧ (f.handler = false → (∃ l, l < 32 ∧ act.getLsbD l ∧ enabled w l (out l).2 4 = true) →
        ∃ lanes : Mask, (∀ l, l < 32 → (lanes.getLsbD l = true ↔ act.getLsbD l ∧ enabled w l (out l).2 4 = true)) ∧
          exec (.fcmp h d a b' c) s = .next (s.takeTrap f w b ⟨.fpInvalid, lanes, 0,
            BitVec.ofNat 64 (3 + 16 * d.toNat) ||| (((joined act (fun l => (out l).2)) &&& 0x1F).setWidth 64 <<< 16)⟩)))

/-- 02 R28, 18 R323, R327: a floating-point instruction some active lane of which raises an exception with its %xen
bit set traps with the first such exception of the priority order, for exactly the lanes that raised it so, and
commits nothing; %tinfo holds the destination and the OR of the flags. 08 R166, R167: REDW, whose flags are of the instruction as a whole, and
SCANW, whose total never traps, likewise. -/
def Obligations.FloatTraps : Prop :=
  (∀ s f w b g, Runs s f w b g → f.handler = false → ∀ (h : Head) (d a e : BitVec 6) (op : RedOp) (mm ln : Bool), HasV b [a] → (mm = true → HasU b [e]) →
    Present w f mm ln e →
    let act := activeMask f h
    let m := memberMask f mm e
    let traps := fun (i : Instr) (dst : Nat) (fl : Nat → Flags) => ∀ k, k ≤ 4 → (∃ l, l < 32 ∧ act.getLsbD l ∧ enabled w l (fl l) k = true) →
      (∀ k' l, k < k' → k' ≤ 4 → act.getLsbD l → enabled w l (fl l) k' = false) →
      ∃ lanes : Mask, (∀ l, l < 32 → (lanes.getLsbD l = true ↔ act.getLsbD l ∧ enabled w l (fl l) k = true)) ∧
        exec i s = .next (s.takeTrap f w b ⟨fpCause k, lanes, 0, BitVec.ofNat 64 (dst + 16 * d.toNat) ||| (((joined act fl) &&& 0x1F).setWidth 64 <<< 16)⟩)
    (HasU b [d] → traps (.redw h d a e op mm ln) 2 (fun _ => (reduce op (given f act m a (fun _ => true)) (someIdle act m (fun _ => true))).2))
    ∧ (∀ b' ex, HasV b [d] → HasU b [b'] → let upTo := fun l j => if ex then decide (j < l) else decide (j ≤ l)
      traps (.scanw h d a b' e op ex mm ln) 1 (fun l => (reduce op (given f act m a (upTo l)) (someIdle act m (upTo l))).2)))
  ∧ ∀ (i : Instr) (r : FpRow), FloatRow i r →
    ∀ s f w b g, Runs s f w b g → HasV b (r.d :: r.reads) → f.handler = false →
      let act := activeMask f r.h
      let fl := fun l => (r.result f act l).2
      ∀ e, e ≤ 4 → (∃ l, l < 32 ∧ act.getLsbD l ∧ enabled w l (fl l) e = true) →
        (∀ e' l, e < e' → e' ≤ 4 → act.getLsbD l → enabled w l (fl l) e' = false) →
        ∃ lanes : Mask, (∀ l, l < 32 → (lanes.getLsbD l = true ↔ act.getLsbD l ∧ enabled w l (fl l) e = true)) ∧
          exec i s = .next (s.takeTrap f w b ⟨fpCause e, lanes, 0,
            BitVec.ofNat 64 (1 + 16 * r.d.toNat) ||| (((joined act fl) &&& 0x1F).setWidth 64 <<< 16)⟩)

/-- 02 R14, R26: every pattern that is no NaN is the rounding of its own value, exactly and without flags, in each
format, mode and saturation. -/
def Obligations.RoundingFixesPatterns : Prop :=
  (∀ (k : Fmt), k ∈ [Fmt.fp32, .bf16, .fp16, .e4m3, .e5m2] → ∀ (m : Rm) (sat : Bool),
    (∀ x, x < 2 ^ k.width → (k.decode x).isNan = false → k.round m sat (k.decode x) = (x, 0))
    ∧ (∀ nv, k.round m sat (.nan nv) = (k.canonicalNan, if nv then Flags.nv else 0))
    ∧ (∀ s, k.round m sat (.inf s) = if k.fn then (k.signBit s + k.maxFinite + (if sat then 0 else 1), Flags.of ||| Flags.nx)
        else (k.signBit s + k.maxFinite + 1, 0))
    ∧ (∀ (s : Bool) (n : Nat) (e : ℤ), 0 < n →
        let a : ℚ := n * 2 ^ e
        let r := k.round m sat (.fin s n e)
        (TooLarge k m s a →
          ((sat = true ∨ (k.fn = false ∧ Inward m s)) → r = (k.signBit s + k.maxFinite, Flags.of ||| Flags.nx))
          ∧ (sat = false → (k.fn = true ∨ ¬Inward m s) → r = (k.signBit s + k.maxFinite + 1, Flags.of ||| Flags.nx)))
        ∧ (¬TooLarge k m s a → ∃ x, Rounds k m s a x ∧ r = (k.signBit s + x,
            if mag (k.decode x) = a then 0 else if a < 2 ^ (1 - (k.bias : ℤ)) then Flags.uf ||| Flags.nx else Flags.nx))))
  ∧ Fmt.fp32.canonicalNan = 0x7FC00000 ∧ Fmt.bf16.canonicalNan = 0x7FC0 ∧ Fmt.fp16.canonicalNan = 0x7E00 ∧ Fmt.e4m3.canonicalNan = 0x7F ∧ Fmt.e5m2.canonicalNan = 0x7E
  ∧ Fmt.fp32.maxFinite = 0x7F7FFFFF ∧ Fmt.bf16.maxFinite = 0x7F7F ∧ Fmt.fp16.maxFinite = 0x7BFF ∧ Fmt.e4m3.maxFinite = 0x7E ∧ Fmt.e5m2.maxFinite = 0x7B

/-- 02 R21, R22, R30, 07 R139: what the special functions give for a NaN, an infinity, a zero and a negative operand, and QDEC, which decodes a
code of a block under its scale and raises nothing. What RCP, RSQ and SQRT give for a finite operand is the exact function rounded once; EXP2,
LOG2, SINP, COSP and TANH give that too wherever all reals near the exact value round alike, and else the rounding of a real near it: the
model's choice (log 12). -/
def Obligations.SpecialOperandsAndCodes : Prop :=
  ((∀ x, (fp32 x).isNan = true → ∀ g, g ∈ [sfuRcp, sfuRsq, sfuSqrt, sfuExp2, sfuLog2, sfuSinp, sfuCosp, sfuTanh] →
     g x = (0x7FC00000, if (fp32 x).isSnan then Flags.nv else 0))
   ∧ sfuRcp 0x00000000 = (0x7F800000, Flags.dz) ∧ sfuRcp 0x80000000 = (0xFF800000, Flags.dz)
   ∧ sfuRcp 0x7F800000 = (0x00000000, 0) ∧ sfuRcp 0xFF800000 = (0x80000000, 0)
   ∧ sfuRsq 0x00000000 = (0x7F800000, Flags.dz) ∧ sfuRsq 0x80000000 = (0xFF800000, Flags.dz) ∧ sfuRsq 0x7F800000 = (0, 0)
   ∧ sfuSqrt 0x00000000 = (0, 0) ∧ sfuSqrt 0x80000000 = (0x80000000, 0) ∧ sfuSqrt 0x7F800000 = (0x7F800000, 0)
   ∧ sfuExp2 0xFF800000 = (0, 0) ∧ sfuExp2 0x7F800000 = (0x7F800000, 0)
   ∧ sfuLog2 0x00000000 = (0xFF800000, Flags.dz) ∧ sfuLog2 0x80000000 = (0xFF800000, Flags.dz)
   ∧ sfuExp2 0x00000000 = (0x3F800000, 0) ∧ sfuExp2 0x80000000 = (0x3F800000, 0)
   ∧ sfuLog2 0x7F800000 = (0x7F800000, 0)
   ∧ sfuSinp 0x00000000 = (0, 0) ∧ sfuSinp 0x80000000 = (0x80000000, 0) ∧ sfuCosp 0x00000000 = (0x3F800000, 0) ∧ sfuCosp 0x80000000 = (0x3F800000, 0)
   ∧ (∀ g, g ∈ [sfuSinp, sfuCosp] → g 0x7F800000 = (0x7FC00000, Flags.nv) ∧ g 0xFF800000 = (0x7FC00000, Flags.nv))
   ∧ sfuTanh 0x00000000 = (0, 0) ∧ sfuTanh 0x80000000 = (0x80000000, 0) ∧ sfuTanh 0x7F800000 = (0x3F800000, 0) ∧ sfuTanh 0xFF800000 = (0xBF800000, 0)
   ∧ (∀ x, (fp32 x).isNan = false → (fp32 x).isNeg = true → (fp32 x).isZero = false →
       sfuRsq x = (0x7FC00000, Flags.nv) ∧ sfuSqrt x = (0x7FC00000, Flags.nv) ∧ sfuLog2 x = (0x7FC00000, Flags.nv)))
  ∧ (∀ (x : Word) s n e, fp32 x = .fin s n e → n ≠ 0 →
      let v : ℝ := ((val (.fin s n e) : ℚ) : ℝ)
      RealRounds s |1 / v| (sfuRcp x)
      ∧ (s = false → RealRounds false (1 / Real.sqrt v) (sfuRsq x) ∧ RealRounds false (Real.sqrt v) (sfuSqrt x) ∧ Approaches (Real.logb 2 v) (sfuLog2 x))
      ∧ Approaches ((2 : ℝ) ^ v) (sfuExp2 x) ∧ Approaches (Real.tanh v) (sfuTanh x)
      ∧ (if Real.sin (Real.pi * v) = 0 then sfuSinp x = (Fmt.fp32.signBit s, 0) else Approaches (Real.sin (Real.pi * v)) (sfuSinp x))
      ∧ (if Real.cos (Real.pi * v) = 0 then sfuCosp x = (0, 0) else Approaches (Real.cos (Real.pi * v)) (sfuCosp x)))
  ∧ (∀ s f w b g, Runs s f w b g →
     ∀ h d a b' idx, HasV b [d, a, b'] →
       exec (.qdec h d a b' idx) s = .next (retired s w f (.vec d 1)
         (f.setV d (activeMask f h) (fun l =>
           BitVec.ofNat 32 (Fmt.fp32.round .rne false
             (q4Decode ((f.getV b' l).extractLsb' 0 8) ((f.getV a l).extractLsb' (4 * idx.toNat) 4))).1))
         (onward f 2)))

/-- 08 R160 to R164, R168: SHFL, VOTE, RDLANE and BCAST complete with the lanes the tables give, when the instruction is lenient or no member is
absent; SHFL, VOTE, REDW and SCANW without .lenient trap MEMBER_ABSENT when a member holds a live thread of another fragment. -/
def Obligations.LaneExchanges : Prop :=
  (∀ s f w b g, Runs s f w b g →
     (∀ h d a b' e seg edge ln mm imm im mode, HasV b [d, a, b'] → (mm = true → HasU b [e]) → seg.toNat ≤ 4 → Present w f mm ln e →
       exec (.shfl h d a b' e seg edge ln mm imm im mode) s = .next (retired s w f (.vec d 1)
         (f.setV d (activeMask f h) (fun l => shflLane w f (activeMask f h) (memberMask f mm e) a mode edge (32 / 2 ^ seg.toNat) l
           (if im then imm.toNat else (f.getV b' l).toNat))) (onward f 2)))
     ∧ (∀ h d a e mode mm ln, (mode = .ballot → HasU b [d]) → (mm = true → HasU b [e]) → Present w f mm ln e →
       let act := activeMask f h
       let m := memberMask f mm e
       let x := fun l => m.getLsbD l && act.getLsbD l && (f.getP a).getLsbD l
       let gives := fun (v : Bool) => exec (.vote h d a e mode mm ln) s =
         .next (retired s w f (.pred (d.setWidth 3)) (f.setP (d.setWidth 3) act (if v then 0xFFFFFFFF else 0)) (onward f 2))
       (mode = .any → gives ((List.range 32).any x))
       ∧ (mode = .all → gives ((List.range 32).all (fun l => !m.getLsbD l || x l)))
       ∧ (mode = .eq → gives ((List.range 32).all (fun l => !m.getLsbD l || x l) || (List.range 32).all (fun l => !x l)))
       ∧ (mode = .ballot → ∃ k : DWord, (∀ l, l < 64 → k.getLsbD l = (decide (l < 32) && x l)) ∧
           exec (.vote h d a e mode mm ln) s = .next (retired s w f (.uni d) (f.setU d k) (onward f 2))))
     ∧ (∀ h d a lane, HasV b [a] → HasU b [d] →
       exec (.rdlane h d a lane) s = .next (retired s w f (.uni d)
         (if activeMask f h = 0 then f else f.setU d (BitVec.ofNat 64 (f.getV a lane.toNat).toNat)) (onward f 1)))
     ∧ (∀ h d a lane, HasV b [d, a] →
       exec (.bcast h d a lane) s = .next (retired s w f (.vec d 1)
         (f.setV d (activeMask f h) (fun _ => f.getV a lane.toNat)) (onward f 1))))
  ∧ (∀ s f w b g, Runs s f w b g → ∀ (i : Instr) (h : Head) (mm : Bool) (e : BitVec 6) (dst : Dst),
     ((∃ d a b' seg edge imm im mode, i = .shfl h d a b' e seg edge false mm imm im mode ∧ HasV b [d, a, b'] ∧ dst = .vec d 1)
       ∨ (∃ d a, i = .vote h d a e .ballot mm false ∧ HasU b [d] ∧ dst = .uni d)
       ∨ (∃ d a mode, i = .vote h d a e mode mm false ∧ mode ≠ .ballot ∧ dst = .pred (d.setWidth 3))
       ∨ (∃ d a op, i = .redw h d a e op mm false ∧ HasV b [a] ∧ HasU b [d] ∧ dst = .uni d)
       ∨ (∃ d a b' op ex, i = .scanw h d a b' e op ex mm false ∧ HasV b [d, a] ∧ HasU b [b'] ∧ dst = .vec d 1)) →
     (mm = true → HasU b [e]) → (∃ l, l < 32 ∧ Absent w f (memberMask f mm e) l) →
     ∃ gone : Mask, (∀ l, l < 32 → (gone.getLsbD l = true ↔ Absent w f (memberMask f mm e) l)) ∧
       exec i s = .next (s.takeTrap f w b ⟨.memberAbsent, activeMask f h, 0,
         BitVec.ofNat 64 (dst.descriptor.toNat + 2 ^ 32 * gone.toNat)⟩))

/-- 08 R160, R165 to R167: REDW and SCANW complete with the reduction of what the members give, when the instruction
is lenient or no member is absent and nothing enabled is raised. -/
def Obligations.Reductions : Prop :=
  (∀ s f w b g, Runs s f w b g → ∀ (h : Head) (d a e : BitVec 6) (op : RedOp) (mm ln : Bool), HasV b [a] → (mm = true → HasU b [e]) →
    Present w f mm ln e →
    let act := activeMask f h
    let m := memberMask f mm e
    let total := reduce op (given f act m a (fun _ => true)) (someIdle act m (fun _ => true))
    (HasU b [d] → Quiet w f act (fun _ => total.2) → exec (.redw h d a e op mm ln) s =
      .next (retired s w f (.uni d) { (f.setU d (BitVec.ofNat 64 total.1)) with fflags := f.fflags ||| joined act (fun _ => total.2) }
        (onward f 2)))
    ∧ (∀ b' ex, HasV b [d] → HasU b [b'] →
      let upTo := fun l j => if ex then decide (j < l) else decide (j ≤ l)
      let lane := fun l => reduce op (given f act m a (upTo l)) (someIdle act m (upTo l))
      Quiet w f act (fun l => (lane l).2) → exec (.scanw h d a b' e op ex mm ln) s =
        .next (retired s w f (.vec d 1)
          { ((f.setV d act (fun l => BitVec.ofNat 32 (lane l).1)).setU b' (BitVec.ofNat 64 total.1)) with
            fflags := f.fflags ||| joined act (fun l => (lane l).2) ||| total.2 } (onward f 2))))
  ∧ (∀ (xs : List Word) (others : Bool),
    let r := fun op => reduce op xs others
    r .addI32 = ((xs.map BitVec.toNat).sum % 2 ^ 32, 0)
    ∧ ((r .and).2 = 0 ∧ (r .or).2 = 0 ∧ (r .xor).2 = 0 ∧ ∀ i, i < 32 →
        (r .and).1.testBit i = xs.all (fun x => x.getLsbD i) ∧ (r .or).1.testBit i = xs.any (fun x => x.getLsbD i)
        ∧ (r .xor).1.testBit i = decide ((xs.countP (fun x => x.getLsbD i)) % 2 = 1))
    ∧ (xs = [] → r .addF32 = (0, 0) ∧ r .maxI = (0x80000000, 0) ∧ r .maxN = (0, 0) ∧ r .minI = (0x7FFFFFFF, 0) ∧ r .minN = (0xFFFFFFFF, 0)
        ∧ r .maxF32 = (0xFF800000, 0) ∧ r .minF32 = (0x7F800000, 0))
    ∧ (xs ≠ [] → r .addF32 = Fmt.fp32.round .rne false (sumFv .rne (xs.map fp32 ++ (if others then [fp32 0] else [])))
        ∧ (∃ x ∈ xs, r .maxI = (x.toNat, 0) ∧ ∀ y ∈ xs, y.toInt ≤ x.toInt) ∧ (∃ x ∈ xs, r .minI = (x.toNat, 0) ∧ ∀ y ∈ xs, x.toInt ≤ y.toInt)
        ∧ (∃ x ∈ xs, r .maxN = (x.toNat, 0) ∧ ∀ y ∈ xs, y.toNat ≤ x.toNat) ∧ (∃ x ∈ xs, r .minN = (x.toNat, 0) ∧ ∀ y ∈ xs, x.toNat ≤ y.toNat)
        ∧ (let fl := if xs.any (fun x => (fp32 x).isSnan) then Flags.nv else 0
          (xs.all (fun x => (fp32 x).isNan) = true → r .maxF32 = (0x7FC00000, fl) ∧ r .minF32 = (0x7FC00000, fl))
          ∧ (xs.all (fun x => (fp32 x).isNan) = false →
            let among := fun (y : Word) => y ∈ xs ∧ (fp32 y).isNan = false
            let zeros := fun (x y : Word) => (fp32 x).isZero = true ∧ (fp32 y).isZero = true
            (∃ x, among x ∧ r .maxF32 = (x.toNat, fl) ∧ ∀ y, among y → (fp32 x).lt (fp32 y) = false ∧ (zeros x y → (fp32 x).isNeg = true → (fp32 y).isNeg = true))
            ∧ (∃ x, among x ∧ r .minF32 = (x.toNat, fl) ∧ ∀ y, among y → (fp32 y).lt (fp32 x) = false ∧ (zeros x y → (fp32 y).isNeg = true → (fp32 x).isNeg = true))))))

/-- 05 R74, R79, 08 R149, R150, R155, 14 R289, 18 R327: BRA, JMPI and a taken BALW send the lanes of ACTIVE to their targets, a BALW whose allowance
is short falls through, and a target that is no packet of the kernel traps: ILLEGAL_OP outside the code, MISALIGNED at another VA inside it; which of
two causes, and its lanes, are the model's choice (log 80). A transfer that would split a fragment in handler mode traps NONUNIFORM. -/
def Obligations.Jumps : Prop :=
  (∀ (i : Instr) (r : JumpRow), Jump i r → ∀ s f w b g, Runs s f w b g → HasV b r.readsV → HasU b r.readsU →
     let act := activeMask f r.h
     let target := r.target f b.kernel
     (r.taken s f = false → exec i s = .next (retired s w f .none f (onward f r.words)))
     ∧ (∀ order, r.taken s f = true → Lists act target order → (∀ t ∈ order, IsPacket b.kernel t) → OneWay f act order →
       exec i s = .next (transferred s w f b act target order r.words))
     ∧ (∀ order, r.taken s f = true → Lists act target order → (∀ t ∈ order, IsPacket b.kernel t) → ¬OneWay f act order →
       exec i s = .next (plainTrap s f w b .nonuniform act))
     ∧ (∀ t, r.taken s f = true → Astray b.kernel act target 0 t → exec i s = .next (s.takeTrap f w b t)))

/-- 05 R81, 08 R149, R151, 18 R330: BRU, its encoding: it moves the whole fragment, falls through when no lane is active, and traps NONUNIFORM
otherwise; a target that is no packet traps; which lanes a guard makes active. -/
def Obligations.UniformBranch : Prop :=
  (∀ h o, (Instr.bru h o).encode = [(BitVec.ofBool h.chain ++ 0x51#7 ++ h.g ++ BitVec.ofBool h.neg ++ o : Word)])
  ∧ (∀ (f : Frag) (h : Head) l, l < 32 →
      (f.subst = none → ((activeMask f h).getLsbD l = true ↔ f.mask.getLsbD l = true ∧ ((f.getP h.g).getLsbD l ^^ h.neg) = true))
      ∧ (∀ m, f.subst = some m → ((activeMask f h).getLsbD l = true ↔
          f.mask.getLsbD l = true ∧ ((f.getP h.g).getLsbD l ^^ h.neg) = true ∧ m.getLsbD l = false)))
  ∧ (∀ (f : Frag) (h : Head), f.subst = none → h.g = 7 → (activeMask f h = if h.neg then 0 else f.mask))
  ∧ (∀ s f w b g, Runs s f w b g → ∀ h o,
      let act := activeMask f h
      (act = 0 → exec (.bru h o) s = .next (retired s w f .none f (onward f 1)))
      ∧ (act = f.mask → act ≠ 0 → IsPacket b.kernel (ofs f b.kernel o) →
          exec (.bru h o) s = .next (retired s w f .none f (ofs f b.kernel o)))
      ∧ (act = f.mask → act ≠ 0 → ¬IsPacket b.kernel (ofs f b.kernel o) →
          let t := ofs f b.kernel o
          let inside := b.kernel.va.toNat + 64 ≤ t.toNat ∧ t.toNat < b.kernel.va.toNat + 64 + 12 * b.kernel.npkt
          (¬inside → exec (.bru h o) s = .next (s.takeTrap f w b ⟨.illegalOp, act, t, 0⟩))
          ∧ (inside → exec (.bru h o) s = .next (s.takeTrap f w b ⟨.misaligned, act, t, 0⟩)))
      ∧ (act ≠ 0 → act ≠ f.mask → exec (.bru h o) s = .next (plainTrap s f w b .nonuniform act)))

/-- 08 R149, R152 to R156: CALL and CALLI push the VA of the next packet for each active lane; RET pops each lane's newest return address and sends the
lane there; the ninth entry of a stack and those after it lie in the thread's local memory; an empty or a full stack traps RETSTACK, and a target that
is no packet of the kernel traps by R74. That RETSTACK is tested before the targets, and that it names the lanes whose stacks are full or empty, are
the model's choices (log 33), the colour 0 of the spilled store too (log 16), and which of two causes of bad targets traps (log 80). -/
def Obligations.CallsAndReturns : Prop :=
  (∀ (i : Instr) h rv ru tg, Call i h rv ru tg → ∀ s f w b g, Runs s f w b g → HasV b rv → HasU b ru →
     let act := activeMask f h
     let target := tg f b.kernel
     (∀ order (pl : Nat → Place), Lists act target order → (∀ t ∈ order, IsPacket b.kernel t) → OneWay f act order →
       (∀ l, act.getLsbD l → depthOf w l < 8 + g.launch.tlsb / 8) →
       let slot := fun l => BitVec.ofNat 64 (8 * (depthOf w l - 8))
       (∀ l, act.getLsbD l → 8 ≤ depthOf w l → Near (pl l) ∧ ∃ leaf, s.check g w b .t l (slot l) 8 .write noKeyRule noKeyRule = .ok (pl l) leaf) →
       let spilled := ((Mask.lanes act).filter (fun l => 8 ≤ depthOf w l)).map (fun l => lanePiece w b .t l (slot l) (pl l) (bytesOf (bottomOf w l) 8))
       exec i s = .next (transferred
         (withThreads ((unqueued s f).pushStore b.id f.id 0 false spilled) w act (fun _ t =>
           { t with depth := t.depth + 1, stack := ((b.kernel.packet f.pc + 12) :: t.stack).take 8 }))
         w f b act target order 1))
     ∧ (∀ t, (∀ l, act.getLsbD l → depthOf w l < 8 + g.launch.tlsb / 8) → Astray b.kernel act target 0 t → exec i s = .next (s.takeTrap f w b t))
     ∧ (∀ lanes : Mask, lanes ≠ 0 → (∀ l, l < 32 → (lanes.getLsbD l = true ↔ act.getLsbD l ∧ 8 + g.launch.tlsb / 8 ≤ depthOf w l)) →
       exec i s = .next (plainTrap s f w b .retstack lanes)))
  ∧ (∀ s f w b g, Runs s f w b g → ∀ h,
     let act := activeMask f h
     (∀ order (pl : Nat → Place), Lists act (topOf w) order → (∀ t ∈ order, IsPacket b.kernel t) → OneWay f act order →
       (∀ l, act.getLsbD l → 0 < depthOf w l) →
       (∀ l, act.getLsbD l → 8 < depthOf w l → Near (pl l) ∧ s.isPoisoned (pl l) 8 = false ∧ Settled s (pl l) 8
         ∧ ∃ leaf, s.check g w b .t l (BitVec.ofNat 64 (8 * (depthOf w l - 9))) 8 .read noKeyRule noKeyRule = .ok (pl l) leaf) →
       NothingEarly s w act →
       exec (.ret h) s = .next (transferred
         (withThreads s w act (fun l t => { t with
           depth := t.depth - 1, stack := t.stack.tail ++ (if 8 < depthOf w l then [ofBytes 64 (seenBytes s f b (pl l) 8)] else []) }))
         w f b act (topOf w) order 1))
     ∧ (∀ t, (∀ l, act.getLsbD l → 0 < depthOf w l) → Astray b.kernel act (topOf w) 0 t → exec (.ret h) s = .next (s.takeTrap f w b t))
     ∧ (∀ lanes : Mask, lanes ≠ 0 → (∀ l, l < 32 → (lanes.getLsbD l = true ↔ act.getLsbD l ∧ depthOf w l = 0)) →
       exec (.ret h) s = .next (plainTrap s f w b .retstack lanes)))

/-- 11 R219, R222 to R224, 12 R252, R253: LD and SLD of places of this device read, byte by byte, the newest store of the block's buffers or the byte
at its home, and write the datum extended; PREF and TOUCH write nothing; ST, STF and SST leave memory as it stands and enter one entry in the
fragment store buffer with each lane's bytes. -/
def Obligations.LoadsAndStores : Prop :=
  (∀ s f w b g, Runs s f w b g → ∀ (m : MemOp), HasU b [m.a] → (m.ix = true → HasV b [m.b]) →
     (∀ h d pl, d.toNat + regsOfWd m.wd ≤ b.kernel.vreg →
       let act := activeMask f h
       Resolves s f w b g act m false (2 ^ m.wd.toNat) .read noKeyRule noKeyRule pl → Sound s act (2 ^ m.wd.toNat) pl →
       (∀ l, act.getLsbD l → Settled s (pl l) (2 ^ m.wd.toNat)) → NothingEarly s w act →
       exec (.ld h d m) s = .next (retired s w f (.vec d (regsOfWd m.wd))
         (writeLoaded f d m act (fun l => seenBytes s f b (pl l) (2 ^ m.wd.toNat))) (onward f 2)))
     ∧ (∀ c d p leaf, HasU b [d] →
       let n := 2 ^ m.wd.toNat
       s.check g w b m.sp (Mask.lowest f.mask) (laneAddr f m false (Mask.lowest f.mask)) n .read noKeyRule noKeyRule = .ok p leaf →
       Near p → s.isPoisoned p n = false → Settled s p n → NothingEarly s w f.mask →
       exec (.sld c d m) s = .next (retired s w f (.uni d) (f.setU d (loadedDWord m (seenBytes s f b p n))) (onward f 2)))
     ∧ (∀ h, exec (.pref h m) s = .next (retired s w f .none f (onward f 2)))
     ∧ (∀ h pl, Resolves s f w b g (activeMask f h) m false 1 .touch noKeyRule noKeyRule pl →
       exec (.touch h m) s = .next (retired s w f .none f (onward f 2))))
  ∧ (∀ (m : MemOp) (bs : List Byte), bs.length = 2 ^ m.wd.toNat →
     (m.wd = 0 → loadedWord m bs 0 = (if m.sg then (bs.headD 0).signExtend 32 else (bs.headD 0).setWidth 32))
     ∧ (m.wd = 1 → m.sg = false → (loadedWord m bs 0).toNat = natOfBytes bs)
     ∧ (m.wd = 1 → m.sg = true → (loadedWord m bs 0).toInt = (BitVec.ofNat 16 (natOfBytes bs)).toInt)
     ∧ (2 ≤ m.wd.toNat → m.wd.toNat ≤ 4 → ∀ k j, k < regsOfWd m.wd → j < 4 →
         (loadedWord m bs k).extractLsb' (8 * j) 8 = bs.getD (4 * k + j) 0)
     ∧ (m.wd = 2 → (loadedDWord m bs).toNat = natOfBytes bs) ∧ (m.wd = 3 → (loadedDWord m bs).toNat = natOfBytes bs)
     ∧ (m.wd.toNat < 2 → loadedDWord m bs = if m.sg then (loadedWord m bs 0).signExtend 64 else (loadedWord m bs 0).setWidth 64))
  ∧ (∀ (f : Frag) (d : BitVec 6) (m : MemOp) (act : Mask) (data : Nat → List Byte), m.wd.toNat ≤ 4 → d.toNat + regsOfWd m.wd ≤ 64 →
     let x := writeLoaded f d m act data
     (∀ k l, k < regsOfWd m.wd → l < 32 → x.getV (d + BitVec.ofNat 6 k) l = if act.getLsbD l then loadedWord m (data l) k else f.getV (d + BitVec.ofNat 6 k) l)
     ∧ (∀ r l, r.toNat < d.toNat ∨ d.toNat + regsOfWd m.wd ≤ r.toNat → x.getV r l = f.getV r l) ∧ { x with v := f.v } = f)
  ∧ regsOfWd 0 = 1 ∧ regsOfWd 1 = 1 ∧ regsOfWd 2 = 1 ∧ regsOfWd 3 = 2 ∧ regsOfWd 4 = 4
  ∧ (∀ s f w b g, Runs s f w b g → ∀ (m : MemOp), HasU b [m.a] → (m.ix = true → HasV b [m.b]) →
    let n := 2 ^ m.wd.toNat
    (∀ h d pl, d.toNat + regsOfWd m.wd ≤ b.kernel.vreg → Resolves s f w b g (activeMask f h) m false n .write noKeyRule noKeyRule pl →
      let pieces := (Mask.lanes (activeMask f h)).map (fun l => lanePiece w b m.sp l (laneAddr f m false l) (pl l) (laneBytes f d l n))
      exec (.st h d m) s = .next (retired ((unqueued s f).pushStore b.id f.id m.col false pieces) w f .none f (onward f 2))
      ∧ exec (.stf h d m) s = .next (retired (s.pushStore b.id f.id m.col true pieces) w f .none f (onward f 2)))
    ∧ (∀ c d p leaf, HasU b [d] →
      let l := Mask.lowest f.mask
      s.check g w b m.sp l (laneAddr f m false l) n .write noKeyRule noKeyRule = .ok p leaf → Near p →
      let x := lanePiece w b m.sp l (laneAddr f m false l) p (bytesOf (f.getU d) n)
      exec (.sst c d m) s = .next (retired ((unqueued s f).pushStore b.id f.id m.col false [{ x with threads := w.serials f.mask }]) w f .none f
        (onward f 2))))
  ∧ (∀ (f : Frag) (d : BitVec 6) l n, (laneBytes f d l n).length = n
      ∧ ∀ i, i < n → (laneBytes f d l n).getD i 0 = (f.getV (d + BitVec.ofNat 6 (i / 4)) l).extractLsb' (8 * (i % 4)) 8)

/-- 09 R169 to R172, R186, R191, R199, R201, R305, 11 R223, R225, R236 to R238, R240, R247: what each access gives by the rows of R191, and where a
memory instruction traps, waits for a page or consumes an uncorrectable error: no lane is performed then. Which of two causes of one row traps is
the model's choice (log 10), so are the one mask of an instruction with one access (log 50), a range that runs into an unmapped page (log 34), a
CPYT whose record is broken (log 39) and the free unit of the error (log 4). -/
def Obligations.AccessFaults : Prop :=
  (∀ (s : State) g w b sp l (a : DWord) n k keyed extra,
    let r := s.check g w b sp l a n k keyed extra
    (a.toNat % n ≠ 0 → r = .bad 2 .misaligned 0) ∧ (a.toNat % n = 0 → SpaceRows s g w b sp l a n k keyed extra r))
  ∧ (∀ (c : Ctx) sp (x : DWord × Nat) k keyed extra, sp ≠ .l → sp ≠ .t →
    ∃ r, c.engineCheck sp x k keyed extra = ⟨Mask.lowest c.f.mask, x.1, x.1, x.2, r⟩
      ∧ SpaceRows c.s c.g c.w c.b sp (Mask.lowest c.f.mask) x.1 x.2 k keyed extra r)
  ∧ (∀ s f w b g act (m : MemOp) l, ElementRows s f w b g m l ((setting s f w b g act).elemChecks m l).1)
  ∧ (∀ s f w b g, Runs s f w b g →
    (∀ i whole dst xs, Accesses s f w b g i whole dst xs →
      (∀ cause sgid lanes a, Worst xs cause sgid lanes a → ∃ u : State, u.work.blocks = s.work.blocks ∧ u.work.warps = s.work.warps
        ∧ ((∀ x ∈ xs, ∀ c q, x.check ≠ .bad 8 c q) → u = s)
        ∧ exec i s = .next (u.takeTrap f w b (faultInfo cause sgid (whole.getD lanes) a dst)))
      ∧ ((∀ x ∈ xs, ∀ r c q, x.check ≠ .bad r c q) → (∀ x ∈ xs, ∀ p lf, x.check = .ok p lf → s.isPoisoned p x.len = false) →
        (∀ h m, i = .touch h m → m.q = 0) →
        let u := xs.foldl (fun (s : State) x => match x.check with
          | .miss lf => s.startWalk b.core lf.job lf.page
          | .wait lf => s.wantPage (s.reLeaf lf)
          | _ => s) s
        let still := ∃ x ∈ xs, (∃ lf, x.check = .miss lf) ∨ ∃ lf, x.check = .wait lf ∧
          pteShst (u.reLeaf lf).pte ≠ shGathered ∧ pteShst (u.reLeaf lf).pte ≠ shPartial ∧ pteShst (u.reLeaf lf).pte ≠ shFailed
        (∃ x ∈ xs, (∃ lf, x.check = .miss lf) ∨ ∃ lf, x.check = .wait lf) →
        (still → exec i s = .next (parked u w f .page)) ∧ (¬still → exec i s = .next u))
      ∧ (∀ home, ReadsData s b i home → (∀ x ∈ xs, ∃ p lf, x.check = .ok p lf ∧ Near p) →
        (∀ h d m, i = .ldf h d m → ∀ x ∈ xs, ∀ k v o lf, x.check = .ok (.buf k v o) lf → b.isFull v (o / 16) = true) →
        let hit := fun (x : LaneAcc) => ∃ p lf, x.check = .ok p lf ∧ Poisons s f b home p x.len
        ∀ pre x post p lf (lanes : Mask), xs = pre ++ x :: post → (∀ y ∈ pre, ¬hit y) → x.check = .ok p lf → Poisons s f b home p x.len →
          (∀ l, l < 32 → (lanes.getLsbD l = true ↔ ∃ y ∈ xs, y.lane = l ∧ hit y)) →
          Consumes s f w b i p (whole.getD lanes) x.addr dst))
    ∧ (∀ h d a imm, HasA b [d] → HasU b [a] → (addr f a imm).toNat % 128 = 0 → (addr f a imm).toNat + 4096 ≤ b.limit .c →
      let act := activeMask f h
      let row := fun i => Place.buf b.id .c ((addr f a imm).toNat + 128 * i)
      ∀ i (lanes : Mask), i < 32 → act.getLsbD i = true → Poisons s f b false (row i) 128 →
        (∀ j, j < i → act.getLsbD j = true → ¬Poisons s f b false (row j) 128) →
        (∀ l, l < 32 → (lanes.getLsbD l = true ↔ act.getLsbD l = true ∧ Poisons s f b false (row l) 128)) →
        Consumes s f w b (.accld h d a imm) (row i) lanes (addr f a imm) (.acc d))
    ∧ (∀ ch d a b' e st inW (q : BitVec 3) ck box1 box0 p leaf, QueueRoom b w q → HasU b [d, a, b', b' + 1] → HasCk b ck e →
      OneAccess s f w b g .g (f.getU a) 64 .read noKeyRule p leaf → NothingEarly s w f.mask →
      let i := Instr.cpyt ch d a b' e st inW q ck box1 box0
      (readTlr (seenBytes s f b p 64) = none →
        exec i s = .next (s.takeTrap f w b (if (f.getU d).toNat % 16 ≠ 0 then faultInfo .misaligned 0 f.mask (f.getU d) .none
          else faultInfo .permission 0 f.mask (f.getU a) .none)))
      ∧ (∀ t, readTlr (seenBytes s f b p 64) = some t → ∀ cause sgid lanes x,
        Worst (boxAccs (setting s f w b g (activeMask f (uni ch))) t (f.getU d) (f.getU b') (f.getU (b' + 1)) st inW ck (f.getU e) (box1.toNat + 1)
          (box0.toNat + 1)) cause sgid lanes x →
        ∃ u : State, u.work.blocks = s.work.blocks ∧ u.work.warps = s.work.warps
          ∧ exec i s = .next (u.takeTrap f w b (faultInfo cause sgid f.mask x .none)))))

/-- 06 R103, 09 R181, 12 R252, R253: a fragment sees its own newest store; a load returns the bytes as they stand, or as its thread has read
them early; bytes written at their home in HBM read as written, and every other byte of memory,
of the full frames and of the block buffers reads as before. -/
def Obligations.ReadBack : Prop :=
  (∀ (s : State) (b : Block) (frag : Nat) (col : BitVec 3) (full : Bool) (x : Piece) (q : Place), x.bytes ≠ [] →
     s.block? b.id = some b →
     ∃ b', (s.pushStore b.id frag col full [x]).block? b.id = some b' ∧
       buffered b' frag q = (match x.byteAt q with | some v => some v | none => buffered b frag q)
       ∧ ∀ other, other ≠ frag → buffered b' other q = buffered b other q)
  ∧ (∀ (s : State) (f : Frag) (w : Warp) (b : Block) l t p n home, w.threads.toList.getD l none = some t →
     let r := (s.loadBytes f w b l p n home).1
     r = ((s.forgetAt [t.serial] p n).readBytes f w b l p n home).1
       ∨ (∃ e ∈ s.sync.early, e.thread = t.serial ∧ ∃ k, e.place.offset p = some k ∧ k + n ≤ e.bytes.length
           ∧ r = ((e.bytes.drop k).take n).map (·.1))
       ∨ ∃ n', r = (({ s.forgetAt [t.serial] p n with ctl := { s.ctl with oracle := n' } } : State).readBytes f w b l p n home).1)
  ∧ (∀ (s : State) (a : Nat) (bs : List Byte) (x : Nat), s.mem.hbm.wf = true →
     let t := s.performAt (.hbm a) bs
     (t.getAt (.hbm x) 1 = if a ≤ x ∧ x < a + bs.length then [bs.getD (x - a) 0] else s.getAt (.hbm x) 1)
     ∧ (∀ j g o n, t.getAt (.frame j g o) n = s.getAt (.frame j g o) n) ∧ (∀ k u o n, t.getAt (.buf k u o) n = s.getAt (.buf k u o) n)
     ∧ (∀ k l o n, t.getAt (.lwin k l o) n = s.getAt (.lwin k l o) n))

/-- 06 R106 to R108, 08 R157, 18 R331: REFORM, and YIELD under a pre-emption request, file the active lanes at the
next packet, into an open pan as far as it has room and the rest into a new one, whatever stores the fragment holds; YIELD without a request
does nothing. That a pan whose time has run out takes filings while it waits for a context is the model's choice (log 81). -/
def Obligations.Filing : Prop :=
  ∀ s f w b g, Runs s f w b g → ∀ (i : Instr) (h : Head) (n m : Nat),
    ((∃ n' m', i = .reform h n' m' ∧ n = n'.toNat ∧ m = m'.toNat) ∨ (∃ n' m', i = .yield h n' m' ∧ n = n'.toNat ∧ m = m'.toNat ∧ b.preq.isSome)) →
    f.handler = false → n ≤ b.kernel.vreg → m ≤ b.kernel.sreg →
    let act := activeMask f h
    let key := b.kernel.packet f.pc + 12
    let u := (List.range m).map (fun r => f.getU (BitVec.ofNat 6 r))
    (act = 0 → exec i s = .next (retired s w f .none f key))
    ∧ (∀ xs, act ≠ 0 → Filings w f act n xs →
      (s.openPan? b.id key = none → s.panFree b = true → exec i s = .next (departed (opened s w b key n m u xs f.fflags f.mflags) w f b act key))
      ∧ (∀ p, s.openPan? b.id key = some p → p.n = n → p.m = m → p.u = u → p.threads.length + xs.length ≤ 32 →
        exec i s = .next (departed (joinedPan s p xs f.fflags f.mflags) w f b act key))
      ∧ (∀ p, s.openPan? b.id key = some p → p.n = n → p.m = m → p.u = u → 32 < p.threads.length + xs.length →
        let room := 32 - p.threads.length
        (s.panFree b = true → exec i s = .next (departed (opened (joinedPan s p (xs.take room) f.fflags f.mflags) w b key n m u (xs.drop room) f.fflags f.mflags) w f b act key))
        ∧ (s.panFree b = false → exec i s = .next (parked s w f .pan)))
      ∧ (∀ p, s.openPan? b.id key = some p → ¬(p.n = n ∧ p.m = m ∧ p.u = u) → exec i s = .next (plainTrap s f w b .uniformMismatch act))
      ∧ (s.openPan? b.id key = none → s.panFree b = false → exec i s = .next (parked s w f .pan)))
    ∧ (∀ n' m', n = n'.toNat → m = m'.toNat → b.preq = none → exec (.yield h n' m') s = .next (retired s w f .none f (onward f 2)))

/-- 04 R67, R68, 08 R149, R158, R159, 05 R74, 12 R257: SPAWN, once what its lanes have stored is visible in the block, tries its lanes by ascending
vlane and gives each one's success in P[d]; a label that is no packet of the kernel traps; EXIT ends the threads of ACTIVE. That SPAWN completes
whatever deliveries have failed, and traps none of them, is the model's choice (log 69). -/
def Obligations.SpawnAndExit : Prop :=
  ∀ s f w b g, Runs s f w b g → ∀ h,
    let act := activeMask f h
    let u := s.fenceWork b.id g.job 2 0xFF (w.serials act)
    (∀ d o, act ≠ 0 → IsPacket b.kernel (ofs f b.kernel o) → u.fenceDone b.id 2 0xFF (w.serials act) = false →
      exec (.spawn h d o) s = .next u)
    ∧ (∀ (d : BitVec 3) o t, Astray b.kernel act (fun _ => ofs f b.kernel o) (BitVec.ofNat 64 (3 + 16 * d.toNat)) t →
      exec (.spawn h d o) s = .next (s.takeTrap f w b t))
    ∧ (∀ d o, act ≠ 0 → IsPacket b.kernel (ofs f b.kernel o) → u.fenceDone b.id 2 0xFF (w.serials act) = true →
      ∃ (t : Nat → State) (ok : Nat → Bool) (m : Mask),
        t 0 = (u.soil b.id).forgetEarly (w.serials act)
        ∧ (∀ l, l < 32 → if act.getLsbD l then spawnOne (t l) w f b g (ofs f b.kernel o) l = (t (l + 1), ok l) else t (l + 1) = t l)
        ∧ (∀ l, l < 32 → act.getLsbD l → m.getLsbD l = ok l)
        ∧ exec (.spawn h d o) s = .next (retired (t 32) w f (.pred d) (f.setP d act m) (onward f 2)))
    ∧ (∀ d o, act = 0 → exec (.spawn h d o) s = .next (retired s w f (.pred d) f (onward f 2)))
    ∧ (act ≠ 0 → exec (.exit h) s = .next (departed s w f b act (onward f 1)))
    ∧ (act = 0 → exec (.exit h) s = .next (retired s w f .none f (onward f 1)))

/-- 05 R73, 12 R255, R256, R261 to R263, 13 R270 to R275: NOP; FENCE, which waits unretired until what it covers has reached its level, and finds
nothing to do where no store of the block is on its way; ACQ, REL and BIND; a bound store published by a release is seen by every thread within
the release's scope that acquires the sync object after it. -/
def Obligations.Ordering : Prop :=
  (∀ (s : State) (b : Block) job scope cmask ths, s.block? b.id = some b → Drained s b →
     s.fenceWork b.id job scope cmask ths = s ∧ s.fenceDone b.id scope cmask ths = true ∧ s.fenceFailures b.id scope cmask ths = [])
  ∧ (∀ s f w b g, Runs s f w b g →
     (∀ ch, exec (.nop ch) s = .next (retired s w f .none f (onward f 1)))
     ∧ (∀ h full scope cmask,
       let ths := w.serials (activeMask f h)
       let u := s.fenceWork b.id g.job scope cmask ths
       (full = false → cmask = 0 → exec (.fence h full scope cmask) s = .next (retired s w f .none f (onward f 2)))
       ∧ (¬(full = false ∧ cmask = 0) →
         (u.fenceDone b.id scope cmask ths = false → exec (.fence h full scope cmask) s = .next u)
         ∧ (u.fenceDone b.id scope cmask ths = true → u.fenceFailures b.id scope cmask ths = [] →
           exec (.fence h full scope cmask) s = .next (retired (if full then fenced u b scope cmask ths else u) w f .none f (onward f 2)))))
     ∧ (∀ h d a imm p leaf, NoOwnStore w b f.mask p 8 → HasU b [d, a] → activeMask f h ≠ 0 →
       OneAccess s f w b g .g (addr f a imm) 8 .read syncPageBad p leaf →
       exec (.acq h d a imm) s = .next (retired ((s.acquire w.id (activeMask f h) g.job (addr f a imm)).forgetEarly (w.serials (activeMask f h)))
         w f (.uni d) (f.setU d (ofBytes 64 (homeBytes s p 8))) (onward f 2)))
     ∧ (∀ h d a imm, HasU b [d, a] → activeMask f h = 0 → exec (.acq h d a imm) s = .next (retired s w f (.uni d) f (onward f 2)))
     ∧ (∀ h a b' scope add imm p leaf, Drained s b → HasU b [a, b'] → activeMask f h ≠ 0 → f.relSent = false → f.relPaid = [] →
       OneAccess s f w b g .g (addr f a imm) 8 .both syncPageBad p leaf →
       let old : DWord := ofBytes 64 (s.getAt p 8)
       let v := if add then BitVec.ofNat 64 (old.toNat + (f.getU b').toNat) else f.getU b'
       exec (.rel h a b' scope add imm) s = .next (retired
         (((s.publish g.job (addr f a imm) scope (w.serials (activeMask f h))).soil b.id).performAt p (bytesOf v 8)) w f .none f
         (onward f 2)))
     ∧ (∀ h a b' scope add imm, HasU b [a, b'] → activeMask f h = 0 →
       exec (.rel h a b' scope add imm) s = .next (retired (s.startDrain b.id) w f .none f (onward f 2)))
     ∧ (∀ ch d a e entry, HasU b [d, a, e] →
       let base := f.getU a
       let len := (f.getU e).toNat
       let sync := f.getU d
       base.toNat % 64 = 0 → len % 64 = 0 → sync.toNat % 8 = 0 → canonical base = true → canonical (base + f.getU e - 1) = true →
       len ≤ 2 ^ 40 →
       (len ≠ 0 → (∀ x ∈ b.binds, x.entry ≠ entry.toNat → x.length ≤ (base - x.base).toNat ∧ len ≤ (x.base - base).toNat)
         ∧ (len ≤ (sync - base).toNat ∧ 8 ≤ (base - sync).toNat)) →
       exec (.bind ch d a e entry) s = .next (retired ((s.soil b.id).modBlock b.id (fun x =>
         { x with binds := (x.binds.filter (fun y => y.entry != entry.toNat)) ++ (if len = 0 then [] else [⟨entry.toNat, base, len, sync⟩]) }))
         w f .none f (onward f 2))))
  ∧ (∀ (s : State) (job : BitVec 16) (sync : DWord) (scope : BitVec 3) (ths : List Nat) (h : History) (x : HistStore),
     h ∈ s.sync.histories → x ∈ h.stores → x.job = job → x.sync = sync → (∀ r ∈ x.tags, r.1 ≤ s.releaseCount job sync) → (∃ t ∈ x.threads, t ∈ ths) →
     ∀ w lanes l wp t, s.warp? w = some wp → l < 32 → lanes.getLsbD l → wp.threads.toList.getD l none = some t →
       let s' := (s.publish job sync scope ths).acquire w lanes job sync
       ∃ h' x' wp' t', h' ∈ s'.sync.histories ∧ h'.place = h.place ∧ x' ∈ h'.stores ∧ x'.serial = x.serial ∧ x'.value = x.value ∧
         s'.warp? w = some wp' ∧ wp'.threads.toList.getD l none = some t' ∧
         ∀ block peers seen, (4 ≤ scope.toNat ∨ scope = 3 ∧ x.block ∈ peers ∨ x.block = block) → x'.sure block peers t' seen = true)

/-- 13 R277, R278: BAR and GBAR park the fragment until the barrier has its arrivals, turn its phase then, which clears every fragment of the
block, or of the gang, parked on it and touches nothing else, trap COUNT_RANGE on a count out of range, and retire once passed. -/
def Obligations.ThreadBarriers : Prop :=
  ∀ s f w b g, Runs s f w b g → ∀ i h rb key, Meeting i h rb key → HasU b [rb] →
    let act := activeMask f h
    let n := if rb = 63#6 then 0 else (f.getU rb).toNat
    let p := s.phase b key
    let k := Mask.count act
    let refused := rb ≠ 63#6 ∧ (n = 0 ∨ countLimit b g key < n) ∨ p.arrivals ≠ 0 ∧ p.n ≠ n ∨ rb ≠ 63#6 ∧ n < p.arrivals + k
    let need := if rb = 63#6 then s.barThreads b key else n
    let sc : BitVec 3 := match key with | .bar _ => 2 | .gbar _ => 3
    let u := fenced s b sc 0xFF (w.serials act)
    let meets := fun (x : Frag) => x.arrived = some key ∧ (∃ since, x.run = .parked .barrier since) ∧ ∃ v, s.warp? x.warp = some v ∧
      match key with | .bar _ => v.block = b.id | .gbar _ => ∃ y ∈ s.work.blocks, y.id = v.block ∧ y.grid = b.grid ∧ y.gang = b.gang
    (act = 0 ∨ f.arrived = some key → exec i s = .next (retired s w f .none f (onward f 2)))
    ∧ (act ≠ 0 → f.arrived ≠ some key →
      (refused → exec i s = .next (plainTrap s f w b .countRange act))
      ∧ (¬refused → Drained s b → p.arrivals + k ≠ need →
        exec i s = .next ((u.setFrag { f with arrived := some key, run := .parked .barrier s.cycle }).putPhase b key ⟨p.arrivals + k, n⟩))
      ∧ (¬refused → Drained s b → p.arrivals + k = need →
        ∃ t b', t.block? b.id = some b' ∧ b' = { b with bars := b'.bars } ∧ t.phase b' key = ⟨0, 0⟩ ∧ (∀ j, j ≠ key → t.phase b' j = s.phase b j)
          ∧ t = { u with work := { s.work with frags := t.work.frags, blocks := t.work.blocks, gangs := t.work.gangs } }
          ∧ (∀ x, x.id ≠ b.id → (x ∈ t.work.blocks ↔ x ∈ s.work.blocks))
          ∧ (∀ x, ¬(x.grid = b.grid ∧ x.number = b.gang) → (x ∈ t.work.gangs ↔ x ∈ s.work.gangs))
          ∧ List.Forall₂ (fun (x y : Frag) => (meets x → y = { x with run := .ready }) ∧ (¬meets x → y = x))
              (s.work.frags.filter (fun x => x.id != f.id)) (t.work.frags.filter (fun x => x.id != f.id))
          ∧ exec i s = .next (retired t w f .none f (onward f 2))))

/-- 09 R180, 13 R279 to R282: BARM, BARA, BARW and BART on a byte barrier of the block. -/
def Obligations.ByteBarriers : Prop :=
  ∀ s f w b g, Runs s f w b g → Drained s b → ∀ ch a b' imm p leaf, HasU b [a, b'] →
    OneAccess s f w b g .a (addr f a imm) 16 .both noKeyRule p leaf →
    let x := s.byteBar p
    let outOfRange := s.takeTrap f w b ⟨.countRange, f.mask, addr f a imm, 0⟩
    (let n : Int := (f.getU b').toNat
      let bad := 2 ^ 63 ≤ n ∨ x.pending ≠ -2 ^ 63 ∧ 2 ^ 63 - 1 < x.pending + n
      (bad → exec (.barm ch a b' imm) s = .next outOfRange)
      ∧ (¬bad → exec (.barm ch a b' imm) s = .next (retired (s.putByteBar p (arrival x n)) w f .none f (onward f 2))))
    ∧ (let n : Int := if b' = 63#6 then 1 else (f.getU b').toNat
      let bad := x.pending ≠ -2 ^ 63 ∧ x.pending - n < -2 ^ 63
      (bad → exec (.bara ch a b' imm) s = .next outOfRange)
      ∧ (¬bad → exec (.bara ch a b' imm) s = .next (retired (s.putByteBar p (arrival x (-n))) w f .none f (onward f 2))))
    ∧ (x.phase ≠ (f.getU b').setWidth 32 →
        exec (.barw ch a b' imm) s = .next (retired (s.forgetEarly (w.serials f.mask)) w f .none f (onward f 2)))
    ∧ (x.phase = (f.getU b').setWidth 32 → exec (.barw ch a b' imm) s = .next (parked (s.watch (p.at 8) f.id true) w f .barrier))
    ∧ (∀ d, exec (.bart ch d a b' imm) s = .next (retired (s.forgetEarly (w.serials f.mask)) w f (.pred d)
        (f.setP d f.mask (if x.phase = (f.getU b').setWidth 32 then 0 else 0xFFFFFFFF)) (onward f 2)))

/-- 13 R283, R284: WAITC retires once the counter has reached the value, else waits in the watch of its word, or by
polling; a polling waiter is cleared to read again. -/
def Obligations.Counters : Prop :=
  (∀ s f w b g, Runs s f w b g → ∀ ch a b' inA imm p leaf, NoOwnStore w b f.mask p 8 → HasU b [a, b'] →
    OneAccess s f w b g (if inA then .a else .g) (addr f a imm) 8 .read counterPageBad p leaf →
    ((f.getU b').toNat ≤ natOfBytes (homeBytes s p 8) →
      exec (.waitc ch a b' inA imm) s = .next (retired (s.forgetEarly (w.serials f.mask)) w f .none f (onward f 2)))
    ∧ (natOfBytes (homeBytes s p 8) < (f.getU b').toNat →
      let watchable := match p with | .buf _ _ _ => true | _ => (match leaf with | some lf => pteCa lf.pte | none => false)
      exec (.waitc ch a b' inA imm) s = .next (parked (s.watch p f.id watchable) w { f with replies := [] } .barrier)))
  ∧ (∀ (s : State) (k : Nat), k ∈ s.sync.polls →
    ∃ t, exec (.waitcPoll k) s = .next t ∧ k ∉ t.sync.polls ∧
      ∀ f ∈ s.work.frags, f.id = k → (∃ since, f.run = .parked .barrier since) → ({ f with run := .ready } : Frag) ∈ t.work.frags)

/-- 12 R265 to R269, 13 R285 to R288: PIN, UNPIN, RECLAIM, RECLAIMD and ALW. -/
def Obligations.PinsAndAllowances : Prop :=
  ∀ s f w b g, Runs s f w b g → ∀ ch,
    (∀ k a, HasU b [a] → exec (.pin ch k a) s = .next (retired (((pinned s w k (f.getU a)).soil b.id).forgetEarly (w.serials f.mask)) w f .none f (onward f 1)))
    ∧ (∀ k, exec (.unpin ch k) s = .next (retired (pinned s w k 0) w f .none f (onward f 1)))
    ∧ (∀ d a, HasU b [d, a] →
      let x := f.getU a
      let l := s.bittern g.job
      (x = 0 → exec (.reclaim ch d a) s = .next (retired s w f (.uni d) (f.setU d 0) (onward f 1)))
      ∧ (x ≠ 0 → Drained s b →
        (s.isPinned x = false → exec (.reclaim ch d a) s = .next (retired s w f (.uni d) (f.setU d x) (onward f 1)))
        ∧ (∀ older y newer, s.isPinned x = true → l = older ++ y :: newer → (∀ z ∈ older, s.isPinned z = true) → s.isPinned y = false →
          exec (.reclaim ch d a) s = .next (retired (s.setBittern g.job (older ++ newer ++ [x])) w f (.uni d) (f.setU d y) (onward f 1)))
        ∧ (s.isPinned x = true → (∀ z ∈ l, s.isPinned z = true) → l.length < 1024 →
          exec (.reclaim ch d a) s = .next (retired (s.setBittern g.job (l ++ [x])) w f (.uni d) (f.setU d 0) (onward f 1)))
        ∧ (s.isPinned x = true → (∀ z ∈ l, s.isPinned z = true) → 1024 ≤ l.length →
          exec (.reclaim ch d a) s = .next (parked s w f .reclaim))))
    ∧ (∀ d, HasU b [d] → Drained s b →
      let l := s.bittern g.job
      (∀ older y newer, l = older ++ y :: newer → (∀ z ∈ older, s.isPinned z = true) → s.isPinned y = false →
        exec (.reclaimd ch d) s = .next (retired (s.setBittern g.job (older ++ newer)) w f (.uni d) (f.setU d y) (onward f 1)))
      ∧ ((∀ z ∈ l, s.isPinned z = true) → exec (.reclaimd ch d) s = .next (retired s w f (.uni d) (f.setU d 0) (onward f 1))))
    ∧ (∀ d a, HasU b [d, a] →
      exec (.alw ch d a) s = .next (retired s w f (.uni d) (f.setU d (BitVec.ofNat 64 (s.allowance ((f.getU a).setWidth 11)))) (onward f 1)))

/-- 18 R326 to R330, R323, R324: TRAP and BRK trap for ACTIVE with their immediate in %tinfo; RETT in handler mode goes back to
%tpc, skips the instruction there or substitutes for it, traps when %tpc is no instruction boundary, and outside handler mode traps PRIVILEGE. That
RETT .subst traps ILLEGAL_OP after the causes 0x14, 0x17, 0x18, 0x19 and 0x1B, whatever %tinfo holds, is the model's choice (log 31). -/
def Obligations.TrapInstructions : Prop :=
  ∀ s f w b g, Runs s f w b g →
    (∀ h imm, activeMask f h ≠ 0 →
      exec (.trap h imm) s = .next (s.takeTrap f w b ⟨.software, activeMask f h, 0, imm.setWidth 64⟩)
      ∧ exec (.brk h imm) s = .next (s.takeTrap f w b ⟨.breakpoint, activeMask f h, 0, imm.setWidth 64⟩))
    ∧ (∀ h imm, activeMask f h = 0 → exec (.trap h imm) s = .next (retired s w f .none f (onward f 2))
      ∧ exec (.brk h imm) s = .next (retired s w f .none f (onward f 2)))
    ∧ (∀ ch form, f.handler = false → exec (.rett ch form) s = .next (plainTrap s f w b .privilege f.mask))
    ∧ (∀ ch next, f.handler = true → s.boundary g.job b.kernel w.frame.tpc = .ok next →
      let back := fun (pc : DWord) (m : Option Mask) => (s.setFrag { f with
        handler := false, pc, subst := m, arrived := none, replies := [], kept := [], relSent := false, relPaid := [], emptyWait := 0, run := .ready }).markRetired
      exec (.rett ch .retry) s = .next (back w.frame.tpc none)
      ∧ exec (.rett ch .skip) s = .next (back next none)
      ∧ (let one := (w.frame.tinfo.setWidth 4 = 1#4 ∧ w.frame.tinfo.extractLsb' 10 2 = 0#2 ∨ w.frame.tinfo.setWidth 4 = 3#4)
          ∧ w.frame.tcause.toNat ∉ [0x14, 0x17, 0x18, 0x19, 0x1B]
        (one → exec (.rett ch .subst) s = .next (back w.frame.tpc (some (w.frame.tmask.setWidth 32))))
        ∧ (¬one → exec (.rett ch .subst) s = .next (plainTrap s f w b .illegalOp f.mask))))
    ∧ (∀ ch form cause, f.handler = true → s.boundary g.job b.kernel w.frame.tpc = .error cause →
      exec (.rett ch form) s = .next (s.takeTrap f w b ⟨cause, f.mask, w.frame.tpc, 0⟩))

/-- 18 R324, R326, R327, R331 to R333, R340: a trap outside handler mode writes the trap frame and enters the handler at %tvec; with %tvec 0 it
kills the block, in handler mode it is a double trap, and while another fragment of the warp is in handler mode or stopped, or a stop of another
warp freezes it, it waits and tries again; PREQ. -/
def Obligations.TrapEntry : Prop :=
  (∀ (s : State) (f : Frag) (w : Warp) (b : Block) (t : TrapInfo),
     let s0 := (s.forgetEarly (w.serials f.mask)).refund f.id
     (f.handler = true → s.takeTrap f w b t = s0.killBlock b.id 0x1F)
     ∧ (f.handler = false → s.takeTrap f w b t =
         s0.enterTrap { f with subst := none, arrived := none, replies := [], kept := [], relSent := false, relPaid := [], emptyWait := 0 } w b t))
  ∧ (∀ (s : State) (f : Frag) (w : Warp) (b : Block) (t : TrapInfo),
     let others := s.work.frags.filter (fun x => x.warp == w.id && x.id != f.id)
     let written := s.setWarp { w with frame := ⟨f.pc, BitVec.ofNat 64 t.cause.code.toNat, BitVec.ofNat 64 t.lanes.toNat, t.addr, t.info,
       BitVec.ofNat 64 (w.ctx.toNat + 2 ^ 8 * f.splitFrom.toNat + if f.isSplit then 2 ^ 15 else 0),
       BitVec.ofNat 64 (others.foldl (fun (m : Mask) x => m ||| x.mask) 0).toNat⟩ }
     let held := (∃ x ∈ others, x.handler = true ∨ x.run = .stopped)
       ∨ ∃ v ∈ s.work.warps, v.block = w.block ∧ v.id ≠ w.id ∧ v.dctl.getLsbD 1 = true ∧ ∃ x ∈ s.work.frags, x.warp = v.id ∧ x.run = .stopped
     let debugged := w.dctl.getLsbD 2 = true ∧ (t.cause = .breakpoint ∨ t.cause = .step)
     let next := fun (z : State) => s.enterTrap f w b t = z
       ∧ (s.frag? f.id = some f → f.run = .atEntry t → s.warp? f.warp = some w → s.block? w.block = some b → b.run = .placed → b.saving = false →
           exec (.trapEntry f.id) s = .next z)
     (held → next (s.setFrag { f with run := .atEntry t }))
     ∧ (¬held → debugged → next ((written.setFrag { f with run := .stopped }).modFw (fun y => { y with stops := y.stops ++ [w.id] })))
     ∧ (¬held → ¬debugged → w.tvec = 0 → next (written.killBlock b.id t.cause.code))
     ∧ (¬held → ¬debugged → w.tvec ≠ 0 → ¬IsPacket b.kernel w.tvec → next (written.killBlock b.id 0x1F))
     ∧ (¬held → ¬debugged → w.tvec ≠ 0 → IsPacket b.kernel w.tvec → next (written.setFrag { f with run := .ready, handler := true, pc := w.tvec })))
  ∧ (∀ s f w b g, Runs s f w b g → ∀ ch d, HasU b [d] →
     ((∀ q, s.queue? g.gid.queue = some q → q.preempt = false) →
       exec (.preq ch d) s = .next (s.takeTrap f w b ⟨.privilege, f.mask, 0, BitVec.ofNat 64 (2 + 16 * d.toNat)⟩))
     ∧ (∀ q, s.queue? g.gid.queue = some q → q.preempt = true →
       let lower := s.work.blocks.filter (fun x => x.run == .placed && x.core / 16 == b.core / 16 &&
         (match s.grid? x.grid with | some y => decide (y.launch.prio < g.launch.prio) | none => false))
       exec (.preq ch d) s = .next (retired ((s.signal lower).soil b.id) w f (.uni d)
         (f.setU d (BitVec.ofNat 64 (lower.countP (fun x => x.preq.isNone)))) (onward f 2))))
  ∧ (∀ (s : State) (lower : List Block),
     let hit := fun (x : Block) => x.run = .placed ∧ x.preq = none ∧ ∃ y ∈ lower, ∃ z ∈ s.work.blocks, z.grid = y.grid ∧ z.gang = y.gang ∧ z.id = x.id
     let t := s.signal lower
     t.ctl = s.ctl ∧ t.mem = s.mem ∧ t.work.frags = s.work.frags ∧ t.work.warps = s.work.warps
     ∧ (∀ x ∈ s.work.blocks, (hit x → ({ x with preq := some s.cycle } : Block) ∈ t.work.blocks) ∧ (¬hit x → x ∈ t.work.blocks)))

/-- 02 R20, 09 R178, R197, 10 R216, 12 R254: the operators of ATOM, RED and REDM at one location, and what one application leaves there; a REDM on its
way is applied when it lands, waits at a draining page, and is seen by the threads of its own fragment only from its reveal on. -/
def Obligations.OperatorTables : Prop :=
  (∀ (wide : Bool) (old x y : DWord),
     let n := if wide then 64 else 32
     let o := old.setWidth n
     let a := x.setWidth n
     let is := fun (aop : BitVec 4) (r : BitVec n) => (atomicOp aop wide old x y).setWidth n = r
     is 0 (BitVec.ofNat n (o.toNat + a.toNat)) ∧ is 1 (o &&& a) ∧ is 2 (o ||| a) ∧ is 3 (o ^^^ a)
     ∧ is 4 (if o.toInt ≤ a.toInt then o else a) ∧ is 5 (if a.toInt ≤ o.toInt then o else a)
     ∧ is 6 (if o.toNat ≤ a.toNat then o else a) ∧ is 7 (if a.toNat ≤ o.toNat then o else a)
     ∧ is 8 a ∧ is 9 (if o = a then y.setWidth n else o)
     ∧ (wide = false →
         is 10 (BitVec.ofNat n (Fmt.fp32.round .rne false (sumFv .rne [fp32 (old.setWidth 32), fp32 (x.setWidth 32)])).1)
         ∧ is 11 (BitVec.ofNat n (Fmt.fp32.minmax false (old.setWidth 32).toNat (x.setWidth 32).toNat).1)
         ∧ is 12 (BitVec.ofNat n (Fmt.fp32.minmax true (old.setWidth 32).toNat (x.setWidth 32).toNat).1)))
  ∧ (∀ (old x : Word),
     redmOp 0 old x = BitVec.ofNat 32 (Fmt.fp32.round .rne false (sumFv .rne [fp32 old, fp32 x])).1
     ∧ redmOp 1 old x = BitVec.ofNat 32 (Fmt.fp32.minmax true old.toNat x.toNat).1
     ∧ redmOp 2 old x = BitVec.ofNat 32 (Fmt.fp32.minmax false old.toNat x.toNat).1
     ∧ (∀ i, i < 2 →
         let h := fun (z : Word) => z.toNat / 65536 ^ i % 65536
         (redmOp 3 old x).toNat / 65536 ^ i % 65536 =
           (Fmt.bf16.round .rne false (sumFv .rne [Fmt.bf16.decode (h old), Fmt.bf16.decode (h x)])).1 % 65536
         ∧ (redmOp 4 old x).toNat / 65536 ^ i % 65536 = (Fmt.bf16.minmax true (h old) (h x)).1 % 65536
         ∧ (redmOp 5 old x).toNat / 65536 ^ i % 65536 = (Fmt.bf16.minmax false (h old) (h x)).1 % 65536)
     ∧ redmOp 6 old x = BitVec.ofNat 32 (old.toNat + x.toNat)
     ∧ (redmOp 7 old x).toInt = max old.toInt x.toInt ∧ (redmOp 8 old x).toInt = min old.toInt x.toInt)
  ∧ (∀ (s : State) (a : Nat) (aop : BitVec 4) (wide : Bool) (x y : DWord) (v : Word), s.mem.hbm.wf = true →
     let n := if wide then 8 else 4
     let old := fun k => natOfBytes (homeBytes s (.hbm a) k)
     let r := s.atomicAt (.hbm a) aop wide x y
     let t := s.redmAt (.hbm a) aop v
     r.1 = BitVec.ofNat 64 (old n) ∧ homeBytes r.2 (.hbm a) n = bytesOf (atomicOp aop wide (BitVec.ofNat 64 (old n)) x y) n
     ∧ homeBytes t (.hbm a) 4 = bytesOf (redmOp aop (BitVec.ofNat 32 (old 4)) v) 4
     ∧ (∀ k, k < a ∨ a + n ≤ k → homeBytes r.2 (.hbm k) 1 = homeBytes s (.hbm k) 1)
     ∧ (∀ k, k < a ∨ a + 4 ≤ k → homeBytes t (.hbm k) 1 = homeBytes s (.hbm k) 1))
  ∧ (∀ (s : State) (x : Redm), x ∈ s.sync.redms →
     (s.canReach x.place = false → s.landRedm x = s)
     ∧ (∀ a, x.place = .hbm a → ∃ u : State, s.landRedm x = u.applyRedm x ∧ u.mem = s.mem ∧ u.work = s.work
       ∧ (∀ y, y ∈ u.sync.redms ↔ y ∈ s.sync.redms ∧ y.id ≠ x.id) ∧ u.sync.histories = s.sync.histories ∧ u.sync.hidden = s.sync.hidden))
  ∧ (∀ (s : State) j g o lf, s.leaf? j g = some lf → (pteShst lf.pte = shDraining → s.canReach (.frame j g o) = false)
     ∧ (pteShst lf.pte = shSharded → s.canReach (.frame j g o) = s.frameFree lf.size)
     ∧ (pteShst lf.pte ≠ shDraining → pteShst lf.pte ≠ shSharded → s.canReach (.frame j g o) = true))
  ∧ (∀ (s : State) (x : Redm) a, s.mem.hbm.wf = true → x.place = .hbm a →
     let new := bytesOf (redmOp x.aop (BitVec.ofNat 32 (natOfBytes (homeBytes s (.hbm a) 4))) x.word) 4
     let t := s.applyRedm x
     homeBytes t (.hbm a) 4 = new ∧ (∀ k, k < a ∨ a + 4 ≤ k → homeBytes t (.hbm k) 1 = homeBytes s (.hbm k) 1)
     ∧ (s.sync.hidden = [] → ∀ r i, i < 4 →
       t.byteFor r (.hbm (a + i)) = (if r ∈ x.readers then homeBytes s (.hbm a) 4 else new).getD i 0
       ∧ ∀ p, p x = true → (t.reveal p).byteFor r (.hbm (a + i)) = new.getD i 0))

/-- 11 R226, R227, R228, 12 R253, R254: ATOM and RED on places of this device act by ascending vlane, each lane on what the ones before it
left, and ATOM gives every lane the value it found; REDM sends one application for each word, which lands later. -/
def Obligations.Atomics : Prop :=
  ∀ s f w b g, Runs s f w b g → Drained s b → ∀ (h : Head) (d : BitVec 6) (m : MemOp) (pl : Nat → Place) (t : Nat → State),
    HasU b [m.a] → (m.ix = true → HasV b [m.b]) → d.toNat + regsOfWd m.wd ≤ b.kernel.vreg →
    let act := activeMask f h
    let wide := decide (m.wd = 3)
    let n := accessBytes m
    Sound s act n pl →
    (Resolves s f w b g act m true n .both pteKy atomFmtBad pl →
      m.e.toNat + (if m.aop = 9 then 2 else 1) * (if wide then 2 else 1) ≤ b.kernel.vreg →
      let result := fun (l : Nat) (s : State) => s.atomicAt (pl l) m.aop wide (operand f m.e wide l) (operand f (m.e + if wide then 2 else 1) wide l)
      t 0 = s → ByLane act (fun l s => (result l s).2) t →
      exec (.atom h d m) s = .next (retired (voided (if act = 0 then t 32 else soiledBy (t 32) b m.sp) w act pl n) w f (.vec d (regsOfWd m.wd))
        (writeOld f d wide act (fun l => (result l (t l)).1)) (onward f 2)))
    ∧ (Resolves s f w b g act m true n .write pteKy atomFmtBad pl →
      t 0 = unqueued s f → ByLane act (fun l (s : State) => (s.atomicAt (pl l) m.aop wide (operand f d wide l) 0).2) t →
      exec (.red h d m) s = .next (retired (voided (if act = 0 then t 32 else soiledBy (t 32) b m.sp) w act pl n) w f .none f (onward f 2)))
    ∧ (Resolves s f w b g act m true n .redm pteKy (fun e => !redmFmt m.aop (pteFmt e)) pl →
      t 0 = unqueued s f →
      ByLane act (fun l s => (List.range (regsOfWd m.wd)).foldl (fun s k =>
        redmSent s b (w.serials (maskOf (fun i => i == l))) (w.serials f.mask) m.col ((pl l).at (4 * k)) m.aop (f.getV (d + BitVec.ofNat 6 k) l)) s) t →
      exec (.redm h d m) s = .next (retired (if act = 0 then t 32 else (t 32).soil b.id) w f .none f (onward f 2)))

/-- 09 R177 to R179, 11 R224: LDF of full granules loads and, with .take, leaves exactly those granules empty; with an empty granule it
waits, at most 16,777,216 cycles. -/
def Obligations.FullEmpty : Prop :=
  ∀ s f w b g, Runs s f w b g → Drained s b → ∀ (h : Head) (d : BitVec 6) (m : MemOp) (u : Buf) (off : Nat → Nat),
    HasU b [m.a] → (m.ix = true → HasV b [m.b]) → d.toNat + regsOfWd m.wd ≤ b.kernel.vreg → u ≠ .c →
    let act := activeMask f h
    let n := accessBytes m
    let pl := fun l => Place.buf b.id u (off l)
    Resolves s f w b g act m false n .read noKeyRule noKeyRule pl → Sound s act n pl → (∀ l, act.getLsbD l → Settled s (pl l) n) →
    ((∀ l, l < 32 → act.getLsbD l → b.isFull u (off l / 16) = true) →
      ∃ t b', t.block? b.id = some b' ∧ t.mem = s.mem
        ∧ (∀ v gr, v ≠ .c → (b'.isFull v gr = true ↔ b.isFull v gr = true ∧ ¬(m.q = 1 ∧ v = u ∧ ∃ l, l < 32 ∧ act.getLsbD l ∧ off l / 16 = gr)))
        ∧ (∀ v, b'.buf v = b.buf v)
        ∧ exec (.ldf h d m) s = .next (retired t w f (.vec d (regsOfWd m.wd)) (writeLoaded f d m act (fun l => seenBytes s f b (pl l) n)) (onward f 2)))
    ∧ ((∃ l, l < 32 ∧ act.getLsbD l ∧ b.isFull u (off l / 16) = false) → f.emptyWait < 16777216 →
      exec (.ldf h d m) s = .next (parked s w f .fullEmpty))
    ∧ (∀ lo, lo < 32 → act.getLsbD lo = true → b.isFull u (off lo / 16) = false →
      (∀ l, l < lo → act.getLsbD l = true → b.isFull u (off l / 16) = true) → 16777216 ≤ f.emptyWait →
      exec (.ldf h d m) s = .next (s.takeTrap f w b ⟨.emptyTimeout, maskOf (fun l => act.getLsbD l && !b.isFull u (off l / 16)), laneAddr f m false lo,
        BitVec.ofNat 64 (1 + 16 * d.toNat + 1024 * (regsOfWd m.wd - 1))⟩))

/-- 02 R22, R24, 11 R225: LDE gives each lane the element of its typed page, as FP32 or INT32. -/
def Obligations.TypedLoads : Prop :=
  (∀ s f w b g, Runs s f w b g → ∀ (h : Head) (d : BitVec 6) (m : MemOp) (lf : Nat → Leaf) (loc : Nat → ElemLoc) (p q : Nat → Place),
    HasU b [m.a] → (m.ix = true → HasV b [m.b]) → HasV b [d] →
    (∀ l, activeMask f h |>.getLsbD l → ElementAt s f w b g m l (lf l) (loc l) (p l) (q l)) → NothingEarly s w (activeMask f h) →
    exec (.lde h d m) s = .next (retired s w f (.vec d 1) (f.setV d (activeMask f h) (fun l =>
      elemWord (pteFmt (lf l).pte) (loc l) (seenBytes s f b (p l) (loc l).len) (if (loc l).scale.isSome then seenByte s f b (q l) else 0)))
      (onward f 2)))
  ∧ (∀ (fmt : BitVec 4) (bg : BitVec 2) i,
      (fmt = 1 ∨ fmt = 8 → elemLoc fmt bg i = ⟨4 * i, 4, false, none⟩) ∧ (fmt = 2 ∨ fmt = 3 → elemLoc fmt bg i = ⟨2 * i, 2, false, none⟩)
      ∧ (4 ≤ fmt.toNat → fmt.toNat ≤ 7 → elemLoc fmt bg i = ⟨i, 1, false, none⟩)
      ∧ (fmt = 10 → elemLoc fmt bg i = ⟨i / 2, 1, decide (i % 2 = 1), none⟩)
      ∧ (fmt = 9 → ∀ n codes block, (bg = 1 ∧ n = 122880 ∧ codes = 61440 ∧ block = 32) ∨ (bg = 2 ∧ n = 114688 ∧ codes = 57344 ∧ block = 16) →
          elemLoc fmt bg i = ⟨65536 * (i / n) + i % n / 2, 1, decide (i % 2 = 1), some (65536 * (i / n) + codes + i % n / block)⟩))
  ∧ (∀ (fmt : BitVec 4) (loc : ElemLoc) (bs : List Byte) (scale : Byte),
      let w := elemWord fmt loc bs scale
      let n := natOfBytes bs
      let code := if loc.high then n / 16 % 16 else n % 16
      (1 ≤ fmt.toNat → fmt.toNat ≤ 5 → Widened w.toNat ((fmtOf fmt).decode (n % 2 ^ (fmtOf fmt).width)))
      ∧ (fmt = 6 → w = (BitVec.ofNat 8 n).signExtend 32) ∧ (fmt = 7 → w.toNat = n % 256) ∧ (fmt = 8 → w = BitVec.ofNat 32 n)
      ∧ (fmt = 9 → scale.toNat % 64 = 63 → w = 0x7FC00000)
      ∧ (fmt = 9 → scale.toNat % 64 < 63 → (fp32 w).isNan = false ∧ (∀ s, fp32 w ≠ .inf s)
          ∧ val (fp32 w) = codeValue (BitVec.ofNat 2 (scale.toNat / 64)) code * 2 ^ ((scale.toNat % 64 : Nat) - 31 : ℤ))
      ∧ (fmt = 10 → (fp32 w).isNan = false ∧ (∀ s, fp32 w ≠ .inf s) ∧ val (fp32 w) = codeValue 0 code))

/-- 11 R229, R231, 14 R299: MST enters its own stores and a copy for every other member of the group, at the price of the copies;
EVICT acts on every page it names, once, and waits while one cannot leave its state or finds no entry for its drain. That it waits while accesses
still use a page is the model's choice (log 29). -/
def Obligations.MulticastAndEvict : Prop :=
  ∀ s f w b g, Runs s f w b g → ∀ (h : Head) (m : MemOp), HasU b [m.a] → (m.ix = true → HasV b [m.b]) →
    let act := activeMask f h
    (∀ d pl gr s', d.toNat + regsOfWd m.wd ≤ b.kernel.vreg → HasU b [m.e] → m.sp = .g →
      s.group? ((f.getU m.e).setWidth 12) = some gr → gr.flags.getLsbD 0 = true → gr.flags.getLsbD 2 = true → gr.job = g.job →
      Resolves s f w b g act m false (accessBytes m) .write noKeyRule noKeyRule pl → act ≠ 0 →
      let own := (Mask.lanes act).map (fun l => lanePiece w b .g l (laneAddr f m false l) (pl l) (laneBytes f d l (accessBytes m)))
      let others := (List.range gr.n).filter (· != gr.rank)
      let copies := own.flatMap (fun x => others.map (fun r => { x with place := .member gr.sgid r ((gr.members.getD r 0).setWidth 11) x.va, sync := none }))
      s.pay f.id (costs (mstCosts gr own)) = (s', true) →
      exec (.mst h d m) s = .next (retired (s'.pushStore b.id f.id m.col false (own ++ copies)) w f .none f (onward f 2)))
    ∧ (∀ lf : Nat → Leaf,
      (∀ l, l < 32 → act.getLsbD l →
        ∃ p, evictCheck (s.check g w b m.sp l (laneAddr f m false l) 1 .touch noKeyRule noKeyRule) = .ok p (some (lf l))) →
      let pages := distinct ((Mask.lanes act).map lf)
      (pages.any s.evictBlocked = true → exec (.evict h m) s = .next s)
      ∧ (pages.any s.evictBlocked = false → pages.any s.drainFull = true → exec (.evict h m) s = .next (parked s w f .page))
      ∧ (pages.any s.evictBlocked = false → pages.any s.drainFull = false →
        exec (.evict h m) s = .next (retired (pages.foldl (fun s x => s.evictPage (s.reLeaf x)) s) w f .none f (onward f 2))))

/-- 14 R298, 09 R191, 12 R253: a load of another device's lines waits while a request of it is out; with every line at hand it writes, byte by byte,
what its block's buffers hold, else what they held when it sent for the line, else the line's; for those it lacks it sends READs. -/
def Obligations.RemoteLoads : Prop :=
  ∀ s f w b g, Runs s f w b g → ∀ (h : Head) (d : BitVec 6) (m : MemOp) (dev : Nat → BitVec 11) (pa : Nat → Nat),
    HasU b [m.a] → (m.ix = true → HasV b [m.b]) → d.toNat + regsOfWd m.wd ≤ b.kernel.vreg →
    let act := activeMask f h
    let n := accessBytes m
    (∀ l, act.getLsbD l → ∃ leaf, s.check g w b m.sp l (laneAddr f m false l) n .read noKeyRule noKeyRule = .ok (.far (dev l) (pa l)) leaf) →
    (∀ r : Nat → Reply,
      (∀ l, act.getLsbD l → f.replies.find? (fun x => x.dev == dev l && x.addr == pa l / 64 * 64) = some (r l) ∧ (r l).status = 0) →
      NothingEarly s w act →
      exec (.ld h d m) s = .next (retired s w f (.vec d (regsOfWd m.wd))
        (writeLoaded f d m act (fun l => (List.range n).map (fun i =>
          let q := Place.far (dev l) (pa l + i)
          (buffered b f.id q).getD (((f.kept.find? (fun x => x.1 == q)).map (·.2)).getD (((r l).bytes.drop (pa l % 64)).getD i 0))))) (onward f 2)))
    ∧ ((∃ l, l < 32 ∧ act.getLsbD l = true ∧ ∀ x ∈ f.replies, ¬(x.dev = dev l ∧ x.addr = pa l / 64 * 64)) → s.awaits f.id = true →
      exec (.ld h d m) s = .next (parked s w f .remoteReply))
    ∧ (∀ s',
      let missing := (distinct ((Mask.lanes act).map (fun l => (dev l, pa l / 64 * 64)))).filter (fun x => f.replies.all (fun r => !(r.dev == x.1 && r.addr == x.2)))
      let granules := distinct (missing.map (fun x => (x.1, x.2 / 256)))
      let held := (Mask.lanes act).flatMap (fun l => (List.range n).filterMap (fun i =>
        (buffered b f.id (.far (dev l) (pa l + i))).map (fun v => (Place.far (dev l) (pa l + i), v))))
      missing ≠ [] → s.awaits f.id = false → s.pay f.id (costs (granules.map (fun x => (x.1, 1)))) = (s', true) →
      exec (.ld h d m) s = .next (parked (s'.sendReads (s.jobKey g.job) (.load f.id) missing) w { f with kept := held } .remoteReply))

/-- 11 R233 to R236, R239: CPY and QFENCE enter their operation at the end of their queue, with what it moves and whom it tells. -/
def Obligations.CopyQueues : Prop :=
  ∀ s f w b g, Runs s f w b g → ∀ ch (e : BitVec 6) (q : BitVec 3) ck dn, QueueRoom b w q → HasCk b ck e →
    let c := setting s f w b g (activeMask f (uni ch))
    Completes c ck (f.getU e) dn →
    (∀ d a b' dsp ssp srcs dsts, HasU b [d, a, b'] →
      let n := (f.getU b').toNat
      (f.getU d).toNat % 16 = 0 → (f.getU a).toNat % 16 = 0 → n % 16 = 0 → n ≤ 16777216 →
      Spans c ssp .read noKeyRule noKeyRule (decide (ssp = .w)) (s.chunks g.job ssp (f.getU a) n) srcs →
      Spans c dsp .write noKeyRule noKeyRule false (s.chunks g.job dsp (f.getU d) n) dsts →
      exec (.cpy ch d a b' e dsp ssp q ck) s = .next (retired
        (entered s f w b q (zipSpans 4096 srcs dsts) 0 false none [] none dn n) w f .none f (onward f 2)))
    ∧ (∀ mask, exec (.qfence ch e q ck mask) s = .next (retired
        (entered s f w b q [] 0 false none
          ((List.range 8).flatMap (fun i => if mask.getLsbD i then (b.queues.toList.getD i []).map (·.id) else [])) (some mask) dn 1)
        w f .none f (onward f 2)))

/-- 03 R37, R38, 11 R237, R238: CPYT reads its tensor record and enters the moves of its box, from the tensor or to it. That an element of FMT 0 counts
as one byte (log 15) and what a box without elements enters (log 34) are the model's choices. -/
def Obligations.TensorCopies : Prop :=
  (∀ s f w b g, Runs s f w b g → ∀ ch d a b' e st inW (q : BitVec 3) ck box1 box0 dn p leaf t spans, QueueRoom b w q →
    HasU b [d, a, b', b' + 1] → HasCk b ck e →
    let c := setting s f w b g (activeMask f (uni ch))
    Completes c ck (f.getU e) dn →
    OneAccess s f w b g .g (f.getU a) 64 .read noKeyRule p leaf → NothingEarly s w f.mask → readTlr (seenBytes s f b p 64) = some t →
    let dst := f.getU d
    let c0 := (f.getU b').toNat % 2 ^ 32
    let c1 := (f.getU b').toNat / 2 ^ 32
    let runs := boxRuns t c0 c1 ((f.getU (b' + 1)).toNat % 2 ^ 32) ((f.getU (b' + 1)).toNat / 2 ^ 32) (box0.toNat + 1) (box1.toNat + 1)
    let nibble := t.fmt = 9 ∨ t.fmt = 10
    let total := boxBytes runs
    let buf := if inW then Buf.w else .a
    dst.toNat % 16 = 0 →
    (nibble → box1 = 0 ∧ inW = true ∧ dst.toNat % 65536 = 0 ∧ c0 % unitCount t.fmt t.bg = 0 ∧ box0.toNat + 1 ≤ 16) →
    (t.key ≠ 0 → inW = true ∧ c.keyLoaded t.key = true ∧ ∀ x ∈ runs, x.va.toNat % 64 = 0 ∧ (nibble ∨ (box0.toNat + 1) * elemSize t.fmt % 64 = 0)) →
    Spans c .g (if st then .write else .read) (fun e => pteKy e != (t.key != 0)) (fun e => pteFmt e != 0 && pteTag e != t.tag) false
      (runs.flatMap (fun x => s.chunksG g.job 64 x.va x.len)) spans →
    dst.toNat + total ≤ b.limit buf → (inW = true → sealClash b dst.toNat total t.key st = false) →
    exec (.cpyt ch d a b' e st inW q ck box1 box0) s = .next (retired
      (entered s f w b q
        ((splitRuns (runs.map (fun x => (x, (s.chunksG g.job 64 x.va x.len).length))) spans).flatMap
          (fun x => runMoves st ⟨.buf b.id buf dst.toNat, total, 0, dst, false⟩ x.1 x.2))
        t.key (t.key != 0 && !st) (if inW && !st then some t.tag else none) [] none dn total) w f .none f (onward f 2)))
  ∧ (∀ (t : Tlr) (c0 c1 c2 c3 box0 box1 : Nat),
      let first := fun (i : Nat) => t.base + BitVec.ofNat 64 (i * t.strides.getD 0 0 + c2 * t.strides.getD 1 0 + c3 * t.strides.getD 2 0)
      let inside := fun (i : Nat) => i < t.dims.getD 1 1 ∧ c2 < t.dims.getD 2 1 ∧ c3 < t.dims.getD 3 1
      let size := if t.fmt = 1 ∨ t.fmt = 8 then 4 else if t.fmt = 2 ∨ t.fmt = 3 then 2 else 1
      (t.fmt ≠ 9 → t.fmt ≠ 10 → (boxRuns t c0 c1 c2 c3 box0 box1).length = box1 ∧ ∀ r, r < box1 →
        let pitch := (box0 * size + 15) / 16 * 16
        (boxRuns t c0 c1 c2 c3 box0 box1)[r]? = some ⟨first (c1 + r) + BitVec.ofNat 64 (c0 * size),
          if inside (c1 + r) then min box0 (t.dims.headD 0 - c0) * size else 0, pitch * r, pitch⟩)
      ∧ (t.fmt = 9 ∨ t.fmt = 10 → ∀ per, (t.fmt = 10 ∧ per = 131072) ∨ (t.fmt = 9 ∧ t.bg = 1 ∧ per = 122880) ∨ (t.fmt = 9 ∧ t.bg = 2 ∧ per = 114688) →
        (boxRuns t c0 c1 c2 c3 box0 box1).length = box0 ∧ ∀ r, r < box0 →
        (boxRuns t c0 c1 c2 c3 box0 box1)[r]? = some ⟨first c1 + BitVec.ofNat 64 (65536 * (c0 / per + r)),
          if inside c1 ∧ c0 / per + r < t.dims.headD 0 / per then 65536 else 0, 65536 * r, 65536⟩))

/-- 11 R240: LDT loads the rows of ACTIVE from A or W, 64 bytes each; STT enters the rows of ACTIVE as stores to A, of colour 0, which is the model's
choice (log 16). -/
def Obligations.TileRows : Prop :=
  ∀ s f w b g, Runs s f w b g → ∀ h d a pitch imm, HasT b [d] → HasU b [a] →
    let act := activeMask f h
    let at' := rowAddr f a pitch imm
    (∀ sp, (sp = .a ∨ sp = .w) →
      let buf := if sp = .w then Buf.w else .a
      (∀ i, act.getLsbD i → (at' i).toNat % 16 = 0 ∧ (at' i).toNat + 64 ≤ b.limit buf ∧ (sp = .w → sealedAt b (at' i).toNat 64 = false)
        ∧ s.isPoisoned (.buf b.id buf (at' i).toNat) 64 = false ∧ Settled s (.buf b.id buf (at' i).toNat) 64) → NothingEarly s w act →
      exec (.ldt h d a sp pitch imm) s = .next (retired s w f (.tile d)
        (f.setT d act (fun i => ofBytes 512 (seenBytes s f b (.buf b.id buf (at' i).toNat) 64))) (onward f 2)))
    ∧ ((∀ i, act.getLsbD i → (at' i).toNat % 16 = 0 ∧ (at' i).toNat + 64 ≤ b.limit .a) →
      exec (.stt h d a pitch imm) s = .next (retired (s.pushStore b.id f.id 0 false ((Mask.lanes act).map (fun i =>
        lanePiece w b .a i (at' i) (.buf b.id .a (at' i).toNat) (bytesOf (tileRow f d i) 64)))) w f .none f (onward f 2)))

/-- 11 R246 to R248: ACCRD, ACCWR, ACCLD, ACCST, ACCZ and TXP, in the rows of ACTIVE. -/
def Obligations.Accumulators : Prop :=
  ∀ s f w b g, Runs s f w b g → ∀ h,
    let act := activeMask f h
    (∀ d a b' cv, (cv = true → HasV b [b']) →
      let col := fun l => (if cv then (f.getV b' l).toNat else b'.toNat) % 32
      (HasV b [d] → HasA b [a] → exec (.accrd h d a b' cv) s = .next (retired s w f (.vec d 1) (f.setV d act (fun l => accElem f a l (col l))) (onward f 1)))
      ∧ (∀ dd aa, HasA b [dd] → HasV b [aa] → exec (.accwr h dd aa b' cv) s = .next (retired s w f (.acc dd)
          (f.setA dd act (fun l => rowOf (fun j => if j = col l then f.getV aa l else accElem f dd l j))) (onward f 1))))
    ∧ (∀ d a imm, HasA b [d] → HasU b [a] → (addr f a imm).toNat % 128 = 0 → (addr f a imm).toNat + 4096 ≤ b.limit .c → act ≠ 0 →
      let row := fun i => Place.buf b.id .c ((addr f a imm).toNat + 128 * i)
      ((∀ i, act.getLsbD i → s.isPoisoned (row i) 128 = false ∧ Settled s (row i) 128) → NothingEarly s w act →
        exec (.accld h d a imm) s = .next (retired s w f (.acc d) (f.setA d act (fun i =>
          rowOf (fun j => ofBytes 32 (((seenBytes s f b (row i) 128).drop (4 * j)).take 4)))) (onward f 2)))
      ∧ exec (.accst h d a imm) s = .next (retired (s.pushStore b.id f.id 0 false ((Mask.lanes act).map (fun i =>
          lanePiece w b .c i (addr f a imm) (row i) ((List.range 32).flatMap (fun j => bytesOf (accElem f d i j) 4)))))
          w f .none f (onward f 2)))
    ∧ (∀ d, HasA b [d] → exec (.accz h d) s = .next (retired s w f (.acc d) (f.setA d act (fun _ => rowOf (fun _ => 0))) (onward f 1)))
    ∧ (∀ d a, HasA b [d, a] → exec (.txp h d a false) s = .next (retired s w f (.acc d)
        (f.setA d act (fun i => rowOf (fun j => accElem f a j i))) (onward f 1)))
    ∧ (∀ d a, HasT b [d, a] → ∃ x : Nat → BitVec 512,
        (∀ i j, i < 32 → j < 32 → (x i).extractLsb' (16 * j) 16 = (tileRow f a j).extractLsb' (16 * i) 16)
        ∧ exec (.txp h d a true) s = .next (retired s w f (.tile d) (f.setT d act x) (onward f 1)))

/-- 02 R31, 11 R242 to R245: MMA and MMAZ multiply tile A by B from a tile, from W of the block or of the gang, or from a tensor, and
write the rows of ACTIVE. -/
def Obligations.Products : Prop :=
  ∀ (i : Instr) zero h d a b' e src bf af, Product i zero h d a b' e src bf af → ∀ s f w b g, Runs s f w b g → HasA b [d] → HasT b [a] →
    let act := activeMask f h
    let done := fun (brow : Nat → List Fv) => exec i s = .next (retired s w f (.acc d) (product f act d a zero af brow) (onward f 2))
    let n := rowCount af
    (act = 0 → (src = .tile → HasT b [b'.setWidth 2]) → (src ≠ .tile → HasU b [b']) → (src = .tlr → HasU b [e]) →
      exec i s = .next (retired s w f (.acc d) f (onward f 2)))
    ∧ (act ≠ 0 →
      (src = .tile → HasT b [b'.setWidth 2] → done (fun j => tileElems bf (tileRow f (b'.setWidth 2) j)))
      ∧ (∀ m o fmt bg, src = .w ∨ src = .cw → HasU b [b'] → NothingEarly s w act → InW s b g (decide (src = .cw)) (f.getU b') bf af m o fmt bg →
        done (fun j => (List.range n).map (wElem s f b m o fmt bg j)))
      ∧ (∀ p leaf t (pl : Nat × Nat → Place), src = .tlr → HasU b [b', e] → NothingEarly s w act →
        (s.check g w b .g (Mask.lowest act) (f.getU b') 64 .read noKeyRule noKeyRule = .ok p leaf ∧ Near p ∧ s.isPoisoned p 64 = false ∧ Settled s p 64) →
        readTlr (seenBytes s f b p 64) = some t → (bf = 0 ∨ bf = t.fmt) → mmaPair af t.fmt = true →
        (t.key ≠ 0 → (setting s f w b g act).keyLoaded t.key = true ∧ ∀ j, j < 32 →
          t.inside ((bits (f.getU e) 32 32).toNat + j) 0 0 = true →
          ((t.rowVa ((bits (f.getU e) 32 32).toNat + j) 0 0).toNat + (elemLoc t.fmt t.bg (bits (f.getU e) 0 32).toNat).off) % 64 = 0) →
        (∀ r ∈ tensorRuns t (f.getU e) n, ∃ leaf,
          s.checkG b.core g.job (BitVec.ofNat 64 r.1) r.2 .read (fun x => pteKy x != (t.key != 0)) (fun x => pteFmt x != 0 && pteTag x != t.tag) = .ok (pl r) leaf
          ∧ Near (pl r) ∧ s.isPoisoned (pl r) r.2 = false ∧ Settled s (pl r) r.2 ∧ r.1 < 2 ^ 64 ∧ ∀ k u o, pl r ≠ .buf k u o) →
        let got := (tensorRuns t (f.getU e) n).map (fun r => (r.1, seenBytes s f b (pl r) r.2))
        let key := match s.job? g.job with | some j => (match getKey t.key j.keys with | some k => bytesOf k 64 | none => []) | none => []
        let plain := if t.key = 0 then got else got.map (fun x => (x.1, xtsUnit true key x.1 x.2))
        done (fun j => (List.range n).map (tensorElem t (f.getU e) (byteIn plain) j))))

/-- 02 R31, 11 R244: an element of a product over integers is the exact sum, clamped to INT32 with SAT; over floating-point formats it
is the exact sum rounded once to FP32 by RNE. -/
def Obligations.ProductElements : Prop :=
  ∀ (zero : Bool) (old : Word) (xs ys : List Fv),
    (let sum : Int := (if zero then 0 else old.toInt) + ((List.zipWith Fv.mul xs ys).map (Fv.numOver 0)).sum
     (-2 ^ 31 ≤ sum ∧ sum < 2 ^ 31 → (mmaElem true zero old xs ys).1.toInt = sum ∧ (mmaElem true zero old xs ys).2 = 0)
      ∧ (sum < -2 ^ 31 → mmaElem true zero old xs ys = (0x80000000, Flags.sat))
      ∧ (2 ^ 31 ≤ sum → mmaElem true zero old xs ys = (0x7FFFFFFF, Flags.sat)))
    ∧ (mmaElem false zero old xs ys =
        (BitVec.ofNat 32 (Fmt.fp32.round .rne false (sumFv .rne ((if zero then .fin false 0 0 else fp32 old) :: List.zipWith Fv.mul xs ys))).1,
         (Fmt.fp32.round .rne false (sumFv .rne ((if zero then .fin false 0 0 else fp32 old) :: List.zipWith Fv.mul xs ys))).2))

/-- 03 R42 to R44, R50, R55, R56, 04 R58 to R63, 18 R335: writes of admitted hosts to a queue, and of others; acceptance; the completion record of a
grid; placing a block or a gang, a gang hold, and resuming saved blocks. That a gang, and a gang that resumes, take the lowest partitions of their
cores is the model's choice (log 76), that the record of a grid waits while its CVA waits for a page too (log 18), and which writes the admission
list covers (log 52). -/
def Obligations.LaunchAndPlacement : Prop :=
  (∀ s q, OpenWindow s → s.queue? q.num = some q → q.enable = true →
    (∀ v : HostWrite DWord, Config.admitted v.host = true → exec (.tailWrite q.num v) s = .next (s.setQueue { q with
        tail := v.value.toNat, status := if v.value.toNat < q.tail ∨ q.head + q.size < v.value.toNat then .faulted else q.status }))
    ∧ (∀ slot (r : HostWrite (BitVec 2048)), slot < q.size → Config.admitted r.host = true →
        exec (.queueSlotWrite q.num slot r) s = .next (s.setQueue { q with ring := setKey slot r.value q.ring }))
    ∧ (∀ r l, q.status ≠ .faulted → q.head < q.tail → (getKey (q.head % q.size) q.ring).getD 0 = r → readLaunch r = l →
      (r.toNat / 2 ^ 896 % 2 ^ 64 ≠ q.head + 1 ∨ s.cvaPlace? q.job l.cva = none →
        exec (.recordAccept q.num) s = .next (s.setQueue { q with status := .faulted }))
      ∧ (r.toNat / 2 ^ 896 % 2 ^ 64 = q.head + 1 → s.cvaPlace? q.job l.cva ≠ none →
        ∃ (key head : Nat) (s1 : State),
          let k := readKernel l.kva head
          let grid : Grid := ⟨key, ⟨q.num, BitVec.ofNat 52 (q.head + 1)⟩, false, q.job, l, k, quotaOf r head l, .held, 0, 0, [], 0, 0xFFFFFFFF, 0, 0, 0, 0, false⟩
          let s2 := s1.setQueue { q with head := q.head + 1 }
          s1.work = s.work ∧ s1.mem = s.mem ∧ s1.fab = s.fab ∧ (∀ x ∈ s.work.grids, x.key < s.ctl.nextId → x.key ≠ key)
          ∧ (∀ a, s.codePlace q.job l.kva = some (.hbm a) → (∀ i, i < 64 → s.codePlace q.job (l.kva + BitVec.ofNat 64 i) = some (.hbm (a + i))) →
              head = natOfBytes (s.mem.hbm.getN a 64))
          ∧ exec (.recordAccept q.num) s = .next (match s2.rejection q (q.head + 1) r l head with
            | some reason => s2.finishGrid grid ⟨.rejected, reason, 0xFFFFFFFF, 0⟩
            | none => (s2.modWork (fun y => { y with grids := y.grids ++ [grid] })).settleGrids))))
  ∧ (∀ s num slot (v : HostWrite DWord) (r : HostWrite (BitVec 2048)), (Config.admitted v.host = false → exec (.tailWrite num v) s = .next s)
      ∧ (Config.admitted r.host = false → exec (.queueSlotWrite num slot r) s = .next s))
  ∧ (∀ s id g, s.gridOf? id s.gridDone = some g →
      exec (.gridComplete id) s = .next (if s.cvaWaits g.job g.launch.cva = true then s else s.finishGrid g (verdictOf g)))
  ∧ (∀ (s : State) g v a, s.mem.hbm.wf = true → s.cvaPlace? g.job g.launch.cva = some (.hbm a) → (s.endGrid g v).getAt (.hbm a) 64 = recordOf g v)
  ∧ (∀ s id g u, s.nextGrid? (fun x => x.gid == id) false = some (g, u) →
    (∀ core parts, g.launch.gang = 1 → s.coreFits g u core = true → s.clusterOk g (false, u) (core / 16) = true → s.partsTake core g parts = true →
      exec (.blockPlace id core parts) s = .next ((s.placeBlock g u core parts).modGrid g.key (fun x => x.taken u s.time)))
    ∧ (∀ cores t, 1 < g.launch.gang → s.coresOk g (false, u) cores = true → t 0 = s →
      InTurn cores (fun a c i z => ∃ parts, a.autoParts c g = some parts ∧ z = a.placeBlock g (u * g.launch.gang + i) c parts) t →
      exec (.gangPlace id cores) s = .next (((t cores.length).modGrid g.key (fun x => x.taken u s.time)).dropHold g.key u)))
  ∧ (∀ s id f g cluster, s.noteFirst.work.firstGangs.find? (fun x => (match s.grid? x.grid with | some y => y.gid == id | none => false)
        && x.since + 100000 ≤ s.time) = some f → s.grid? f.grid = some g →
      cluster < 12 → g.launch.gang ≤ (s.work.liveCores.filter (fun c => c / 16 == cluster)).length →
      (∀ h ∈ s.work.holds, h.cluster ≠ cluster ∧ ¬(h.grid = f.grid ∧ h.gang = f.gang)) →
      exec (.gangHold id cluster) s = .next { s with work := { s.work with holds := s.work.holds ++ [⟨f.grid, f.gang, cluster, f.prio⟩] } })
  ∧ (∀ s b g0 g u cores t, s.block? b.id = some b → s.grid? b.grid = some g0 → s.nextGrid? (fun x => x.key == g0.key) true = some (g, u) →
      let bs := s.work.blocks.filter (fun x => x.grid == g.key && x.gang == u && x.run == .saved)
      b ∈ bs → s.coresOk g (true, u) cores = true → t 0 = s →
      InTurn bs (fun a x i z => ∃ parts, a.autoParts (cores.getD i 0) g = some parts ∧ z = a.resumeOne g x (cores.getD i 0) parts) t →
      exec (.blockResume b.id cores) s = .next ((t bs.length).dropHold g.key u))

/-- 03 R36, 04 R58, R61, R65: a placed block starts with empty buffers, clear barriers and every register at its entry value, its threads
numbered across its warps; nothing that was placed before changes. -/
def Obligations.EntryState : Prop :=
  ∀ (s : State) g index core parts, 1 ≤ g.launch.threads → g.launch.threads ≤ g.quota.qthr →
    ∃ b ws fs, (s.placeBlock g index core parts).work.blocks = s.work.blocks ++ [b]
      ∧ (s.placeBlock g index core parts).work.warps = s.work.warps ++ ws ∧ (s.placeBlock g index core parts).work.frags = s.work.frags ++ fs
      ∧ (s.placeBlock g index core parts).mem = s.mem
      ∧ b.grid = g.key ∧ b.index = index ∧ b.gang = index / g.launch.gang ∧ b.core = core ∧ b.kernel = g.kernel ∧ b.quota = g.quota
      ∧ b.a = [] ∧ b.w = [] ∧ b.c = [] ∧ b.fullA = [] ∧ b.fullW = [] ∧ b.binds = [] ∧ b.fsb = [] ∧ b.bsb = [] ∧ b.preq = none ∧ b.clean = true
      ∧ b.pantimer = 512 ∧ b.run = .placed ∧ (∀ i, i < 16 → b.bars.toList.getD i ⟨1, 1⟩ = ⟨0, 0⟩) ∧ (∀ q ∈ b.queues.toList, q = [])
      ∧ ThreadsAtEntry g index ws ∧ (∀ w ∈ ws, w.block = b.id ∧ w.tvec = g.kernel.tvecVa ∧ w.dctl = 0 ∧ w.mstfail = 0 ∧ w.lwin = [])
      ∧ List.Forall₂ (AtEntry g) ws fs

/-- 06 R109, 09 R179, 11 R233 to R235, 12 R252, R255, R265: pans expire and yield; store buffers release and drain; the head of an engine queue
waits for older stores, fetches, writes and completes; a remote part without answer kills the block; a full/empty wait at its limit ends. The model's choices here: older stores of a filed thread
become those of its new fragment (log 79), an entry drains after the older ones of its own block (log 77), a spawned thread brings no flags (log 88),
and what a poisoned operation marks (log 41). -/
def Obligations.BlockMachinery : Prop :=
  (∀ s p, s.pan? p.id = some p → p.opened + p.timer ≤ s.cycle → exec (.panTimerExpire p.id) s = .next (s.setPan { p with expired := true }))
  ∧ (∀ s p b ctx, s.pan? p.id = some p → s.block? p.block = some b → (p.threads.length = 32 ∨ p.expired = true ∧ p.threads.length ≤ 32) → b.preq = none →
      b.run = .placed → (∀ x ∈ s.gangBlocks b.grid b.gang, x.restoring = false) → s.blockFilling b = false → ctx < 32 → s.contextFree b (BitVec.ofNat 5 ctx) = true →
      ∃ (t : State) (w : Warp) (f : Frag), exec (.panYield p.id ctx) s = .next t ∧ Yielded p b ctx w f ∧ t.work.warps = s.work.warps ++ [w]
        ∧ t.work.pans = s.work.pans.filter (fun q => q.id != p.id) ∧ t.mem = s.mem
        ∧ f ∈ t.work.frags ∧ t.work.frags.length = s.work.frags.length + 1
        ∧ (∀ x, x.id ≠ b.id → (x ∈ t.work.blocks ↔ x ∈ s.work.blocks))
        ∧ (let mine := fun (x : Piece) => ∃ k ∈ x.threads, ∃ y ∈ p.threads, y.thread.serial = k
          ∃ b', t.block? b.id = some b' ∧ b' = { b with fsb := b'.fsb, bsb := b'.bsb, wire := b'.wire }
            ∧ (∀ e ∈ b'.fsb, (∃ x ∈ e.pieces, mine x) → f.id ∈ e.frags)
            ∧ ((∀ e ∈ b.fsb ++ b.bsb ++ b.wire, ∀ x ∈ e.pieces, ¬mine x) → b' = b)))
  ∧ (∀ s k b, s.work.blocks.find? (fun x => !(x.fsbOf k).isEmpty) = some b → releasable (b.fsbOf k) ≠ [] →
      ∃ e n, e ∈ releasable (b.fsbOf k) ∧
        exec (.fsbRelease k) s = .next (({ s with ctl := { s.ctl with oracle := n } } : State).releaseEntry b e))
  ∧ (∀ s b g i e, s.block? b.id = some b → s.grid? b.grid = some g → b.bsb[i]? = some e → e.draining = true → b.drainable e = true →
      exec (.bsbDrain b.id i) s = .next (s.drainEntry b g.job e))
  ∧ (∀ s b g q o rest, s.block? b.id = some b → s.grid? b.grid = some g → b.queue q = o :: rest → HeadFree s b g o →
      (o.wrote = true → exec (.enginePerform b.id q) s = .next (s.completeOp b g.job q o))
      ∧ (o.wrote = false → ¬OldStoresDone b o →
        exec (.enginePerform b.id q) s = .next (((s.releaseWhere b.id o.after?).arriveWhere b.id o.after?).publishHeld b.id o.after?))
      ∧ (o.wrote = false → OldStoresDone b o →
        (s.opPoisoned o = true → exec (.enginePerform b.id q) s = .next (s.engineError b o (fun s => s.carryPoison o.moves)))
        ∧ (s.opPoisoned o = false → (o.started = true ∨ o.sources = []) → exec (.enginePerform b.id q) s = .next (
            if o.targets = [] then (s.writeOp b g.job q o).completeOp b g.job q o
            else (s.writeOp b g.job q o).modOp b.id q o.id (fun x => { x with started := true, wrote := true, outstanding := o.targets.length })))
        ∧ (s.opPoisoned o = false → o.started = false → o.sources ≠ [] →
          ∃ t : State, exec (.enginePerform b.id q) s = .next (t.modOp b.id q o.id (fun x => { x with started := true, outstanding := o.sources.length }))
            ∧ t.mem = s.mem ∧ t.work = s.work
            ∧ t.fab.requests.length + t.fab.engineWait.length = s.fab.requests.length + s.fab.engineWait.length + o.sources.length)))
  ∧ (∀ s b q o rest r, s.block? b.id = some b → b.queue q = o :: rest → r ∈ s.fab.requests → r.purpose = .engine b.id q.toNat o.id →
      r.sent + 100000 ≤ s.time → exec (.engineRemoteTimeout b.id q) s = .next ((s.stopOp b.id o.id).killBlock b.id 0x14))
  ∧ (∀ s f w b g since h d m cf pipe s1, s.frag? f.id = some f → s.warp? f.warp = some w → s.block? w.block = some b → s.grid? b.grid = some g →
      b.run = .placed → f.run = .parked .fullEmpty since → 16777216 ≤ f.emptyWait + (s.cycle - since) →
      s.fetch g.job b.kernel f.pc = (.ok (.ldf h d m) cf pipe, s1) →
      let z := s1.dispatch { f with run := .ready, emptyWait := f.emptyWait + (s.cycle - since) } b.core (.ldf h d m) cf pipe
      (∃ s2, exec (.ldf h d m) z = .next s2 ∧ exec (.emptyTimeout f.id) s = .next (s2.afterIssue f))
      ∧ (∀ f' u (off : Nat → Nat) lo, Runs z f' w b g → Drained z b → HasU b [m.a] → (m.ix = true → HasV b [m.b]) → d.toNat + regsOfWd m.wd ≤ b.kernel.vreg → u ≠ .c →
        let act := activeMask f' h
        Resolves z f' w b g act m false (accessBytes m) .read noKeyRule noKeyRule (fun l => .buf b.id u (off l)) →
        lo < 32 → act.getLsbD lo = true → b.isFull u (off lo / 16) = false → (∀ l, l < lo → act.getLsbD l = true → b.isFull u (off l / 16) = true) →
        16777216 ≤ f'.emptyWait →
        exec (.emptyTimeout f.id) s = .next ((z.takeTrap f' w b ⟨.emptyTimeout, maskOf (fun l => act.getLsbD l && !b.isFull u (off l / 16)),
          laneAddr f' m false lo, BitVec.ofNat 64 (1 + 16 * d.toNat + 1024 * (regsOfWd m.wd - 1))⟩).afterIssue f)))

/-- 14 R290, R291, R293, R300, R305; 11 R226, R228 to R230; 09 R178: requests at the device that holds their bytes, and packets that are
dropped. The model's choices here: a refused READ, EREAD or ATOM is answered by the reply of its kind (log 85), and a request that comes while
main memory takes no accesses is dropped (log 87). -/
def Obligations.PacketsAtHome : Prop :=
  (∀ s p, Taken s p →
    (∀ tag addr lines t a, Arrives s p 0 0 t → a = addr.toNat % 2 ^ 40 / 256 * 256 →
      ((∀ i ∈ maskLines lines, StatusAt t (a + 64 * i) 64 true 0) → t.sync.histories = [] →
        exec (.read p tag addr lines) s = .next (replyOf t p (fun h => .rdata h tag 0 ((maskLines lines).flatMap (fun i => t.mem.hbm.getN (a + 64 * i) 64)))))
      ∧ (∀ pre i post st, maskLines lines = pre ++ i :: post → (∀ j ∈ pre, StatusAt t (a + 64 * j) 64 true 0) → StatusAt t (a + 64 * i) 64 true st → st ≠ 0 →
        exec (.read p tag addr lines) s = .next (replyOf t p (fun h => .rdata h tag st []))))
    ∧ (∀ tag addr bytes n t a, lineFlits (bytes.map (·.1)) n → Arrives s p 0 n t → a = addr.toNat % 2 ^ 40 / 256 * 256 →
      ((∀ x ∈ bytes, StatusAt t (a + x.1) 1 false 0) →
        exec (.write p tag addr bytes none) s = .next (ackOf (linesMended (bytes.foldl (fun u x => u.performAt (.hbm (a + x.1)) [x.2]) t) a (bytes.map (·.1))) p tag 0))
      ∧ (∀ pre x post st, bytes = pre ++ x :: post → (∀ y ∈ pre, StatusAt t (a + y.1) 1 false 0) → StatusAt t (a + x.1) 1 false st → st ≠ 0 →
        exec (.write p tag addr bytes none) s = .next (ackOf t p tag st)))
    ∧ (∀ tag addr bytes n t va len j lf q, lineFlits (bytes.map (·.1)) n → Arrives s p 0 n t → (∀ x ∈ bytes, x.1 < len) →
      (∃ x ∈ bytes, x.1 + 1 = len) → t.keyJob? p.key = some j → t.leaf? j.num va = some lf →
      (((pteW lf.pte = false ∨ pteShst lf.pte ≠ shPrivate ∨ lf.page.toNat + lf.size < va.toNat + len) →
          exec (.write p tag addr bytes (some va)) s = .next (ackOf t p tag 4))
        ∧ (pteW lf.pte = true → pteShst lf.pte = shPrivate → va.toNat + len ≤ lf.page.toNat + lf.size → lf.place va = .hbm q → t.heldAt (.hbm q) len = false →
          exec (.write p tag addr bytes (some va)) s = .next (ackOf (linesMended (bytes.foldl (fun u x => u.performAt (.hbm (q + x.1)) [x.2]) t) q (bytes.map (·.1))) p tag 0))
        ∧ (pteW lf.pte = true → pteShst lf.pte = shPrivate → va.toNat + len ≤ lf.page.toNat + lf.size → lf.place va = .hbm q → t.heldAt (.hbm q) len = true →
          exec (.write p tag addr bytes (some va)) s = .next (ackOf t p tag 2))))
    ∧ (∀ tag addr aop (wide : Bool) sc x y st t a, Arrives s p 0 1 t → a = addr.toNat % 2 ^ 40 → StatusAt t a (if wide then 8 else 4) true st →
      exec (.atomReq p tag addr aop ⟨wide, sc⟩ x y) s = .next (if st = 0 then replyOf (t.atomicAt (.hbm a) aop wide x y).2 p (fun h => .areply h tag 0 (t.atomicAt (.hbm a) aop wide x y).1)
        else replyOf t p (fun h => .areply h tag st 0)))
    ∧ (∀ tag addr aop (wide : Bool) sc x st t a, Arrives s p 0 1 t → a = addr.toNat % 2 ^ 40 → StatusAt t a (if wide then 8 else 4) true st →
      exec (.redReq p tag addr aop ⟨wide, sc⟩ x) s = .next (ackOf (if st = 0 then (t.atomicAt (.hbm a) aop wide x 0).2 else t) p tag st))
    ∧ (∀ tag addr aop words n t a, lineFlits (words.map (·.1)) n → Arrives s p 0 n t → a = addr.toNat % 2 ^ 40 / 256 * 256 →
      ((∀ x ∈ words, StatusAt t (a + x.1) 4 true 0) →
        exec (.redmReq p tag addr aop words) s = .next (ackOf (words.foldl (fun u x => u.redmAt (.hbm (a + x.1)) aop x.2) t) p tag 0))
      ∧ (∀ pre x post st, words = pre ++ x :: post → (∀ y ∈ pre, StatusAt t (a + y.1) 4 true 0) → StatusAt t (a + x.1) 4 true st → st ≠ 0 →
        exec (.redmReq p tag addr aop words) s = .next (ackOf t p tag st)))
    ∧ (∀ tag addr count t a, Arrives s p 0 0 t → a = addr.toNat % 2 ^ 40 →
      (StatusAt t a count true 0 → t.sync.histories = [] → exec (.eread p tag addr count) s = .next (replyOf t p (fun h => .rdata h tag 0 (t.mem.hbm.getN a count))))
      ∧ ∀ st, st ≠ 0 → StatusAt t a count true st → exec (.eread p tag addr count) s = .next (replyOf t p (fun h => .rdata h tag st [])))
    ∧ (∀ tag addr bytes st t a, Arrives s p 0 ((bytes.length + 63) / 64) t → a = addr.toNat % 2 ^ 40 → StatusAt t a bytes.length false st →
      exec (.ewrite p tag addr bytes) s = .next (ackOf (if st = 0 then t.performAt (.hbm a) bytes else t) p tag st)))
  ∧ (∀ s p tag addr count, (p.bad = true ∨ p.len ≠ 0 ∨ ¬OpenWindow s ∨ 18 ≤ p.port.toNat ∨ (p.key ≠ 0 ∧ ∀ m ∈ s.fab.members, m.1 = p.port.toNat → p.key ∉ m.2)) →
      ∃ t : State, exec (.eread p tag addr count) s = .next t ∧ t.fab.dropped = s.fab.dropped + 1 ∧ t.fab.outbox = s.fab.outbox ∧ t.mem = s.mem)

/-- 14 R291, R293, R297, R298, R300; 12 R259; 11 R235: replies reach what asked for them; requests without an answer for 100 µs; returned
flits. Which warps a lost store marks, and in which bit of %mstfail where it is no multicast copy, is the model's choice (log 73); so is that a part
of a completion record that is refused or unanswered counts as written (log 18), and what a collective makes of a refused EREAD or EWRITE (log 17,
log 72). -/
def Obligations.Replies : Prop :=
  (∀ s p tag (r : Request) n t, Taken s p → Arrives s p 1 n t → Answers t p tag r →
    (∀ st (bytes : List Byte), st.toNat < 5 → n = (bytes.length + 63) / 64 →
      (∀ f, r.purpose = .load f → exec (.rdata p tag st bytes) s = .next ((settledBy t r).addReplies f (repliesFor r st bytes)))
      ∧ (∀ b q o, r.purpose = .engine b q o → exec (.rdata p tag st bytes) s = .next ((settledBy t r).engineAnswer r b q o st bytes))
      ∧ (∀ g k, r.purpose = .collRead g k → exec (.rdata p tag st bytes) s = .next ((settledBy t r).collFetched g k r.dst r.addr st bytes)))
    ∧ (∀ st old f l, st.toNat < 5 → n = 1 → r.purpose = .atomic f l →
      exec (.areply p tag st old) s = .next ((settledBy t r).addReplies f [⟨r.dst, r.addr, l, st, bytesOf old 8⟩]))
    ∧ (n = 0 →
      (∀ f, r.purpose = .load f → exec (.ack p tag) s = .next ((settledBy t r).addReplies f [⟨r.dst, r.addr, 0, 0, []⟩]))
      ∧ (∀ b q o, r.purpose = .engine b q o → exec (.ack p tag) s = .next ((settledBy t r).engineAnswer r b q o 0 []))
      ∧ (∀ g k, r.purpose = .collWrite g k → exec (.ack p tag) s = .next ((settledBy t r).collWritten g k 0))
      ∧ (∀ k, r.purpose = .record k → exec (.ack p tag) s = .next ((settledBy t r).recordAnswered k))
      ∧ (r.purpose = .posted → ∃ u : State, exec (.ack p tag) s = .next u ∧ u.mem = s.mem ∧ u.work.warps = s.work.warps
          ∧ ∀ d, d ∈ u.sync.deliveries ↔ d ∈ s.sync.deliveries ∧ ¬(d.tag = tag ∧ d.failed = false))
      ∧ (∀ st, 0 < st.toNat → st.toNat < 5 →
        (∀ f, r.purpose = .load f → exec (.nack p tag st) s = .next ((settledBy t r).addReplies f [⟨r.dst, r.addr, 0, st, []⟩]))
        ∧ (∀ f l, r.purpose = .atomic f l → exec (.nack p tag st) s = .next ((settledBy t r).addReplies f [⟨r.dst, r.addr, l, st, []⟩]))
        ∧ (∀ b q o, r.purpose = .engine b q o → exec (.nack p tag st) s = .next ((settledBy t r).engineAnswer r b q o st []))
        ∧ (∀ g k, r.purpose = .collWrite g k → exec (.nack p tag st) s = .next ((settledBy t r).collWritten g k st))
        ∧ (r.purpose = .posted → exec (.nack p tag st) s = .next ((settledBy t r).failDelivery tag)))))
  ∧ (∀ (s : State) g k (dev : BitVec 11) addr (st : BitVec 8) bytes,
      let mine := fun (x : Coll) => x.sgid = g ∧ x.pair = k
      (s.collFetched g k dev addr st bytes).coll.colls = s.coll.colls.map (fun x => if mine x then { x with
        reading := x.reading.map (· - 1), refused := x.refused || st != 0, fetched := x.fetched ++ [(dev.toNat * 2 ^ 52 + addr, bytes)] } else x)
      ∧ (s.collWritten g k st).coll.colls = s.coll.colls.map (fun x => if mine x then { x with
        landing := x.landing.map (fun y => (y.1, y.2.1, y.2.2 - 1)), refused := x.refused || st != 0 } else x))
  ∧ (∀ (s : State) (b : Block) (o : EngOp) q (r : Request) (st : BitVec 8) bytes, s.block? b.id = some b → q < 8 → (b.queue (BitVec.ofNat 3 q)).find? (fun x => x.id == o.id) = some o →
      (st = 0 → (s.engineAnswer r b.id q o.id st bytes) = s.modOp b.id (BitVec.ofNat 3 q) o.id (fun x => { x with
          fetched := if bytes = [] then x.fetched else x.fetched ++ [(r.dst.toNat * 2 ^ 52 + r.addr, bytes)], outstanding := x.outstanding - 1 }))
      ∧ (2 ≤ st.toNat → (s.engineAnswer r b.id q o.id st bytes) = (s.stopOp b.id o.id).killBlock b.id 0x14)
      ∧ (st = 1 → (s.engineAnswer r b.id q o.id st bytes) = s.engineError b o (fun s => s.carryFar o.moves r.dst r.addr)))
  ∧ (∀ (s : State) tag (i : Nat) (w0 : Warp), s.work.warps[i]? = some w0 → ∃ w : Warp, (s.failDelivery tag).work.warps[i]? = some w ∧ w.id = w0.id ∧ ∀ r, r < 64 →
      (w.mstfail.getLsbD r = true ↔ w0.mstfail.getLsbD r = true ∨ ∃ d ∈ s.sync.deliveries, d.tag = tag ∧ d.failed = false ∧ d.rank = some r ∧ Marks s d w0))
  ∧ (∀ (s : State) tag dev d, s.sync.deliveries.filter (fun x => x.tag == tag && !x.failed) = [d] → d.rank = none →
      let t := s.failDelivery tag (some dev)
      let ranks := s.ranksOf d.block dev
      ({ d with failed := true } : Delivery) ∈ t.sync.deliveries ∧ (ranks = [] → t.work = s.work)
      ∧ (ranks ≠ [] → ∃ r ∈ ranks, ∀ (i : Nat) (w0 : Warp), s.work.warps[i]? = some w0 → ∃ w : Warp, t.work.warps[i]? = some w ∧ w.id = w0.id ∧ ∀ k, k < 64 →
          (w.mstfail.getLsbD k = true ↔ w0.mstfail.getLsbD k = true ∨ k = r ∧ Marks s d w0)))
  ∧ (∀ s f, (∃ r ∈ s.fab.requests, r.isOf [f] = true ∧ r.sent + 100000 ≤ s.time) →
      ∃ u : State, u.work = s.work ∧ u.mem = s.mem ∧ (∀ r ∈ u.fab.requests, ¬(r.isOf [f] = true ∧ r.sent + 100000 ≤ s.time)) ∧
        exec (.remoteLoadTimeout f) s = .next (u.addReplies f
          ((s.fab.requests.filter (fun r => r.isOf [f] && decide (r.sent + 100000 ≤ s.time))).flatMap unansweredReplies)))
  ∧ (∀ s tag r, s.fab.requests.find? (fun x => x.tag == tag && x.isPosted) = some r →
      (s.time < r.sent + 100000 → exec (.storeAckTimeout tag) s = .next s)
      ∧ (r.sent + 100000 ≤ s.time →
        (r.purpose = .posted → exec (.storeAckTimeout tag) s = .next ((settledBy s r).failDelivery tag (some r.dst)))
        ∧ (∀ k, r.purpose = .record k → exec (.storeAckTimeout tag) s = .next ((settledBy s r).recordAnswered k))))
  ∧ (∀ s p rq rp dq dr dp, Taken s p → Fitting s p 3 0 →
      let d : Sent := ⟨p.src, dq, dr, dp⟩
      let t := (arrived s p 3 0).returnFlits p.src rq.toNat
      exec (.aret p rq rp dq dr dp) s = .next (((({ t with fab := { t.fab with
          pageFlits := t.fab.pageFlits.map (fun x => if x.1 = p.src then (x.1, x.2 - rp.toNat) else x)
          delivered := t.fab.delivered.filter (fun x => x.dev != p.src) ++ [d] } } : State).flushPages p.src)).endHolds false
            (fun h => h.dev == p.src && d.of h.cls == h.target)))
  ∧ (∀ s peer r since, s.fab.returns.find? (fun x => x.dev == peer) = some r → r.since = some since → since + 200 ≤ s.time → r.req < 65536 → r.page < 65536 →
      ∃ u : State, u.mem = s.mem ∧ u.work = s.work ∧ u.fab.returns.find? (fun x => x.dev == peer) = some ⟨r.dev, 0, 0, r.delReq, r.delRsp, r.delPage, none⟩ ∧
        exec (.allowanceReturnTimer peer) s = .next (u.inject ⟨peer, 3, .aret ⟨0, selfDev, 0, 0, 0, 0, false⟩ (BitVec.ofNat 16 r.req) (BitVec.ofNat 16 r.page) r.delReq r.delRsp r.delPage⟩))

/-- 10 R201, R202, R205, R206, R211 to R214; 09 R182, R188, R189: gathers of a sharded page, deferred fills, page walks and the tables they read, and
who owns which granule. That the granules of a shard frame laid out for another N or member list, or on another device, are free values is the model's
choice (log 84). -/
def Obligations.Gathers : Prop :=
  (∀ total n r q, 0 < n → r < n → ((∃ qs ∈ ownGroups total n r 16, q ∈ qs) ↔ q < total ∧ q % n = r) ∧ ∀ qs ∈ ownGroups total n r 16, 1 ≤ qs.length ∧ qs.length ≤ 16)
  ∧ (∀ s p m lf g u, Reaches s p m lf g u → Current m lf → pteRole lf.pte = false →
    (lf.page.toNat / lf.size % g.n = g.rank →
      (∀ x, u.transition? lf.job lf.page = some x → x.requested = false → exec (.greq p m) s = .next u)
      ∧ ((∀ x, u.transition? lf.job lf.page = some x → x.requested = true) → u.canOpen true = true →
          (pteShst lf.pte ≠ shSharded ∨ u.isSwapped lf.job = true ∨ u.frameFree lf.size = true) → exec (.greq p m) s = .next (u.startOp lf g .gather))
      ∧ ((∀ x, u.transition? lf.job lf.page = some x → x.requested = true) → u.canOpen true = false → exec (.greq p m) s = .next (busyTo u p g m)))
    ∧ (NotOpen u lf m → (u.transition? lf.job lf.page ≠ none ∨ u.canOpen false = true) →
      let v := u.openTransition (begun u lf g .gather m.opn)
      (pteShst lf.pte = shSharded → u.isSwapped lf.job = false → u.frameFree lf.size = true →
        exec (.gather p m) s = .next ((((v.takeFrame lf).copyOwn lf g).serve lf g m.opn).setShst lf shGathering))
      ∧ (pteShst lf.pte = shSharded → u.isSwapped lf.job = false → u.frameFree lf.size = false → exec (.gather p m) s = .next (busyTo u p g m))
      ∧ (pteShst lf.pte = shSharded → u.isSwapped lf.job = true →
        exec (.gather p m) s = .next (((v.serve lf g m.opn).deferFill lf).memberDone lf g 1))
      ∧ (pteShst lf.pte = shGathering → exec (.gather p m) s = .next (v.serve lf g m.opn))
      ∧ (pteShst lf.pte = shGathered → exec (.gather p m) s = .next ((v.serve lf g m.opn).memberDone lf g 0))
      ∧ (pteShst lf.pte = shPending → exec (.gather p m) s = .next ((v.serve lf g m.opn).memberDone lf g 1)))
    ∧ (∀ x, OpenHere u lf m x →
      exec (.gather p m) s = .next u
      ∧ (x.repeats m = true → exec (.gdata p m) s = .next u)
      ∧ (∀ x', x' = (x.note m).count m.src.toNat m.ngran.toNat → x.repeats m = false → pteShst lf.pte = shGathering →
        let v := (u.landGranules lf g m).setTransition x'
        (¬AllLanded x' lf g → exec (.gdata p m) s = .next v)
        ∧ (AllLanded x' lf g → exec (.gdata p m) s = .next ((v.setShst lf shGathered).memberDone (v.reLeaf lf) g 0)))
      ∧ exec (.gdone p m) s = .next (u.onDone lf g m.src.toNat))
    ∧ (NotOpen u lf m → exec (.gdata p m) s = .next (busyTo u p g m) ∧ exec (.gdone p m) s = .next u))
  ∧ (∀ s p m lf g u, Reaches s p m lf g u → pteRole lf.pte = false →
      (m.gen ≠ pteGen lf.pte → exec (.fetch p m) s = .next (u.send p.src 2 p.key (fun h => .fdata h { pageMsg g lf m.opn with status := 1 })))
      ∧ (m.gen = pteGen lf.pte → exec (.fetch p m) s = .next ((ownGroups lf.granules g.n g.rank 16).foldl (fun v qs => (v.granuleMsg lf g m.opn qs).2.send p.src 2 p.key (fun h =>
          .fdata h (v.granuleMsg lf g m.opn qs).1)) u))
      ∧ (∀ x, u.fill? lf.job lf.page = some x →
        (m.status = 1 → exec (.fdata p m) s = .next (((u.dropFrame lf.job lf.page lf.size).closeFill lf.job lf.page).setShst lf shSharded))
        ∧ (m.status ≠ 1 → x.repeats m = true → exec (.fdata p m) s = .next u)
        ∧ (∀ x', x' = (x.note m).count m.src.toNat m.ngran.toNat → m.status ≠ 1 → x.repeats m = false →
          let v := (u.landGranules lf g m).setTransition x'
          (¬AllLanded x' lf g → exec (.fdata p m) s = .next v)
          ∧ (AllLanded x' lf g → exec (.fdata p m) s = .next (((v.closeFill lf.job lf.page).filled lf).setShst lf shGathered)))))
  ∧ (∀ (s : State) lf g opn qs, let r := s.granuleMsg lf g opn qs
      r.1 = { pageMsg g lf opn with gran := BitVec.ofNat 32 (qs.headD 0), ngran := BitVec.ofNat 8 qs.length, data := r.1.data, poison := r.1.poison }
      ∧ r.1.data.length = qs.length ∧ (∃ n, r.2 = { s with ctl := { s.ctl with oracle := n } })
      ∧ (s.stray lf g = false → r.1.data = qs.map (fun q => granuleOf (s.getAt (lf.shard (16 * (q / g.n))) 16)) ∧ r.2 = s)
      ∧ (qs.length ≤ 16 → ∀ i, i < qs.length → (r.1.poison.getLsbD i = true ↔ s.isPoisoned (lf.shard (16 * (qs.getD i 0 / g.n))) 16 = true)))
  ∧ (∀ (s : State) lf g, s.stray lf g = true ↔ (∀ a, lf.shard 0 ≠ .hbm a) ∨ ∃ h, s.laidAs lf = some h ∧ (h.n ≠ g.n ∨ h.rank ≠ g.rank ∨ h.members ≠ g.members))
  ∧ (∀ (s : State) lf x, s.frame? lf.job lf.page = some x → s.filled lf = if s.isSwapped lf.job = true then s.charge x false else s)
  ∧ (∀ s j page rest lf g, s.job? j.num = some j → j.deferred = page :: rest → j.swapped = false → s.leaf? j.num page = some lf → pteShst lf.pte = shPending →
      s.frameFree lf.size = true → s.canOpen false = true → s.leafGroup lf = some g →
      let s1 := s.setJob { j with deferred := rest }
      exec (.deferredFill j.num) s = .next (State.sendOthers (((s1.takeFrame lf).copyOwn lf g).openTransition (begun s lf g .fill 0)) lf g
        (fun h => .fetch h (pageMsg g lf 0))))
  ∧ (∀ s job va lf, s.leaf? job va = some lf → s.transition? job lf.page = none → s.fill? job lf.page = none → s.pageHeld lf = false →
      (pteShst lf.pte = shGathered → exec (.memoryPressureEvict job va) s = .next (((s.dropFrame job lf.page lf.size).setShst lf shSharded).wakePages))
      ∧ (pteShst lf.pte = shPartial → exec (.memoryPressureEvict job va) s = .next ((s.evictPage lf).wakePages))
      ∧ (∀ j, pteShst lf.pte = shPending → s.job? job = some j → exec (.memoryPressureEvict job va) s = .next ((State.setShst
          (((s.setJob { j with deferred := j.deferred.filter (fun x => x != lf.page) }).dropFrame job lf.page lf.size).closeFill job lf.page) lf shSharded).wakePages)))
  ∧ (∀ s job va x, s.mem.walks.find? (fun y => y.job == job && y.page == va) = some x →
      (s.inWalker x = true → ∃ t : State, exec (.pageWalkDone job va) s = .next t ∧ (∀ y, y ∈ t.mem.walks ↔ y ∈ s.mem.walks ∧ y ≠ x)
        ∧ t.mem.hbm = s.mem.hbm ∧ (x.cores.Nodup → ∀ lf, s.leaf? job va = some lf → ∀ c ∈ x.cores, t.translated c job lf.page = true)
        ∧ ∀ f ∈ t.work.frags, ∀ n, f.run ≠ .parked .page n)
      ∧ (s.inWalker x = false → exec (.pageWalkDone job va) s = .next s))
  ∧ (∀ (s : State) core job page, (s.startWalk core job page).mem.hbm = s.mem.hbm ∧ (∃ y ∈ (s.startWalk core job page).mem.walks, y.job = job ∧ y.page = page ∧ core ∈ y.cores)
      ∧ ((s.mem.walks.filter (fun y => y.job == job && y.page == page)).length ≤ 1 →
          ((s.startWalk core job page).mem.walks.filter (fun y => y.job == job && y.page == page)).length = 1))
  ∧ (∀ (s : State) j va, s.job? j.num = some j → canonical va = true →
      let entry := fun (node shift n : Nat) => node + 16 * (va.toNat / 2 ^ shift % n)
      let e := fun pa => BitVec.ofNat 128 (natOfBytes (s.mem.hbm.getN pa 16))
      let leaf := fun pa size => some (⟨j.num, pa, e pa, BitVec.ofNat 64 (va.toNat / size * size), size⟩ : Leaf)
      let p4 := entry j.root 48 512
      let p3 := entry (pointerNext (e p4)) 39 512
      let p2 := entry (pointerNext (e p3)) 30 512
      let p1 := entry (pointerNext (e p2)) 21 512
      let p0 := entry (pointerNext (e p1)) 16 32
      (pointerValid 48 (e p4) = false → s.leaf? j.num va = none)
      ∧ (pointerValid 48 (e p4) = true → pointerValid 39 (e p3) = true →
        (leafValid 30 (e p2) = true → s.leaf? j.num va = leaf p2 (2 ^ 30))
        ∧ (pointerValid 30 (e p2) = true → leafValid 21 (e p1) = true → s.leaf? j.num va = leaf p1 (2 ^ 21))
        ∧ (pointerValid 30 (e p2) = true → pointerValid 21 (e p1) = true → leafValid 16 (e p0) = true → s.leaf? j.num va = leaf p0 (2 ^ 16))))

/-- 10 R205, R211, R212, R215 to R217: drains of a gradient page, the end of an operation, BUSY, and the failure of a page. That a BUSY has every
packet of its operation that may still be wanted sent again is the model's choice (log 43), and that a FAIL answered by BUSY is sent again (log 55). -/
def Obligations.Drains : Prop :=
  (∀ s p m lf g u, Reaches s p m lf g u → Current m lf →
    (pteRole lf.pte = true →
      (lf.page.toNat / lf.size % g.n = g.rank → (∀ x, u.transition? lf.job lf.page = some x → x.requested = true) → u.canOpen true = true →
        u.pageEntryFree = true → u.pageHeld lf = false → exec (.dreq p m) s = .next (u.startOp lf g .drain))
      ∧ (NotOpen u lf m → (u.transition? lf.job lf.page ≠ none ∨ u.canOpen false = true) → (pteShst lf.pte = shDraining ∨ u.pageEntryFree = true) →
        u.pageHeld lf = false → exec (.drain p m) s = .next (u.onDrain lf g m.opn false))
      ∧ (NotOpen u lf m → u.pageHeld lf = true → exec (.drain p m) s = .next (busyTo u p g m))
      ∧ (∀ x, OpenHere u lf m x → exec (.dsum p m) s = .next (if x.repeats m = true then u else u.onDsum lf g (x.note m) m) ∧ exec (.ddone p m) s = .next (u.onDone lf g m.src.toNat))
      ∧ (NotOpen u lf m → exec (.dsum p m) s = .next (busyTo u p g m)))
    ∧ (∀ x, OpenHere u lf m x →
      (x.kind = .drain → pteShst lf.pte = shDraining → u.leaf? lf.job lf.page = some lf →
        let v := (((u.closeTransition lf.job lf.page).dropFrame lf.job lf.page lf.size).dropPageRange lf)
        exec (.pageEnd p m) s = .next ((v.setLeaf lf (pteSetGen (pteSetShst lf.pte shSharded.toNat) m.gen.toNat)).wakePages))
      ∧ (x.kind = .gather → exec (.pageEnd p m) s = .next (u.closeTransition lf.job lf.page).wakePages)))
  ∧ (∀ s p m lf g u, Reaches s p m lf g u →
      (Absorbed u m lf → exec (.fail p m) s = .next u ∧ exec (.busy p m) s = .next u)
      ∧ (¬Absorbed u m lf → exec (.fail p m) s = .next (if u.pageHeld lf = true then busyTo u p g m else u.failPage lf g)
        ∧ exec (.busy p m) s = .next (u.keepBusy p m (u.stillOpen lf))))
  ∧ (∀ s p m j lf t, Taken s p → Arrives s p 2 ((m.data.length + 3) / 4) t → m.ngran.toNat ≤ 16 → t.keyJob? p.key = some j → t.leaf? j.num m.va = some lf →
      lf.page = m.va → pteShst lf.pte = shFailed → exec (.busy p m) s = .next (t.keepBusy p m (fun i => match i with | .fail _ _ => true | _ => false)))
  ∧ (∀ (s : State) p m (ok : Instr → Bool), ∃ xs : List Packet,
      s.keepBusy p m ok = { s with mem := { s.mem with busyRetries := s.mem.busyRetries ++ xs.map (fun x => (s.time, x)) } }
      ∧ (∀ x ∈ xs, x ∈ s.fab.outbox ∧ x.answeredBy p m = true ∧ ok x.body = true)
      ∧ (∀ x ∈ s.fab.outbox, x.answeredBy p m = true → ok x.body = true → ∃ y ∈ xs, y.resends x = true)
      ∧ xs.Pairwise (fun x y => x.resends y = false))
  ∧ (∀ (s : State) lf h m, let asked := ∃ x, s.transition? lf.job lf.page = some x ∧ x.requested = true
      let served := ∃ x, OpenHere s lf m x
      (s.stillOpen lf (.greq h m) = true ↔ asked) ∧ (s.stillOpen lf (.dreq h m) = true ↔ asked)
      ∧ (s.stillOpen lf (.fetch h m) = true ↔ s.fill? lf.job lf.page ≠ none)
      ∧ (s.stillOpen lf (.gather h m) = true ↔ served) ∧ (s.stillOpen lf (.gdata h m) = true ↔ served)
      ∧ (s.stillOpen lf (.drain h m) = true ↔ served) ∧ (s.stillOpen lf (.dsum h m) = true ↔ served)
      ∧ s.stillOpen lf (.gdone h m) = false ∧ s.stillOpen lf (.ddone h m) = false ∧ s.stillOpen lf (.pageEnd h m) = false ∧ s.stillOpen lf (.fail h m) = false)
  ∧ (∀ (s : State) lf g, (s.mem.hbm.wf = true → pteShst (pteAt (s.failPage lf g).mem.hbm lf.entry) = shFailed)
      ∧ (s.failPage lf g).transition? lf.job lf.page = none ∧ (s.failPage lf g).frame? lf.job lf.page = none)
  ∧ (∀ (s : State) lf g q m t x', g.n ≠ 0 → m.gran.toNat % g.n = g.rank → m.ngran = 1 → m.gran.toNat = q → t.written = [] → t.kind = .drain → 1 < ownedBy lf.granules g.n g.rank →
      x' = ({ t with written := [q], heard := setKey m.src.toNat s.time t.heard } : Transition) →
      s.onDsum lf g t m = (s.writeOwn lf g q ((flitsToWords m.data).take (16 / gradWidth (pteFmt lf.pte)))).setTransition x')
  ∧ (∀ s t x i, s.mem.busyRetries[i]? = some (t, x) → t + 4000 ≤ s.time →
      exec (.busyRetry i) s = .next (State.post { s with mem := { s.mem with busyRetries := s.mem.busyRetries.eraseIdx i } } x))
  ∧ (∀ s job va lf g rank x h, s.leaf? job va = some lf → s.leafGroup lf = some g → s.pageHeld lf = false → s.transition? lf.job lf.page = some x →
      x.requested = false → x.coordinator = true → x.dones.contains (BitVec.toNat rank) = false → rank.toNat < g.n → rank.toNat ≠ g.rank →
      getKey rank.toNat x.heard = some h → h + (if g.tmo = 0 then 2000 else g.tmo) * 1000 ≤ s.time →
      exec (.pageTimeout job va rank) s = .next (s.failPage lf g))
  ∧ (∀ s job va lf g rank x h, s.leaf? job va = some lf → s.leafGroup lf = some g → s.pageHeld lf = false → s.fill? lf.job lf.page = some x →
      (getKey (BitVec.toNat rank) x.got).getD 0 < ownedBy lf.granules g.n rank.toNat → rank.toNat < g.n → rank.toNat ≠ g.rank →
      getKey rank.toNat x.heard = some h →
      (h + (if g.tmo = 0 then 2000 else g.tmo) * 1000 ≤ s.time → exec (.pageTimeout job va rank) s = .next (s.failPage lf g))
      ∧ (s.time < h + (if g.tmo = 0 then 2000 else g.tmo) * 1000 → s.transition? lf.job lf.page = none → exec (.pageTimeout job va rank) s = .next s))

/-- 14 R302, R303, R305, R307 to R309, R312: COLL opens a collective or traps MISALIGNED; COLLW acts on the record's STATUS. The model's choices
here: the address 0 of COLLW's FABRIC_DELIVERY and the CHUNK of an all-to-all, which nothing reads (log 48), spans that lie on another
device (log 17), and the tuple that goes out while an earlier collective of the group is open (log 86). -/
def Obligations.Collectives : Prop :=
  (∀ s f w b g, Runs s f w b g → ∀ ch a, HasU b [a] → s.coll.colls.length < 64 →
    let va := f.getU a
    (va.toNat % 128 ≠ 0 → exec (.coll ch a) s = .next (s.takeTrap f w b ⟨.misaligned, f.mask, va, 0⟩))
    ∧ (∀ p0 l0 p1 l1 bs pr gr lf q srcs dsts, va.toNat % 128 = 0 → Drained s b → NothingEarly s w f.mask → Reads s f w b g va 64 64 p0 l0 → Reads s f w b g (va + 64) 64 64 p1 l1 →
      bs = seenBytes s f b p0 64 ++ seenBytes s f b p1 64 → pr = readParams bs → paramsClean bs = true → s.group? pr.sgid = some gr →
      gr.flags.getLsbD 0 = true → gr.flags.getLsbD 2 = true → gr.job = g.job → ParamsOk pr gr g.launch.gang →
      barriersOutside pr gr.n gr.rank b.quota.qa = false →
      s.leaf? g.job pr.crva = some lf → pteW lf.pte = true → pteShst lf.pte = shPrivate → lf.place pr.crva = .hbm q →
      let c : Ctx := ⟨s, f, w, b, g, activeMask f (uni ch), .none, 1⟩
      let sl := pr.srcLen gr.n gr.rank
      let dl := pr.dstLen gr.n gr.rank
      Spans c .g .read noKeyRule noKeyRule false (s.chunksG g.job (sl / 65536 + 2) pr.src sl) srcs →
      Spans c .g .write noKeyRule noKeyRule false (s.chunksG g.job (dl / 65536 + 2) pr.dst dl) dsts →
      exec (.coll ch a) s = .next (retired (collOpened s b (openedColl s b g gr pr (s.collCount pr.sgid) q srcs dsts
        (((s.startDrain b.id).soil b.id).bufferedAges b.id))) w f .none f (onward f 1))))
  ∧ (∀ s f w b g, Runs s f w b g → ∀ ch d a p leaf, HasU b [d, a] → Drained s b → (f.getU a).toNat % 32 = 0 → Reads s f w b g (f.getU a) 8 16 p leaf →
    let rec' := homeBytes s p 16
    let failed : DWord := BitVec.ofNat 64 (natOfBytes ((rec'.drop 8).take 8))
    (natOfBytes (rec'.take 2) = 0 →
      exec (.collw ch d a) s = .next (parked (s.watch p f.id (match p with | .buf _ _ _ => true | _ => (match leaf with | some lf => pteCa lf.pte | none => false))) w { f with replies := [] } .barrier))
    ∧ (natOfBytes (rec'.take 2) = 1 → exec (.collw ch d a) s = .next (retired (s.forgetEarly (w.serials f.mask)) w f (.uni d) (f.setU d ((rec'.getD 2 0).setWidth 64)) (onward f 1)))
    ∧ (natOfBytes (rec'.take 2) = 2 → exec (.collw ch d a) s = .next (s.takeTrap f w b ⟨.collMismatch, f.mask, f.getU a, failed⟩))
    ∧ (natOfBytes (rec'.take 2) = 3 → exec (.collw ch d a) s = .next (s.takeTrap f w b ⟨.fabricDelivery, f.mask, 0, failed⟩))
    ∧ (natOfBytes (rec'.take 2) = 4 → exec (.collw ch d a) s = .next (s.takeTrap f w b ⟨.fabricDelivery, f.mask, 0, 0⟩)))

/-- 14 R292, R304, R306, R307, R309, R311; 22 R365: steps and tuples as they arrive, the order of landings, how a collective ends, and TIDE. The model's
choices here: every accepted step is acknowledged, one for a collective past included (log 48); a landing on another device is complete when it is
acknowledged, and one under way keeps the end waiting (log 17); a member whose own read or write is refused or unanswered fails (log 72). -/
def Obligations.CollectiveSteps : Prop :=
  (∀ s p tag (m : CStep) t, Taken s p → Arrives s p 0 ((m.bytes.length + 63) / 64) t → 1 ≤ m.stype.toNat → m.stype.toNat ≤ 4 → 1 ≤ m.bytes.length →
      m.bytes.length ≤ 256 →
    (t.coll? m.sgid m.pair.toNat = none →
      exec (.cstep p tag m) s = .next (State.kickColls (ackOf (if m.pair.toNat < t.collCount m.sgid then t
        else { t with coll := { t.coll with early := t.coll.early ++ [.step m] } }) p tag 0)))
    ∧ (∀ k k', t.coll? m.sgid m.pair.toNat = some k → k' = { k with heard := setKey m.srcRank.toNat t.time k.heard } →
      (k.closing ≠ none → exec (.cstep p tag m) s = .next (State.kickColls (ackOf t p tag 0)))
      ∧ (k.closing = none → k.started = true → exec (.cstep p tag m) s = .next (State.kickColls (ackOf ((t.setColl k').onStep k' m) p tag 0)))
      ∧ (k.closing = none → k.started = false → exec (.cstep p tag m) s = .next (State.kickColls (ackOf (State.kickColls (t.setColl { k' with inbox := k'.inbox ++ [m] })) p tag 0)))))
  ∧ (∀ s p tag sgid (pair : Word) rank (tup : CTuple) t, Taken s p → Arrives s p 0 1 t →
    (∀ k k', t.coll? sgid pair.toNat = some k → k' = { k with heard := setKey (BitVec.toNat rank) t.time k.heard } →
      (tup = k.par.tuple → exec (.cmatch p tag sgid pair rank tup) s = .next (State.kickColls (ackOf (t.setColl { k' with equal := insertNat rank.toNat k.equal }) p tag 0)))
      ∧ (tup ≠ k.par.tuple → exec (.cmatch p tag sgid pair rank tup) s = .next (State.kickColls (ackOf (t.setColl { k' with differ := insertNat rank.toNat k.differ }) p tag 0))))
    ∧ (t.coll? sgid pair.toNat = none → t.collCount sgid ≤ pair.toNat →
      exec (.cmatch p tag sgid pair rank tup) s = .next (State.kickColls (ackOf { t with coll := { t.coll with
        early := t.coll.early ++ [.tuple sgid pair.toNat rank.toNat tup] } } p tag 0))))
  ∧ (∀ (s : State) k, (∀ x, k.closing = some x → s.kickColl k = if s.landingOut k = true then s else s.endColl k x.1 x.2)
      ∧ (k.closing = none → k.refused = true → s.kickColl k = s.failColl k [k.rank])
      ∧ (k.closing = none → k.refused = false → (∃ c n, k.landing = some (c, n, 0)) → s.kickColl k = s.progress k.sgid k.pair)
      ∧ (k.closing = none → k.refused = false → (∀ c n, k.landing ≠ some (c, n, 0)) →
        (k.started = false → k.differ ≠ [] → k.equal.length + k.differ.length + 1 = k.n → s.kickColl k = s.endColl k 2 (rankMask k.differ))
        ∧ (k.equal.length + 1 ≠ k.n → k.equal.length + k.differ.length + 1 ≠ k.n → s.kickColl k = s)))
  ∧ (∀ (s : State) k, s.landingOut k = true ↔ ∃ r ∈ s.fab.requests, r.purpose = .collWrite k.sgid k.pair)
  ∧ (∀ (s : State) k st failed, ∃ d : State, d.work = s.work ∧ d.mem = s.mem ∧ d.coll = s.coll ∧ (∀ x ∈ d.fab.engineWait, x.request.ofColl k = false)
      ∧ (∀ x ∈ d.fab.held, x ∈ s.fab.held ∧ ∀ r ∈ s.fab.requests, r.ofColl k = true → ¬(r.dst = x.dst ∧ collTag x.body = some r.tag))
      ∧ (d.landingOut k = true → s.closeColl k st failed = d.setColl { k with closing := some (st, failed) })
      ∧ (d.landingOut k = false → s.closeColl k st failed = d.endColl k st failed))
  ∧ (∀ (s : State) k failed, s.failColl k failed = (s.spoilDst k).closeColl k 3 (rankMask failed))
  ∧ (∀ (s : State) k a, s.mem.hbm.wf = true →
      (∀ c ∈ (k.par.landOrder k.n k.rank).drop k.landed, ∀ x ∈ k.parts (k.par.dstOff k.n c) (k.par.chunkLen k.n c), x.1.overlap x.2.2 (.hbm a) 1 = false) →
      (s.spoilDst k).getAt (.hbm a) 1 = s.getAt (.hbm a) 1)
  ∧ (∀ (p : CollParams) n k c, 1 ≤ p.op.toNat → p.op.toNat ≤ 6 → k < n →
      (c ∈ p.landOrder n k ↔ c < p.chunks n ∧ p.lands n k c = true) ∧ (p.landOrder n k).Nodup
      ∧ (p.landOrder n k).Pairwise (fun x y => p.landStep n k x < p.landStep n k y ∨ p.landStep n k x = p.landStep n k y ∧ x < y))
  ∧ (∀ (k : Coll) c bs fl, k.par.rop = 0 → k.par.fmt ≠ 8 → ∀ i, i < bs.length / 4 → i < (widenBytes k.par.fmt (k.own c)).length →
      ofBytes 32 (((k.addOwn c bs fl).1.drop (4 * i)).take 4) = (addFp32 (ofBytes 32 ((bs.drop (4 * i)).take 4)) ((widenBytes k.par.fmt (k.own c)).getD i 0)).1)
  ∧ (∀ (s : State) k st failed a, s.mem.hbm.wf = true → k.record = .hbm a → (s.endColl k st failed).getAt (.hbm a) 32 = collRecord k st failed s.time
      ∧ (s.endColl k st failed).coll? k.sgid k.pair = none ∧ ∀ r ∈ (s.endColl k st failed).coll.ranges, r.coll ≠ some (k.sgid, k.pair))
  ∧ (∀ s sgid (pair : Word) k g late, s.coll? sgid pair.toNat = some k → s.group? k.sgid = some g → late ≠ [] →
      late = k.awaited.filter (fun r => decide ((getKey r k.heard).getD k.retiredAt + (if g.tmo = 0 then 2000 else g.tmo) * 1000 < s.time))
        ++ (if s.fab.requests.any (fun r => (r.purpose == .collRead k.sgid k.pair || r.purpose == .collWrite k.sgid k.pair) && decide (r.sent + 100000 ≤ s.time)) then [k.rank] else []) →
      let u : State := { s with fab := { s.fab with requests := s.fab.requests.filter (fun r => !(r.ofColl k && decide (r.sent + 100000 ≤ s.time))) } }
      (k.closing = none → exec (.collTimeout sgid pair) s = .next (State.kickColls (u.failColl k late)))
      ∧ (k.closing ≠ none → exec (.collTimeout sgid pair) s = .next u.kickColls))
  ∧ (∀ s p sgid (pair : Word) (t0 : DWord) t, Taken s p → Arrives s p 3 0 t →
      (∀ k, t.coll? sgid pair.toNat = some k → exec (.tide p sgid pair t0) s = .next (t.setColl { k with tide := some t0.toNat }))
      ∧ (t.coll? sgid pair.toNat = none → exec (.tide p sgid pair t0) s = .next { t with coll := { t.coll with tideHolds := t.coll.tideHolds.map (fun h =>
          if h.sgid = sgid ∧ h.pair = pair.toNat ∧ h.ends = none ∧ t.time < h.fallback then { h with ends := some (holdEnd t h.rank t0.toNat) } else h) } }))
  ∧ (∀ s sgid (pair : Word), exec (.tideFallback sgid pair) s = .next { s with coll := { s.coll with tideHolds := s.coll.tideHolds.map (fun h =>
      if h.sgid = sgid ∧ h.pair = pair.toNat ∧ h.ends = none ∧ h.fallback ≤ s.time then { h with ends := some (holdEnd s h.rank h.fallback) } else h) } })
  ∧ (∀ s job, ∃ t : State, exec (.tideHoldEnd job) s = .next t ∧ t.work = s.work ∧ t.mem = s.mem ∧
      ∀ h, h ∈ t.coll.tideHolds ↔ h ∈ s.coll.tideHolds ∧ ¬(h.job = job ∧ ∃ e, h.ends = some e ∧ e ≤ s.time))

/-- 14 R293, R294, R296, R313, R314: a slice starts, hears READY, expires or is aborted; the messages that keep %time; links. That a
start clears the aborted mark of the job's grids and an abort sets it on those that have not ended is the model's choice (log 19), and what %time
becomes within the 50 ns that R293 allows (log 27), and the class and kind in the record of a restricted link (log 64). -/
def Obligations.SlicesAndTime : Prop :=
  (∀ s x g, s.slice? x.sgid = some x → s.group? x.sgid = some g →
    let begun := ((s.setSlice { x with begun := true }).modWork fun y =>
      { y with grids := updWhere (fun z => z.job == g.job) (fun z => { z with aborted := false }) y.grids })
    (x.begun = false → x.aborted = false → x.start ≤ s.time → s.tenantGone g.job = true → (∃ z ∈ begun.work.grids, z.job = g.job ∧ begun.canPlace z = true) →
      exec (.sliceStart x.sgid) s = .next (toOthers begun g (fun h => .ready h x.sgid (BitVec.ofNat 64 x.start))))
    ∧ (s.time < x.start → exec (.sliceStart x.sgid) s = .next s)
    ∧ (x.aborted = false → x.start + x.grace ≤ s.time → x.late g ≠ [] → exec (.sliceGraceExpire x.sgid) s = .next
        ((toOthers s g (fun h => .sabort h x.sgid 1 (BitVec.ofNat 64 x.start) (rankMask (x.late g)))).abortSlice x g))
    ∧ (x.late g = [] → exec (.sliceGraceExpire x.sgid) s = .next s)
    ∧ (x.aborted = false → exec (.sliceAbortRequest x.sgid) s = .next
        ((toOthers s g (fun h => .sabort h x.sgid 2 (BitVec.ofNat 64 x.start) (rankMask (x.late g)))).abortSlice x g))
    ∧ (∀ r, r < 64 → ((rankMask (x.late g)).getLsbD r = true ↔ r < g.n ∧ (if r = g.rank then x.begun = false else r ∉ x.readyRanks))))
  ∧ (∀ s p sgid start (x : Slice) g t, Taken s p → Arrives s p 3 0 t → t.slice? sgid = some x → t.group? sgid = some g →
    (∀ r, g.rankOf p.src = some r → x.start = BitVec.toNat start →
      exec (.ready p sgid start) s = .next ((t.setSlice { x with readyRanks := insertNat r x.readyRanks }).tryMembers g))
    ∧ (x.start ≠ BitVec.toNat start → exec (.ready p sgid start) s = .next t)
    ∧ (∀ reason late, (x.start = start.toNat → x.aborted = false → exec (.sabort p sgid reason start late) s = .next (t.abortSlice x g))
      ∧ (x.start ≠ start.toNat → exec (.sabort p sgid reason start late) s = .next t)))
  ∧ (∀ (s : State) x g, (∀ b ∈ s.work.blocks, b.run = .placed → ∀ z, s.grid? b.grid = some z → z.job ≠ g.job) →
      (∀ (i : Nat) z, s.work.grids[i]? = some z →
        (z.job = g.job → Goes s z → (s.abortSlice x g).work.grids[i]? = some { z with aborted := true })
        ∧ (z.job ≠ g.job ∨ ¬Goes s z → (s.abortSlice x g).work.grids[i]? = some z))
      ∧ (s.abortSlice x g).fw.aborts = s.fw.aborts ++ [x.sgid]
      ∧ (∀ k ∈ s.coll.colls, k.job = g.job → ∀ y, (s.abortSlice x g).coll? k.sgid k.pair = some y → y.closing ≠ none))
  ∧ (∀ s peer, s.fw.dstat.fwRun = true → exec (.timeqSend peer) s = .next (s.send peer 3 0 (fun h => .timeq h (BitVec.ofNat 64 s.time))))
  ∧ (∀ s p t1 t, Taken s p → Arrives s p 3 0 t → exec (.timeq p t1) s = .next
      (t.send p.src 3 0 (fun h => .timer h t1 (BitVec.ofNat 64 t.time) (BitVec.ofNat 64 t.time))))
  ∧ (∀ s p (t1 t2 t3 : DWord), Taken s p → Fitting s p 3 0 → ∃ t : State, exec (.timer p t1 t2 t3) s = .next t ∧ t.work = (arrived s p 3 0).work ∧ t.mem = s.mem ∧
      let there : Int := s.time + ((t2.toNat : Int) - t1.toNat + (t3.toNat - s.time)) / 2
      s.time ≤ t.time ∧ there - 50 ≤ t.time ∧ ((t.time : Int) ≤ there + 50 ∨ t.time = s.time))
  ∧ (∀ s dst cls, ∃ t : State, exec (.routeHoldTimeout dst cls) s = .next t ∧ t.mem = s.mem
      ∧ t = s.endHolds true (fun h => h.dev == dst && h.cls == cls && decide (h.since + 100000 ≤ s.time))
      ∧ ∀ h, h ∈ t.fab.injectHolds ↔ h ∈ s.fab.injectHolds ∧ ¬(h.dev = dst ∧ h.cls = cls ∧ h.since + 100000 ≤ s.time))
  ∧ (∀ s (port : BitVec 5) missing, ∃ t : State, exec (.linkRestrict port missing) s = .next t ∧ t.mem = s.mem ∧ t.work.blocks = s.work.blocks
      ∧ t.fw.linkReports = s.fw.linkReports ++ [(port.toNat, missing)]
      ∧ (missing ≠ [] → t.fw.elogCount = s.fw.elogCount + 1 ∧ t.fw.elog.getLast? = some ⟨BitVec.ofNat 64 s.time, 7, 6, 8, port.setWidth 32, 0, 0xFFFFFFFF, 0⟩)
      ∧ ∀ x, x ∈ t.fab.restricted ↔ (x ∈ s.fab.restricted ∧ x.1 ≠ port.toNat) ∨ (missing ≠ [] ∧ x = (port.toNat, missing)))

/-- 18 R331, R334, R335; 12 R269; 04 R64; 21 R345, R346, R350: saves, the end of a block, and the end of a grid at a request. The model's choices here: what
the image holds where R336 and R337 give no width, and what a resume takes from the model's own copy (log 20), where an engine operation stops
(log 21), and that held bound stores stay with the block (log 68). -/
def Obligations.SavesAndEnds : Prop :=
  (∀ s b g, s.block? b.id = some b → s.grid? b.grid = some g →
    (b.run = .placed → (b.saving = true ∨ (∃ t, b.preq = some t ∧ t + b.pdl ≤ s.cycle) ∨ ∃ f ∈ s.blockFrags b.id, f.run = .stopped) →
      exec (.forcedSave b.id) s = .next (s.forceSave (s.saveSet b) g.job))
    ∧ (b.saving = false → (∀ t, b.preq = some t → s.cycle < t + b.pdl) → (∀ f ∈ s.blockFrags b.id, f.run ≠ .stopped) → exec (.forcedSave b.id) s = .next s)
    ∧ (b ∈ s.saveSet b → (∀ x ∈ s.saveSet b, x.preq ≠ none ∧ s.blockWarps x.id = []) → exec (.cooperativeSave b.id) s = .next (s.saveAll (s.saveSet b) g.job))
    ∧ (∀ x, x ∈ s.saveSet b ↔ x ∈ s.gangBlocks b.grid b.gang ∧ x.run = .placed
        ∧ ∃ y ∈ s.gangBlocks b.grid b.gang, y.run = .placed ∧ s.liveThreads y.id ≠ []))
  ∧ (∀ (s : State) w, s.sync.swappedPins.length + 8 ≤ 8192 → ∀ x, x ∈ (s.savePins w).sync.swappedPins ↔
      x ∈ s.sync.swappedPins ∨ ∃ k : Fin 8, w.pins[k] ≠ 0 ∧ x = (8 * w.id + k.val, w.pins[k]))
  ∧ (∀ s b g, s.block? b.id = some b → s.grid? b.grid = some g → b.fsb = [] → b.wire = [] → b.bsb = [] → (∀ x ∈ s.sync.redms, x.block ≠ b.id) →
      (∀ q ∈ b.queues.toList, q = []) → (∀ k ∈ s.coll.colls, k.block ≠ b.id) → (∀ d ∈ s.sync.deliveries, d.block ≠ b.id) → (b.run = .ending ∨ (b.run = .placed ∧ s.liveThreads b.id = [])) →
      ∃ t : State, exec (.blockEnd b.id) s = .next t ∧ t.mem = s.mem ∧ t.work.blocks = s.work.blocks.filter (fun x => x.id != b.id)
        ∧ t.work.warps = s.work.warps.filter (fun w => w.block != b.id)
        ∧ t.work.grids = s.work.grids.map (fun x => if x.key = b.grid then
            (match b.killed with
             | none => { x with tend := s.time }
             | some c => { x with tend := s.time, nkill := x.nkill + 1, fblk := min x.fblk b.index, cause := if b.index ≤ x.fblk then c else x.cause }) else x))
  ∧ (∀ (s : State) id cause, (∃ b ∈ s.work.blocks, b.id = id ∧ b.killed ≠ none) → s.killBlock id cause = s)
  ∧ (∀ (s : State) b cause, s.block? b.id = some b → b.killed = none → (∀ x ∈ s.work.blocks, x.id = b.id → x = b) →
      let t := s.killBlock b.id cause
      (∃ x, t.block? b.id = some x ∧ x.run = .ending ∧ x.killed = some cause ∧ x.fsb = [] ∧ x.binds = [] ∧ (∀ q ∈ x.queues.toList, ∀ o ∈ q, o.started = true)
        ∧ (∀ e ∈ x.bsb, e.draining = true ∧ ∀ y ∈ e.pieces, y.sync = none ∨ e.published = true))
      ∧ t.liveThreads b.id = [] ∧ t.blockFrags b.id = [] ∧ ∀ h ∈ t.sync.histories, ∀ x ∈ h.stores, x.block = b.id → x.tags ≠ [])
  ∧ (∀ (s : State) b job f,
      (f.run = .ready ∨ f.run = .stopped → s.stopFrag b job f = s)
      ∧ (∀ t, f.run = .atEntry t → s.stopFrag b job f = if t.cause = .step then s else s.setFrag { f with run := .ready })
      ∧ (∀ why n, f.run = .parked why n → f.relSent = false → s.keepsOn f = true → s.stopFrag b job f = s)
      ∧ (∀ why n, f.run = .parked why n → f.relSent = false → s.keepsOn f = false → s.frag? f.id = some f → s.fab.engineWait = [] →
        let t := s.stopFrag b job f
        (∀ r ∈ t.fab.requests, r.purpose ≠ .load f.id) ∧ (∀ x ∈ t.sync.watches, f.id ∉ x.frags) ∧ f.id ∉ t.sync.polls ∧ t.mem = s.mem
        ∧ t.work.blocks = s.work.blocks ∧ t.work.warps = s.work.warps
        ∧ ∃ x, t.frag? f.id = some x ∧ x.pc = f.pc ∧ x.mask = f.mask ∧ x.u = f.u ∧ x.v = f.v ∧ x.p = f.p ∧ (∃ m, x.run = .parked why m))
      ∧ (∀ why n w r, f.run = .parked why n → f.relSent = true → f.replies = [] → s.frag? f.id = some f → s.warp? f.warp = some w →
        w.dctl.getLsbD 0 = false → s.fab.requests.find? (fun x => x.purpose == .load f.id) = some r →
        let t := s.stopFrag b job f
        t.mem = s.mem ∧ { r with purpose := .posted } ∈ t.fab.requests ∧ (∃ d ∈ t.sync.deliveries, d.tag = r.tag ∧ d.block = b.id ∧ d.failed = false)
        ∧ ∃ x, t.frag? f.id = some x ∧ x.pc = f.pc + 8 ∧ x.mask = f.mask ∧ x.run = .ready))
  ∧ (∀ (s : State) bs job, (∀ x ∈ bs, s.block? x.id = some x ∧ (∀ q ∈ x.queues.toList, q = []) ∧ (∀ f ∈ s.blockFrags x.id, f.run = .ready ∨ f.run = .stopped)
        ∧ ∀ w ∈ s.blockWarps x.id, s.behind w.id = []) →
      s.forceSave bs job = State.saveAll { s with work := { s.work with blocks := s.work.blocks.map (fun x => if x.id ∈ bs.map (·.id)
        then { x with saving := true, preq := some (x.preq.getD s.cycle) } else x) } } bs job)
  ∧ (∀ (s : State) bs job, (s.work.blocks.map (·.id)).Nodup → (∀ x ∈ bs, s.block? x.id = some x ∧ x.fsb = [] ∧ x.wire = [] ∧ x.bsb = [] ∧ (∀ q ∈ x.queues.toList, q = [])
        ∧ ∀ y ∈ s.sync.redms, y.block ≠ x.id) →
      ∃ u : State, u.mem = s.mem ∧ u.work = s.work ∧ u.fab = s.fab ∧ s.saveAll bs job = bs.foldl (fun a x => a.saveOne x job) u)
  ∧ (∀ (s : State) bs job x, x ∈ bs → (bs.map (·.id)).Nodup → s.block? x.id = some x → x.fsb = [] → x.wire = [] → x.bsb ≠ [] → (∀ e ∈ x.bsb, e.held = false) →
      ∀ y ∈ (s.saveAll bs job).work.blocks, y.run = .saved → ∃ z ∈ s.work.blocks, z.id = y.id ∧ z.run = .saved)
  ∧ (∀ (s : State) b g, s.block? b.id = some b → s.grid? b.grid = some g → b.run = .placed → b.restoring = false → (∀ x ∈ s.work.blocks, x.id = b.id → x = b) →
      (s.work.frags.map (·.id)).Nodup → (s.work.warps.map (·.id)).Nodup → s.mem.frames = [] → s.nextArea g.job = none →
      let t := s.saveOne b g.job
      t.mem.hbm = s.mem.hbm ∧ t.work.grids = s.work.grids
      ∧ t.work.blocks = s.work.blocks.map (fun x => if x.id = b.id
          then { b with run := .saved, core := 192, preq := none, saving := false, restoring := false, area := 0, areaLen := 0 } else x)
      ∧ (∀ f ∈ s.blockFrags b.id, ∃ x, t.frag? f.id = some x ∧ x.pc = f.pc ∧ x.mask = f.mask ∧ x.u = f.u ∧ x.handler = f.handler
          ∧ ∀ r l, l < 32 → ∀ y, y = ((s.warpFrags f.warp).find? (fun z => z.mask.getLsbD l)).getD f →
              x.getV r l = y.getV r l ∧ ∀ p : BitVec 3, p ≠ 7 → bit (x.getP p) l = bit (y.getP p) l)
      ∧ ((∀ z ∈ s.work.blocks, z.id ≠ b.id → z.run = .saved ∨ ∀ h, s.grid? z.grid = some h → h.job ≠ g.job) → ∀ j ∈ t.work.jobs, j.num = g.job → j.swapped = true))
  ∧ (∀ (s : State) b job va last, s.nextArea job = some (va, last) → let bs := s.imageOf b job va
      (last < va + bs.length → s.writeSave b job = s)
      ∧ (va + bs.length ≤ last → s.writeSave b job =
          (s.writeArea job (BitVec.ofNat 64 va) bs).modBlock b.id (fun x => { x with area := BitVec.ofNat 64 va, areaLen := bs.length })))
  ∧ (∀ (s : State) job (va : DWord) line bs, line.length = 64 →
      s.writeArea job va (line ++ bs) = (s.writeArea job va line).writeArea job (va + 64) bs
      ∧ ∀ lf p, s.leaf? job va = some lf → lf.place va = .hbm p → s.writeArea job va line = s.performAt (.hbm p) line)
  ∧ (∀ k ql w fs, 1 ≤ fs.length → fs.length ≤ 32 → k.vreg ≤ 64 → k.sreg ≤ 64 → k.treg ≤ 4 → k.areg ≤ 4 → ql ≤ 2048 → WarpLaid (warpRecord k ql w fs) k ql w fs)
  ∧ (∀ (s : State) b warps va keys, b.quota.qa ≤ 256 → b.quota.qw ≤ 64 → b.quota.qc ≤ 256 → b.quota.ql ≤ 2048 → b.quota.qpan ≤ 32 → warps < 256 →
      (s.blockPans b.id).length ≤ 32 → let bs := blockRecord s b warps va keys
      imgField bs 0 4 = warps ∧ imgField bs 4 4 = (s.blockPans b.id).length ∧ imgField bs 8 4 = b.quota.qa ∧ imgField bs 12 4 = b.quota.qw
      ∧ imgField bs 16 4 = b.quota.qc ∧ imgField bs 20 4 = b.quota.ql ∧ imgField bs 24 4 = b.quota.qpan
      ∧ (∀ i, i < 4096 * b.quota.qa → imgField bs (64 + i) 1 = (b.a.get i).toNat)
      ∧ (∀ i, i < 256 * b.quota.qa → ((imgField bs (64 + 4096 * b.quota.qa + i / 8) 1).testBit (i % 8) = true ↔ i ∈ b.fullA)))
  ∧ (∀ (s : State) b g, s.block? b.id = some b → s.grid? b.grid = some g →
      (b.restoring = false ∨ s.filling g.job = true → s.restoreBlock b.id = s)
      ∧ (b.restoring = true → s.filling g.job = false → s.image? b g.job = none → (∀ x ∈ s.work.blocks, x.id = b.id → x = b) → (s.work.warps.map (·.id)).Nodup →
        let t := s.restoreBlock b.id
        t.mem = s.mem ∧ t.work.frags = s.work.frags
        ∧ t.work.blocks = s.work.blocks.map (fun x => if x.id = b.id then { b with restoring := false, area := 0, areaLen := 0 } else x)
        ∧ t.work.pans = s.work.pans.map (fun p => if p.block = b.id then { p with opened := s.cycle, expired := false } else p)
        ∧ (∀ w ∈ s.blockWarps b.id, ∃ x, t.warp? w.id = some x ∧ ∀ k : Fin 8,
            x.pins[k] = (getKey (8 * w.id + k.val) (s.sync.swappedPins ++ s.sync.pinOverflow)).getD w.pins[k])
        ∧ ∀ x ∈ t.sync.swappedPins ++ t.sync.pinOverflow, ∀ w ∈ s.blockWarps b.id, x.1 / 8 ≠ w.id)
      ∧ (∀ w f img, b.restoring = true → s.filling g.job = false → s.image? b g.job = some img → s.blockWarps b.id = [w] → s.warpFrags w.id = [f] →
        f.relSent = false → f.replies = [] → b.kernel.vreg ≤ 64 → b.kernel.sreg ≤ 64 →
        ∃ x y, (s.restoreBlock b.id).frag? f.id = some x ∧ (s.restoreBlock b.id).warp? w.id = some y ∧ x.pc.toNat = imgField img 0xB40 8 ∧ x.mask = f.mask
          ∧ (∀ r, r < b.kernel.sreg → (x.getU (BitVec.ofNat 6 r)).toNat = imgField img (0xB80 + 8 * r) 8)
          ∧ (∀ r l, r < b.kernel.vreg → l < 32 → (x.getV (BitVec.ofNat 6 r) l).toNat = imgField img (vectorsAt b.kernel 1 + 128 * r + 4 * l) 4)
          ∧ y.tvec.toNat = imgField img 0x80 8 ∧ y.frame.tpc.toNat = imgField img 0x88 8 ∧ y.frame.tcause.toNat = imgField img 0x90 8))
  ∧ (∀ s (g : Grid), s.gridOf? g.gid (fun x => !x.detached) = some g ∨ (s.gridOf? g.gid (fun x => !x.detached) = none ∧ s.gridOf? g.gid (fun _ => true) = some g) →
      ∃ (cause : BitVec 8) (s1 : State), s1.mem = s.mem ∧ s1.work = s.work ∧ s1.sync = s.sync ∧
      let t := s1.killUnplaced g cause
      (g.run ≠ .held → exec (.gridEndRequest g.gid) s = .next (((t.work.blocks.filter (fun b => b.grid == g.key && b.killed.isNone)).map (·.id)).foldl
        (fun a i => a.killBlock i cause) t))
      ∧ (∀ x, g.run = .held → t.grid? g.key = some x → exec (.gridEndRequest g.gid) s = .next (t.finishGrid x (verdictOf x))))

/-- 21 R348, R355 to R359; 09 R194, R195; 04 R64: consumed errors, self-tests, remapping and retiring, scrubbing, and the error log;
kinds, actions and the number of records are the model's choice (log 64). -/
def Obligations.ErrorsAndRepair : Prop :=
  (∀ s cls kind action unit, logged s cls kind action unit (s.logError cls kind action unit none))
  ∧ (∀ s f w b, s.frag? f.id = some f → s.warp? f.warp = some w → s.block? w.block = some b →
      let found := fun (u : State) (c : Option Consuming) => Host.Outcome.next (φ := Fault) (ρ := Refusal)
        ({ u with ctl := { s.ctl with consuming := c, agenda := .issue f.id :: s.ctl.agenda } } : State)
      (∀ addr, s.candidate f = false → exec (.errorConsume f.id addr) s = .next s)
      ∧ (s.candidate f = true → exec (.errorConsume f.id 0) s = found s (some ⟨f.id, false, false⟩))
      ∧ (s.candidate f = true → ∀ addr g lf, addr ≠ 0 → s.grid? b.grid = some g → s.leaf? g.job addr = some lf →
          exec (.errorConsume f.id addr) s = found (s.addPoison (lf.place addr) 1) s.ctl.consuming))
  ∧ (∀ s f w b g mma leaves words h dst uses (legal : Ctx → Bool) k, s.current? = some (f, w, b, g) → s.ctl.chainFault = false →
      s.ctl.consuming = some ⟨f.id, mma, leaves⟩ → activeMask f h ≠ 0 → dst.ok b.kernel = true → (∀ u ∈ uses, u.ok b.kernel = true) →
      legal ⟨s, f, w, b, g, activeMask f h, dst, words⟩ = true →
      let reads := uses ≠ [] ∨ h.g ≠ 7
      let differs := leaves = true ∧ g.launch.shadow = true
      (¬reads → mma = false → ¬differs → issueWhen s words h dst uses legal k = k ⟨s, f, w, b, g, activeMask f h, dst, words⟩)
      ∧ (reads ∨ mma = true ∨ differs → ∃ (s1 : State) (u : Unit9 × BitVec 32) (lanes : Mask), s1.mem = s.mem ∧ s1.work = s.work ∧ lanes ≠ 0 ∧ lanes &&& activeMask f h = lanes
        ∧ ((u.1 = .regFile ∧ reads) ∨ (u.1 = .matrix ∧ mma = true) ∨ ((u.1 = .lane ∨ u.1 = .sfu) ∧ differs)) ∧ u.2.setWidth 8 = BitVec.ofNat 8 b.core
        ∧ issueWhen s words h dst uses legal k = .next (s1.consume f w b u lanes 0 (dst.descriptor.setWidth 64))))
  ∧ (∀ (s : State) f w b u lanes addr info, ∃ (s1 : State), s1.mem = s.mem ∧ s1.work = s.work ∧ u ∈ s1.repair.tests ∧ s1.fw.elogCount = s.fw.elogCount + 1 ∧
      ((s.isClean b = true ∧ b.relaunches < 3) → s.consume f w b u lanes addr info = s1.rollback b)
      ∧ (¬(s.isClean b = true ∧ b.relaunches < 3) → s.consume f w b u lanes addr info = s1.takeTrap f w b ⟨.poison, lanes, addr, info⟩))
  ∧ (∀ (s : State) b g, s.grid? b.grid = some g → (s.isClean b = true ↔ b.clean = true ∧ (s.gangBlocks b.grid b.gang).length = g.launch.gang
      ∧ ∀ x ∈ s.gangBlocks b.grid b.gang, x.clean = true ∧ x.killed = none))
  ∧ (∀ (s : State) b g, s.grid? b.grid = some g → let t := s.rollback b
      let mine := s.gangBlocks b.grid b.gang
      t.grid? b.grid = some { g with again := g.again ++ mine.map (fun x => (x.index, x.relaunches + 1, some b.cluster)), nrelaunch := g.nrelaunch + mine.length }
      ∧ (∀ z ∈ t.work.blocks, ∃ y ∈ s.work.blocks, y.id = z.id ∧ ∀ x ∈ mine, x.id ≠ z.id)
      ∧ (∀ w, w ∈ t.work.warps → ∀ x ∈ mine, w.block ≠ x.id) ∧ (∀ p, p ∈ t.work.pans ↔ p ∈ s.work.pans ∧ ∀ x ∈ mine, p.block ≠ x.id)
      ∧ (∀ f ∈ t.work.frags, ∃ y ∈ s.work.frags, y.id = f.id ∧ ∀ x ∈ mine, y ∉ s.blockFrags x.id)
      ∧ (∀ x ∈ mine, (∀ d ∈ t.sync.deliveries, d.block ≠ x.id) ∧ (∀ r ∈ t.fab.requests, r.ofEngine x.id = false)
          ∧ ∀ h ∈ t.sync.histories, ∀ y ∈ h.stores, y.block = x.id → y.tags ≠ [])
      ∧ (s.sync.histories = [] → t.mem = s.mem ∧ t.work.blocks = s.work.blocks.filter (fun z => !mine.any (fun x => x.id == z.id))
          ∧ t.work.warps = s.work.warps.filter (fun w => !mine.any (fun x => x.id == w.block))))
  ∧ (∀ s (cls : Unit9) unit, let u : State := { s with repair := { s.repair with tests := s.repair.tests.filter (fun x => x != (cls, unit)) } }
      exec (.selfTest cls unit false) s = .next (u.failUnit cls unit)
      ∧ ((s.repair.softErrors.filter (fun x => decide (s.time < x.2.2 + 86400000000000) && (x.1 == cls && x.2.1 == unit))).length < 15 →
          ∃ t : State, exec (.selfTest cls unit true) s = .next t ∧ logged s (Unit9.code cls) 5 0 unit t ∧ (cls, unit, s.time) ∈ t.repair.softErrors
            ∧ (cls, unit) ∉ t.repair.tests)
      ∧ (15 ≤ (s.repair.softErrors.filter (fun x => decide (s.time < x.2.2 + 86400000000000) && (x.1 == cls && x.2.1 == unit))).length →
          ∃ t : State, exec (.selfTest cls unit true) s = .next (t.failUnit cls unit) ∧ logged s (Unit9.code cls) 5 0 unit t
            ∧ ∀ x ∈ t.repair.softErrors, ¬(x.1 = cls ∧ x.2.1 = unit)))
  ∧ (∀ (s : State) unit, let core := (unit.setWidth 8).toNat
      let u := fun (cls : Unit9) => s.logError (Unit9.code cls) 6 (failAction s cls unit) unit none
      s.failUnit .lane unit = (u .lane).remapLane core (unit.toNat / 2 ^ 8 % 4) (unit.toNat / 2 ^ 10 % 64)
      ∧ (∀ cls : Unit9, cls = .regFile ∨ cls = .buffer ∨ cls = .matrix ∨ cls = .sfu → s.failUnit cls unit = (u cls).retireCore core)
      ∧ ((unit.toNat % 2 ^ 12, unit.toNat / 2 ^ 12 % 2 ^ 7) ∈ s.repair.erasures → s.failUnit .hbm unit = u .hbm)
      ∧ ((unit.toNat % 2 ^ 12, unit.toNat / 2 ^ 12 % 2 ^ 7) ∉ s.repair.erasures →
          4 ≤ (s.repair.erasures.filter (fun x => x.1 == unit.toNat % 2 ^ 12)).length → s.failUnit .hbm unit = (u .hbm).retireChannel core)
      ∧ ((s.repair.erasures.filter (fun x => x.1 == unit.toNat % 2 ^ 12)).length < 4 →
          (unit.toNat % 2 ^ 12, unit.toNat / 2 ^ 12 % 2 ^ 7) ∈ (s.failUnit .hbm unit).repair.erasures)
      ∧ (∀ cls : Unit9, cls = .l2 ∨ cls = .bridge → (cls, unit) ∈ (s.failUnit cls unit).repair.degraded)
      ∧ ∃ (s1 : State) (missing : List Nat), s1.mem = s.mem ∧ s1.work = s.work ∧ (∀ m ∈ missing, m < 13) ∧ s.failUnit .roswald unit = s1.restrict core missing)
  ∧ (∀ s core (part : BitVec 2) (lane : BitVec 6), core ∈ s.work.liveCores →
      ((∃ l, l ≠ lane.toNat ∧ ((core, part.toNat, l) ∈ s.repair.remaps ∨ Mend.lane core part.toNat l ∈ s.repair.mends)) →
        exec (.laneRemap core part lane) s = exec (.coreRetire core) s)
      ∧ ((core, part.toNat, lane.toNat) ∈ s.repair.remaps → (∀ l, l ≠ lane.toNat → (core, part.toNat, l) ∉ s.repair.remaps ∧ Mend.lane core part.toNat l ∉ s.repair.mends) →
        exec (.laneRemap core part lane) s = .next s)
      ∧ ((∀ x ∈ s.repair.remaps, ¬(x.1 = core ∧ x.2.1 = part.toNat)) → s.repair.mends = [] → s.residents core (some part.toNat) = [] →
        exec (.laneRemap core part lane) s = .next (State.logError { s with repair := { s.repair with remaps := s.repair.remaps ++ [(core, part.toNat, lane.toNat)] } }
          1 6 4 (laneUnit core part.toNat lane.toNat) none)))
  ∧ (∀ s core, core ∈ s.work.liveCores → s.repair.mends = [] → s.residents core none = [] →
      ∃ (cls : BitVec 8) (n : Nat), 1 ≤ cls.toNat ∧ cls.toNat ≤ 9 ∧ exec (.coreRetire core) s = .next ((State.recheckGangs { s with
        ctl := { s.ctl with oracle := n }, work := { s.work with liveCores := s.work.liveCores.filter (fun c => c != core) } }).logError
        cls 6 7 (BitVec.ofNat 32 core) none))
  ∧ (∀ s : State, (∀ g ∈ s.work.grids, g.launch.gang ≤ 1 ∨ s.gangPossible g = true ∨ g.run = .held) → s.recheckGangs = s)
  ∧ (∀ s (channel : BitVec 8), channel.toNat ∉ s.repair.retiredChannels → s.repair.mends = [] → (∀ b ∈ s.work.blocks, b.run ≠ .placed) →
      let u : State := { s with repair := { s.repair with retiredChannels := insertNat channel.toNat s.repair.retiredChannels } }
      exec (.channelRetire channel) s = .next (State.logError { u with mem := { s.mem with
        hbm := s.mem.hbm.filter (fun c => decide (c.1 < u.capacity)), poisoned := s.mem.poisoned.filter (fun l => decide (64 * l < u.capacity)) } }
        6 6 6 (channel.setWidth 32) none))
  ∧ (∀ (s : State) m, s.repair.mends = [] → let u := State.forceBlocks { s with repair := { s.repair with mends := [m] } } (m.blocks { s with repair := { s.repair with mends := [m] } })
      m.blocks u ≠ [] → s.schedule m = u)
  ∧ (∀ (s : State) line (wrong : BitVec 72), 64 * line < s.capacity →
      (s.repair.mends ≠ [] → exec (.scrub line wrong) s = .next s)
      ∧ (s.repair.mends = [] → ∃ (rank : Nat) (p : Place) (n : Nat), rank < 16 ∧ (p = .hbm (64 * line) ∨ ∃ x ∈ s.mem.frames, p = .frame x.job x.page (64 * line % x.size)) ∧
          let u : State := { s with ctl := { s.ctl with oracle := n } }
          let known := s.knownBad (s.channelOf (64 * line)) rank
          let bad := (List.range 72).filter (fun i => wrong.getLsbD i && !known.contains i)
          let unit := hbmUnit (s.channelOf (64 * line)) rank (bad.headD 0)
          (bad = [] → exec (.scrub line wrong) s = .next u)
          ∧ (bad ≠ [] → 2 * bad.length + known.length ≤ 8 → exec (.scrub line wrong) s = .next ((u.logError 6 1 0 unit none).startTest .hbm unit))
          ∧ (bad ≠ [] → 8 < 2 * bad.length + known.length →
              exec (.scrub line wrong) s = .next (((u.addPoison p 64).logError 6 2 0 unit none).startTest .hbm unit))))
  ∧ (∀ channel rank symbol, channel < 256 → rank < 16 → symbol < 72 →
      (hbmUnit channel rank symbol).toNat % 256 = channel ∧ (hbmUnit channel rank symbol).toNat / 256 % 16 = rank ∧ (hbmUnit channel rank symbol).toNat / 4096 = symbol)

/-- 22 R368: the ROM's checks in their order; the first that fails sets ERR and discards the image, and the ROM waits on; an image that passes
is measured and the firmware starts. The model's choices here: ERR keeps its value on a pass, the staging area is empty after either, and how the
signature and the digests are computed (log 23, log 14). -/
def Obligations.BootChecks : Prop :=
  (∀ s (port : BitVec 3) v, s.fw.dstat.rom = false ∨ s.fw.dstat.fwRun = true ∨ v ≠ 1 ∨ (port ≠ 0 ∧ port ≠ 4) → exec (.bootgo ⟨port, v⟩) s = .next s)
  ∧ ∀ s (port : BitVec 3), s.fw.dstat.rom = true → s.fw.dstat.fwRun = false → port = 0 ∨ port = 4 → ∃ t : State, exec (.bootgo ⟨port, 1⟩) s = .next t ∧
      ((∃ e, Fails s.fw.staging e ∧ t = { s with fw := { s.fw with staging := [], dstat := { s.fw.dstat with err := e } } })
      ∨ (Passes s.fw.staging ∧ t = { s with fw := { s.fw with
            staging := [], dstat := { s.fw.dstat with fwOk := true, fwRun := true, rom := false }
            measure := BitVec.ofNat 256 (natOfBe (sha256 (beBytes s.fw.measure.toNat 32 ++ s.fw.staging.getN 0x10 32 ++ s.fw.staging.getN 8 4))) } }))

/-- 09 R192 to R197; 03 R44, R45; 22 R361 to R370, R372: base dies, the device window, boot, link training and the power governor.
The model's choices here: the aperture refuses bytes that a collective holds (log 53); accesses to the window come with the host that makes them, and
which hosts are admitted is open (log 52); the power that work draws (log 28). -/
def Obligations.BaseDieAndWindow : Prop :=
  (∀ (s : State) ch off, ¬OpenWindow s → s.addrOf? ch off = none)
  ∧ (∀ (s : State) a, OpenWindow s → s.liveChannels.length = s.nlive → a < s.capacity →
      s.addrOf? (BitVec.ofNat 8 (s.liveChannels.getD (a / 256 % s.nlive) 0)) (256 * (a / 256 / s.nlive) + a % 256) = some a)
  ∧ (∀ s tag ch (off : BitVec 31) a,
      (s.addrOf? ch (off.toNat / 64 * 64) = some a → exec (.read64 tag ch off) s = .next (s.dieReply tag (s.mem.hbm.getN a 64) [s.isPoisoned (.hbm a) 64]))
      ∧ (s.addrOf? ch (off.toNat / 256 * 256) = some a →
        exec (.read256 tag ch off) s = .next (s.dieReply tag (s.mem.hbm.getN a 256) ([0, 1, 2, 3].map (fun i => s.isPoisoned (.hbm (a + 64 * i)) 64)))
        ∧ (∀ bytes, (∀ x ∈ bytes, x.1 < 256) → exec (.hbmWrite tag ch off bytes) s = .next
          (State.dieReply (linesMended (bytes.foldl (fun u x => u.performAt (.hbm (a + x.1)) [x.2]) s) a (bytes.map (·.1))) tag [] []))
        ∧ (∀ aop words, (∀ x ∈ words, x.1 < 256) → exec (.hbmRedm tag ch off aop words) s = .next (State.dieReply (words.foldl (fun u x => u.redmAt (.hbm (a + x.1)) aop x.2) s) tag [] [])))
      ∧ (s.addrOf? ch off.toNat = some a → ∀ aop (wide : Bool) x y,
        (s.isPoisoned (.hbm a) (if wide then 8 else 4) = true → exec (.hbmAtom tag ch off aop wide x y) s = .next (s.dieReply tag (List.replicate 8 0) [true]))
        ∧ (s.isPoisoned (.hbm a) (if wide then 8 else 4) = false → exec (.hbmAtom tag ch off aop wide x y) s = .next
          (State.dieReply (s.atomicAt (.hbm a) aop wide x y).2 tag (bytesOf (s.atomicAt (.hbm a) aop wide x y).1 8) [false]))))
  ∧ (∀ s host (loc : BitVec 40),
      (∀ n, ∃ t : State, exec (.apertureRead host loc n) s = .next t ∧ (¬Serves s host loc.toNat n → t = s)
        ∧ (Serves s host loc.toNat n → s.sync.histories = [] → t = { s with fw := { s.fw with hostReads := s.fw.hostReads ++
            [if s.isPoisoned (.hbm loc.toNat) n = true then none else some (s.mem.hbm.getN loc.toNat n)] } }))
      ∧ (∀ bytes, ∃ t : State, exec (.apertureWrite host loc bytes) s = .next t ∧ (¬Serves s host loc.toNat bytes.length → t = s)
        ∧ (Serves s host loc.toNat bytes.length → t = s.performAt (.hbm loc.toNat) bytes)))
  ∧ (∀ s (off : BitVec 40) (v : HostWrite DWord),
      (s.fw.dstat.rom = true ∨ Config.admitted v.host = false → exec (.registerWrite off v) s = .next s)
      ∧ (s.fw.dstat.rom = false → Config.admitted v.host = true →
        (0x1000 ≤ off.toNat → off.toNat + 8 ≤ 0x41000 →
          exec (.registerWrite off v) s = .next { s with fw := { s.fw with request := s.fw.request.putN (off.toNat - 0x1000) (bytesOf v.value 8) } })
        ∧ (off.toNat = 0x41000 → exec (.registerWrite off v) s = .next { s with fw := { s.fw with rqTail := v.value } })
        ∧ (off.toNat < 0x1000 ∨ 0x41000 < off.toNat → exec (.registerWrite off v) s = .next s)))
  ∧ (∀ s port (off : BitVec 24) bytes,
      (s.fw.dstat.rom = true → port = 0 ∨ port = 4 → off.toNat + bytes.length ≤ 16777216 →
        exec (.stagingWrite port off bytes) s = .next { s with fw := { s.fw with staging := s.fw.staging.putN off.toNat bytes } })
      ∧ (s.fw.dstat.rom = false → exec (.stagingWrite port off bytes) s = .next s))
  ∧ (∀ s, ∃ a b c : State, exec (.linkTraining .baseDie true) s = .next a ∧ a.fw.dstat = { s.fw.dstat with memReady := true } ∧ a.mem = s.mem
      ∧ exec (.linkTraining .baseDie false) s = .next b ∧ b.fw.dstat = { s.fw.dstat with err := 5 }
      ∧ exec (.linkTraining .roswald false) s = .next c ∧ c.fw.dstat = { s.fw.dstat with err := 6 }
      ∧ (s.fab.routes ≠ [] → ∃ d : State, exec (.linkTraining .roswald true) s = .next d ∧ d.fw.dstat = { s.fw.dstat with fabReady := true })
      ∧ ∀ ok, ∃ d : State, exec (.linkTraining .ultraEthernet ok) s = .next d ∧ d.fw.dstat = s.fw.dstat)
  ∧ (∀ v : DWord, ((Pgov.ofValue v).floor.toNat = clamp 0 1200 (v.toNat / 2 ^ 32 % 2 ^ 11) ∧ (Pgov.ofValue v).ramp.toNat = clamp 10 1500 (v.toNat / 2 ^ 20 % 2 ^ 12)
      ∧ (Pgov.ofValue v).step.toNat = v.toNat / 2 ^ 8 % 2 ^ 12 ∧ (Pgov.ofValue v).tlead.toNat = clamp 1 15 (v.toNat / 2 ^ 4 % 2 ^ 4)
      ∧ (Pgov.ofValue v).tideEn = v.getLsbD 3 ∧ (Pgov.ofValue v).rakeEn = v.getLsbD 2))
  ∧ (∀ s, s.fw.dstat.fwRun = true → ∃ t : State, exec .governorPeriod s = .next t ∧ t.work = s.work ∧ t.mem = s.mem ∧ t.sync = s.sync ∧
      let g := s.power.pgovNext.getD s.power.pgov
      let ramp := g.ramp.toNat
      let demand := if s.fw.resetPending then 0 else Config.foregroundPower (s.power.period + 1)
      let least := if s.fw.resetPending then 0 else 10 * g.floor.toNat
      let floor := max (min least (s.power.now + ramp)) (s.power.now - ramp)
      t.power.pgov = g ∧ t.power.pgovNext = none ∧ t.power.period = s.power.period + 1 ∧ t.power.now ≤ s.power.now + ramp
      ∧ (g.rakeEn = true → s.power.now - ramp ≤ t.power.now ∧ floor ≤ t.power.now ∧ (t.power.now = floor ∨ t.power.now ≤ demand))
      ∧ (g.rakeEn = true → s.power.raking = true → t.power.now = floor)
      ∧ (g.rakeEn = true → s.power.raking = false → t.power.now = max (min demand (s.power.now + ramp)) floor)
      ∧ (g.rakeEn = false → t.power.now = min demand (if s.power.raking then floor else s.power.now + ramp) ∧ t.power.raking = false)
      ∧ (∀ c ∈ s.work.liveCores, ∃ n, (c, n) ∈ t.power.budgets ∧ ((s.power.budgets.find? (fun x => x.1 == c)).map (·.2)).getD 0 ≤ n))
  ∧ (∀ s port host o n, let may := if s.fw.dstat.rom = true then (port = 0 ∨ port = 4) ∧ o + n ≤ 8
        else Config.admitted host = true ∧ o + n ≤ 2 ^ 39 ∧ (o + n ≤ 0x10000000 ∨ 0x11000000 ≤ o) ∧ (2 ^ 37 < o + n → OpenWindow s)
      (may → State.perform s (.hostRead port host o n) = .next { s with fw := { s.fw with
        hostReads := s.fw.hostReads ++ [some ((List.range n).map (fun i => s.windowByte (o + i)))] } })
      ∧ (¬may → State.perform s (.hostRead port host o n) = .next s))
  ∧ (∀ (s : State), let d := s.fw.dstat
      (∀ o, o < 8 → s.windowByte o = (bytesOf d.value 8).getD o 0)
      ∧ (∀ i, i < 64 → d.value.getLsbD i = if i = 0 then d.rom else if i = 1 then d.fwOk else if i = 2 then d.fwRun else if i = 3 then d.memReady
          else if i = 4 then d.fabReady else if i = 5 then d.warm else decide (8 ≤ i ∧ i < 16) && d.err.getLsbD (i - 8))
      ∧ (d.rom = false →
        (∀ o, 0x1000 ≤ o → o < 0x41000 → s.windowByte o = s.fw.request.get (o - 0x1000))
        ∧ (∀ i, i < 8 → s.windowByte (0x41000 + i) = (bytesOf s.fw.rqTail 8).getD i 0 ∧ s.windowByte (0x41008 + i) = (bytesOf s.fw.rqHead 8).getD i 0
            ∧ s.windowByte (0x41010 + i) = (bytesOf s.fw.rpHead 8).getD i 0 ∧ s.windowByte (0x200000 + i) = (bytesOf (BitVec.ofNat 64 s.fw.elogCount) 8).getD i 0)
        ∧ (∀ q i, q < 4096 → i < 0x2000000 → s.windowByte (0x2000000000 + 0x2000000 * q + i) = (s.queueOf (BitVec.ofNat 12 q)).byte i)
        ∧ (∀ k i, k < s.fw.elog.length → s.fw.elog.length ≤ s.fw.elogCount → s.fw.elog.length ≤ 32768 → i < 32 →
            s.windowByte (0x100000 + 32 * ((s.fw.elogCount - s.fw.elog.length + k) % 32768) + i) = (((s.fw.elog[k]?).map (·.bytes)).getD []).getD i 0)))
  ∧ (∀ (q : Queue) i, i < 8 → let at' := fun (o : Nat) => q.byte (256 * q.size + o + i)
      at' 0 = (bytesOf (BitVec.ofNat 64 q.tail) 8).getD i 0 ∧ at' 8 = (bytesOf (BitVec.ofNat 64 q.head) 8).getD i 0
      ∧ at' 16 = (bytesOf (BitVec.ofNat 64 q.retired) 8).getD i 0 ∧ at' 24 = (bytesOf (BitVec.ofNat 64 q.errseq) 8).getD i 0
      ∧ at' 32 = if i = 0 then (match q.status with | .running => 0 | .error => 1 | .faulted => 2) else 0)

/-- 22 R369 to R373; 01 R9: resets, and what State.reset holds where the manual states it. The model's choices here: the reset pin acts as a warm reset
does (log 25); HBM after a cold reset reads as zero (log 2); the poison marks that a warm reset keeps, and the zeros of State.reset that R371 does not
give (log 3). -/
def Obligations.Resets : Prop :=
  (∀ s, s.fw.resetPending = true → s.power.now = 0 → exec .warmReset s = .next (s.afterReset true))
  ∧ (∀ s, s.fw.resetPending = false ∨ s.power.now ≠ 0 → exec .warmReset s = .next s)
  ∧ (∀ s, exec .coldReset s = .next (s.afterReset false) ∧ exec .resetPin s = .next (s.afterReset true))
  ∧ (∀ (s : State) warm, let t := s.afterReset warm
      (warm = true → t.mem.hbm = s.mem.hbm) ∧ t.repair.erasures = s.repair.erasures ∧ t.repair.retiredChannels = s.repair.retiredChannels
      ∧ t.repair.remaps = s.repair.remaps ∧ t.work = { State.reset.work with liveCores := t.work.liveCores } ∧ (∃ n0 n1, n0 ≤ 96 ∧ n1 ≤ 96 ∧ ∀ c, c ∈ t.work.liveCores ↔ c < n0 ∨ (96 ≤ c ∧ c < 96 + n1))
      ∧ (warm = true → t.mem.poisoned = s.mem.poisoned) ∧ (warm = false → t.mem.hbm = []) ∧ t.sync = State.reset.sync ∧ t.fab = State.reset.fab ∧ t.coll = State.reset.coll
      ∧ t.mem.l1 = [] ∧ t.mem.l2 = [] ∧ t.mem.walks = [] ∧ t.mem.frames = [] ∧ t.fw.measure = 0 ∧ t.power.pgov = ⟨0, 50, 20, 2, true, true⟩ ∧ t.fw.dstat = ⟨0, warm, false, false, false, false, true⟩
      ∧ t.fw.resetCount = s.fw.resetCount + 1)
  ∧ State.reset.fw.dstat.rom = true ∧ State.reset.fw.dstat.fwRun = false ∧ State.reset.fw.dstat.memReady = false ∧ State.reset.fw.measure = 0
  ∧ State.reset.power.pgov = ⟨0, 50, 20, 2, true, true⟩ ∧ State.reset.work.queues = [] ∧ State.reset.work.jobs = [] ∧ State.reset.mem.hbm.wf = true

/-- 03 R40, R45, R374; 10 R200; 14 R294, R297; 18 R331, R340; 21 R350; 22 R361, R369, R373: firmware handles its requests. The model's choices here: where
a new page-table node lies (log 9), a MAP against a page of another size and a name that is unknown (log 26), the pairing index after a GROUP_WRITE
(log 40), that a committed route table replaces the whole one (log 54), and the bytes that a quote signs (log 24). -/
def Obligations.FirmwareRequests : Prop :=
  (∀ (s : State) result reply args, s.fw.request.wf = true → result < 65536 →
      let slot := 512 * (s.fw.rpHead.toNat % 512)
      let t := answered s result reply args
      natOfBytes (t.fw.request.getN (slot + 4) 2) = result ∧ t.fw.request.getN (slot + 0x10 + args) reply.length = reply
      ∧ t.fw.request.getN (slot + 0x10) args = s.fw.request.getN (slot + 0x10) args ∧ t.fw.rpHead = s.fw.rpHead + 1
      ∧ t.fw.rqHead = s.fw.rqHead + 1 ∧ t.work = s.work ∧ t.mem = s.mem)
  ∧ (∀ (s : State) off, s.fwField off = natOfBytes (s.fw.request.getN (512 * (s.fw.rpHead.toNat % 512) + off) 2))
  ∧ (∀ (s : State) code k, (s.fw.dstat.fwRun = false ∨ s.fw.rpHead = s.fw.rqTail ∨ s.fwField 0 ≠ code → s.firmware code k = .next s)
      ∧ (s.fw.dstat.fwRun = true → s.fw.rpHead ≠ s.fw.rqTail → s.fwField 0 = code → s.fwField 2 ≠ 0 ∨ s.fwField 6 ≠ 0 → s.firmware code k = .next (answered s 3 [])))
  ∧ ∀ s,
    (Asks s 0x1 → ∀ job (root : BitVec 52) key,
      let fits := root.toNat % 8192 = 0 ∧ root.toNat + 8192 ≤ s.capacity ∧ ∀ x ∈ s.mappedParts, meets (root.toNat, 8192) x = false
      (s.job? job = none → fits → exec (.jobOpen job root key) s = .next (answered { s with work := { s.work with jobs := s.work.jobs ++ [newJob job root.toNat key] } } 1 []))
      ∧ (s.job? job ≠ none ∨ ¬fits → exec (.jobOpen job root key) s = .next (answered s 2 [])))
    ∧ (Asks s 0x2 → ∀ job,
      (s.job? job ≠ none → (∀ g ∈ s.work.grids, g.job ≠ job) → ∃ t : State, exec (.jobClose job) s = .next (answered t 1 []) ∧ t.job? job = none
        ∧ (∀ g ∈ t.work.groups, g.job ≠ job) ∧ (∀ x ∈ t.mem.l1 ++ t.mem.l2, x.job ≠ job) ∧ t.mem.hbm = s.mem.hbm ∧ t.work.blocks = s.work.blocks)
      ∧ (s.job? job = none ∨ (∃ g ∈ s.work.grids, g.job = job) → exec (.jobClose job) s = .next (answered s 2 [])))
    ∧ (Asks s 0x3 → ∀ (queue : BitVec 16) size job preempt pdl enable,
      let legal := queue.toNat < 4096 ∧ (∃ i, i < 13 ∧ size = 16 * 2 ^ i) ∧ 1000 ≤ pdl ∧ pdl ≤ 1000000
      (legal → s.job? job ≠ none → s.queue? (queue.setWidth 12) = none → exec (.queueConfig queue size job preempt pdl enable) s = .next (answered { s with work := { s.work with
          queues := s.work.queues ++ [⟨queue.setWidth 12, size, job, preempt, pdl, enable, 0, 0, 0, 0, .running, [], []⟩] } } 1 []))
      ∧ (legal → ∀ q, s.queue? (queue.setWidth 12) = some q → (q.isReset = true ∧ s.job? job ≠ none) ∨ (q.size = size ∧ q.job = job) →
        exec (.queueConfig queue size job preempt pdl enable) s = .next (answered (s.setQueue { q with size, job, preempt, pdl, enable }) 1 []))
      ∧ (∀ q, s.queue? (queue.setWidth 12) = some q → q.isReset = false → ¬(q.size = size ∧ q.job = job) →
        exec (.queueConfig queue size job preempt pdl enable) s = .next (answered s 2 []))
      ∧ (¬legal ∨ (s.job? job = none ∧ ∀ q, s.queue? (queue.setWidth 12) = some q → q.job ≠ job) →
        exec (.queueConfig queue size job preempt pdl enable) s = .next (answered s 2 [])))
    ∧ (Asks s 0x4 → ∀ queue, exec (.queueReset queue) s = .next (answered (s.resetQueue (s.queueOf queue)) 1 []))
    ∧ (∀ queue, (s.queueOf queue).num = queue ∧ (s.queue? queue = none → (s.queueOf queue).pdl = 20000 ∧ (s.queueOf queue).enable = false
        ∧ (s.queueOf queue).isReset = true))
    ∧ (∀ queue q, s.queue? queue = some q → q.num = queue → (s.work.grids.map (·.key)).Nodup → let t := s.resetQueue q
      t.queue? queue = some { q with tail := 0, head := 0, retired := 0, errseq := 0, status := .running, doneSeqs := [] }
      ∧ t.work.blocks = s.work.blocks ∧ t.work.warps = s.work.warps
      ∧ (∀ y ∈ s.work.grids, y.gid.queue = queue → (y.run = .held → ∀ x ∈ t.work.grids, x.key ≠ y.key)
          ∧ (y.run = .released → { y with detached := true } ∈ t.work.grids))
      ∧ (∀ x ∈ t.work.grids, x.gid.queue = queue → x.detached = true) ∧ (∀ x ∈ t.work.records, x.queue = queue → x.detached = true)
      ∧ (∀ y a, s.mem.hbm.wf = true → s.work.grids = [y] → y.gid.queue = queue → y.run = .held → s.cvaPlace? y.job y.launch.cva = some (.hbm a) →
          t.getAt (.hbm a) 64 = recordOf { y with detached := true } (.plain .depFailed 0))
      ∧ ((∀ y ∈ s.work.grids, y.run = .released) → t.mem = s.mem ∧ t.work.frags = s.work.frags
          ∧ t.work.grids = s.work.grids.map (fun y => if y.gid.queue = queue then { y with detached := true } else y)))
    ∧ (Asks s 0x5 → ∀ j handle, s.job? j.num = some j →
      (handle ≠ 0 → ∀ k, exec (.keyLoad j.num handle (some k)) s = .next (answered (s.setJob { j with keys := setKey handle k j.keys }) 1 []))
      ∧ (handle ≠ 0 → exec (.keyLoad j.num handle none) s = .next (answered (s.setJob { j with keys := j.keys.filter (fun x => x.1 != handle) }) 1 []))
      ∧ ∀ key, exec (.keyLoad j.num 0 key) s = .next (answered s 2 []))
    ∧ (Asks s 0x6 → ∀ sgid entry g, g = readGroup sgid entry →
      let s1 : State := { s with
        work := { s.work with groups := s.work.groups.filter (fun x => x.sgid != sgid) ++ (if g.flags.getLsbD 0 then [g] else []) }
        coll := { s.coll with counts := s.coll.counts.filter (fun x => x.1 != sgid) } }
      (groupClear entry g = true → s.groupOpen sgid = false → (g.flags.getLsbD 0 = true → groupLegal g = true) →
        exec (.groupWrite sgid entry) s = .next (answered s1 1 []))
      ∧ (groupClear entry g = true → (s.groupOpen sgid = true ∨ (g.flags.getLsbD 0 = true ∧ groupLegal g = false)) →
        exec (.groupWrite sgid entry) s = .next (answered s 2 []))
      ∧ (groupClear entry g = false → exec (.groupWrite sgid entry) s = .next (answered s 3 [])))
    ∧ (¬OpenWindow s → ∀ job va given, exec (.map job va given) s = .next s)
    ∧ (∀ job va e, let t := s.lay job va e
      let rest := s.mem.laid.filter (fun x => !(x.job == job && x.page == va))
      t.work = s.work ∧ t.mem.hbm = s.mem.hbm ∧ (pteV e = false ∨ pteShst e = shPrivate ∨ s.group? (pteSgid e) = none → t.mem.laid = rest)
      ∧ ∀ g, s.group? (pteSgid e) = some g → pteV e = true → pteShst e ≠ shPrivate → t.mem.laid = rest ++ [⟨job, va, g⟩])
    ∧ (∀ shift e a, placeOfPa (65536 * (ptePfn e).toNat) = .hbm a →
      (pteShst e = shPrivate → s.leafPart shift e = [(a, 2 ^ shift)])
      ∧ ∀ g, pteShst e ≠ shPrivate → s.group? (pteSgid e) = some g → s.leafPart shift e = [(a, 16 * ownedBy (2 ^ shift / 16) g.n g.rank)])
    ∧ (Asks s 0x7 → OpenWindow s → ∀ j va given shift, s.job? j.num = some j → let e := pteClean given
      (pteV e = true → s.leaf? j.num va = none →
        (Installable s j.num va e shift → (∀ pa s2, s.entryFor (s.leafPart shift e) va shift levels j.root = some (pa, s2) →
            exec (.map j.num va given) s = .next (answered (State.wakePages
              (State.lay { s2 with mem := { s2.mem with hbm := s2.mem.hbm.putN pa (bytesOf e 16) } } j.num va e)) 1 []))
          ∧ (s.entryFor (s.leafPart shift e) va shift levels j.root = none → exec (.map j.num va given) s = .next (answered s 2 [])))
        ∧ ((∀ shift, ¬Installable s j.num va e shift) → exec (.map j.num va given) s = .next (answered s 2 [])))
      ∧ (∀ lf, s.leaf? j.num va = some lf → lf.page = va →
        ((s.settlePage lf).pageBusy lf = true → exec (.map j.num va given) s = .next (s.settlePage lf))
        ∧ ((s.settlePage lf).pageBusy lf = false → pteV e = false → exec (.map j.num va given) s = .next (answered ((s.settlePage lf).unmap lf 0) 1 []))
        ∧ ((s.settlePage lf).pageBusy lf = false → pteV e = true → Installable s j.num va e shift → lf.size = 2 ^ shift →
            exec (.map j.num va given) s = .next (answered ((s.settlePage lf).unmap lf e) 1 [])))
      ∧ (pteV e = false → s.leaf? j.num va = none → exec (.map j.num va given) s = .next (answered s 1 [])))
    ∧ (∀ (e : BitVec 128) i, i < 128 → (pteClean e).getLsbD i = (e.getLsbD i && !(i == 19 || (84 ≤ i && i < 100))))
    ∧ (Asks s 0x8 → ∀ host frame count,
      (65536 * (frame + count) ≤ s.capacity → (∀ i, i < count → s.frameReserved (frame + i) = false) →
        exec (.grant host frame count true) s = .next (answered { s with fw := { s.fw with grants := s.fw.grants ++ [⟨host, frame, count⟩] } } 1 []))
      ∧ ((s.capacity < 65536 * (frame + count) ∨ ∃ i, i < count ∧ s.frameReserved (frame + i) = true) →
        exec (.grant host frame count true) s = .next (answered s 2 []))
      ∧ (∃ t : State, exec (.grant host frame count false) s = .next (answered t 1 []) ∧ t.mem = s.mem ∧ ∀ h x,
          (∃ g ∈ t.fw.grants, g.host = h ∧ g.frame ≤ x ∧ x < g.frame + g.count) ↔
          (∃ g ∈ s.fw.grants, g.host = h ∧ g.frame ≤ x ∧ x < g.frame + g.count) ∧ ¬(h = host ∧ frame ≤ x ∧ x < frame + count)))
    ∧ (∀ j ∈ s.work.jobs, s.frameReserved (j.root / 65536) = true)
    ∧ (∀ avoid a, s.nodePlace? avoid = some a → a % 8192 = 0 ∧ a + 8192 ≤ s.capacity ∧ s.holdsNode (a, 8192) = false
        ∧ (∀ x ∈ s.mappedParts, meets (a, 8192) x = false) ∧ (∀ x ∈ avoid, meets (a, 8192) x = false)
        ∧ ∀ x ∈ s.fw.grants, meets (a, 8192) (65536 * x.frame, 65536 * x.count) = false)
    ∧ (Asks s 0x9 → ∀ (first : BitVec 11) (entries : List RouteEntry),
      (entries.length ≤ 80 → first.toNat + entries.length ≤ 2048 → (∀ e ∈ entries, e.req.toNat < 18 → 128 ≤ e.alim.toNat) →
        ∃ staged : List Route, (∀ (d : BitVec 11) e, ⟨d, e⟩ ∈ staged ↔
            if first.toNat ≤ d.toNat ∧ d.toNat < first.toNat + entries.length then entries[d.toNat - first.toNat]? = some e else ⟨d, e⟩ ∈ s.fab.staged)
          ∧ exec (.routeLoad first entries false) s = .next (answered { s with fab := { s.fab with staged } } 1 [])
          ∧ exec (.routeLoad first entries true) s = .next (answered (State.commitRoutes { s with fab := { s.fab with staged } }) 1 []))
      ∧ ((∃ e ∈ entries, e.req.toNat < 18 ∧ e.alim.toNat < 128) → ∀ commit, exec (.routeLoad first entries commit) s = .next (answered s 2 [])))
    ∧ (s.fab.held = [] → let t := s.commitRoutes
        t.fab.routes = s.fab.staged ∧ t.fab.staged = [] ∧ t.mem = s.mem
        ∧ ∀ h ∈ t.fab.injectHolds, h ∈ s.fab.injectHolds ∨ (h.since = s.time ∧ (h.dev, h.cls) ∈ changedRoutes s.fab.paths s.fab.staged))
    ∧ (Asks s 0xA → ∀ (port : BitVec 5) keys,
      (port.toNat < 18 → keys.length ≤ 64 →
        exec (.admitKeys port keys) s = .next (answered { s with fab := { s.fab with members := setKey port.toNat keys s.fab.members } } 1 []))
      ∧ (18 ≤ port.toNat ∨ 64 < keys.length → exec (.admitKeys port keys) s = .next (answered s 2 [])))
    ∧ (Asks s 0xB → ∀ sgid (start : DWord) (grace : Word),
      (∀ g, s.group? sgid = some g → exec (.slice sgid start grace) s = .next (answered (State.tryMembers { s with coll := { s.coll with
        slices := s.coll.slices.filter (fun x => x.sgid != sgid) ++ [⟨sgid, start.toNat, 1000 * (if grace = 0 then 100 else grace.toNat), false, [], false⟩] } } g) 1 []))
      ∧ (s.group? sgid = none → exec (.slice sgid start grace) s = .next (answered s 2 [])))
    ∧ (Asks s 0xC → ∀ who, (s.namesSome who = true → exec (.preempt who) s = .next (answered (s.signal (s.named who)) 1 []))
      ∧ (s.namesSome who = false → exec (.preempt who) s = .next (answered s 2 [])))
    ∧ (Asks s 0xD → ∀ v, exec (.pgovWrite v) s = .next (answered { s with power := { s.power with pgovNext := some (Pgov.ofValue v) } } 1 []))
    ∧ (Asks s 0xE → exec .pgovRead s = .next (answered s 1 (bytesOf s.power.pgov.value 8)))
    ∧ (Asks s 0xF → ∀ nonce, exec (.quote nonce) s = .next (answered s 1 (s.quoted nonce ++ bytesOf (Config.signQuote (s.quoted nonce)) 384) 32))
    ∧ (Asks s 0x10 →
      (∀ id act, s.warp? id = none → exec (.debug id act) s = .next (answered s 2 []))
      ∧ (∀ w b g v, s.warp? w.id = some w → s.block? w.block = some b → s.grid? b.grid = some g → b.id = w.block →
        (b.imaged = false → exec (.debug w.id (.dctl v)) s = .next (answered (s.modWarp w.id (fun x => { x with dctl := v })) 1 []))
        ∧ (∀ img b2, b.imaged = true → s.image? b g.job = some img → let u := (s.readImage b g.job).modWarp w.id (fun x => { x with dctl := v })
          u.block? b.id = some b2 → exec (.debug w.id (.dctl v)) s = .next (answered (u.writeArea g.job b2.area (u.imageOf b2 g.job b2.area.toNat)) 1 [])))
      ∧ (∀ w b g img w2 f next b2, s.warp? w.id = some w → s.block? w.block = some b → s.grid? b.grid = some g → b.id = w.block → b.imaged = true →
        s.image? b g.job = some img → let u := s.readImage b g.job
        u.warp? w.id = some w2 → (u.warpFrags w.id).find? (fun x => x.run == .stopped) = some f → u.block? w.block = some b2 →
        u.boundary g.job b2.kernel w2.frame.tpc = .ok next →
        let go := fun (pc : DWord) => let z := (u.setFrag { f with run := .ready, pc }).modFw fun y => { y with stops := y.stops.filter (· != w.id) }
          answered (z.writeArea g.job b2.area (z.imageOf b2 g.job b2.area.toNat)) 1 []
        exec (.debug w.id .retry) s = .next (go w2.frame.tpc) ∧ exec (.debug w.id .skip) s = .next (go next))
      ∧ (∀ w b g f next, s.warp? w.id = some w → s.block? w.block = some b → s.grid? b.grid = some g → b.imaged = false →
        (s.warpFrags w.id).find? (fun x => x.run == .stopped) = some f → s.boundary g.job b.kernel w.frame.tpc = .ok next →
        let go := fun (pc : DWord) => answered ((s.setFrag { f with run := .ready, pc }).modFw fun y => { y with stops := y.stops.filter (· != w.id) }) 1 []
        exec (.debug w.id .retry) s = .next (go w.frame.tpc) ∧ exec (.debug w.id .skip) s = .next (go next)))
    ∧ (Asks s 0x11 → ∀ j va len, s.job? j.num = some j →
      ((∀ b ∈ s.work.blocks, ∀ g, s.grid? b.grid = some g → g.job = j.num → b.run ≠ .saved) →
        exec (.saveArea j.num va len) s = .next (answered (s.setJob { j with saveArea := some (va, len) }) 1 []))
      ∧ (∀ b g, b ∈ s.work.blocks → s.grid? b.grid = some g → g.job = j.num → b.run = .saved → exec (.saveArea j.num va len) s = .next (answered s 2 [])))
    ∧ (Asks s 0x12 → exec .reset s = .next (answered { s with fw := { s.fw with resetPending := true } } 1 []))
    ∧ (∀ code : BitVec 16, (code = 0 ∨ 0x13 ≤ code.toNat) → Asks s code.toNat → exec (.reservedRequest code) s = .next (answered s 3 []))

/-- 05 R73 to R78, R85; 06 R111; 18 R339: a step performs the next item of the agenda; for a fragment it fetches the packet of the program
counter, decodes the slot there, and runs that instruction; a reading that is no instruction traps ILLEGAL_OP, a fetch fault traps by its cause.
The model's choices here: what is free in a step of the device (log 4); the lanes and the %tinfo of a fetch fault (log 7); the lanes of a STEP trap
(log 8); how a shadow trails its leading warp (log 82); the words fetched are those that stand in memory (log 83). -/
def Obligations.StepRuns : Prop :=
  (∀ s job k pc a i, CodeAt s job k pc a → (pc.toNat - (k.packet pc).toNat) % 4 = 0 → slotOf k pc ∈ boundarySlots (packetAt s a) →
      (decodeSlot (packetAt s a) (slotOf k pc) = .ok i →
        s.fetch job k pc = (.ok i (chainFaultAt (packetAt s a) (slotOf k pc)) (pipeOf (slotWord (packetAt s a) (slotOf k pc))), s))
      ∧ (∀ e, decodeSlot (packetAt s a) (slotOf k pc) = .error e → s.fetch job k pc =
          (.illegal (wordDescriptor (slotWord (packetAt s a) (slotOf k pc)) (slotWord (packetAt s a) (slotOf k pc + 1))), s)))
  ∧ (∀ w e, let d := (wordDescriptor w e).toNat
      d < 4096 ∧ (d ≠ 0 → 1 ≤ d % 16 ∧ d % 16 ≤ 5 ∧ d / 16 % 64 = (Enc.ofWords w e).d.toNat))
  ∧ (∀ s rest k f w b g, s.ctl.agenda = .issue k :: rest → (begunStep s rest).frag? k = some f → f.run = .ready → (begunStep s rest).warp? f.warp = some w →
      (begunStep s rest).block? w.block = some b → (begunStep s rest).grid? b.grid = some g →
      (∀ i cf pipe s1, (begunStep s rest).fetch g.job b.kernel f.pc = (.ok i cf pipe, s1) →
        (∀ t, exec i (s1.dispatch f b.core i cf pipe) = .next t →
          step s = .next (if g.launch.shadow = true then s1.leading f w b i t else t.afterIssue f))
        ∧ (∀ r, exec i (s1.dispatch f b.core i cf pipe) = .fault r → step s = .fault r)
        ∧ (∀ r, exec i (s1.dispatch f b.core i cf pipe) = .refused r → step s = .refused r))
      ∧ (∀ d s1, (begunStep s rest).fetch g.job b.kernel f.pc = (.illegal d, s1) →
          step s = .next (s1.takeTrap f w b ⟨.illegalOp, f.mask, 0, d.setWidth 64⟩))
      ∧ (∀ a s1, (begunStep s rest).fetch g.job b.kernel f.pc = (.poison a, s1) → ∃ (n : Nat) (u : Unit9 × BitVec 32),
          step s = .next (State.consume { s1 with ctl := { s1.ctl with oracle := n } } f w b u f.mask a 0))
      ∧ (∀ c a s1, (begunStep s rest).fetch g.job b.kernel f.pc = (.bad c a, s1) → step s = .next (s1.takeTrap f w b ⟨c, f.mask, a, 0⟩)))
  ∧ (∀ s rest x, s.ctl.agenda = x :: rest → step s = (begunStep s rest).perform x)
  ∧ (∀ (s : State) i, s.perform (.event i) = exec i s)
  ∧ (∀ (s : State) k, s.perform (.early k) = .next (s.readEarly k)) ∧ (∀ (s : State) b i, s.perform (.arrive b i) = .next (s.arriveOne b i))
  ∧ (∀ (s : State) x, s.sync.redms = [x] → s.perform (.redm x.id) = .next (s.landRedm x))
  ∧ (∀ (s : State) b, s.perform (.restore b) = .next (s.restoreBlock b))
  ∧ (∀ (s : State) b u g, s.perform (.spoiled b u g) = .next (s.addPoison (.buf b u (16 * g)) 1))
  ∧ (∀ (s : State) f w b i (t : State),
      (t.ctl.retired = false → t.trapped f = false → s.leading f w b i t = t.afterIssue f)
      ∧ (t.ctl.retired = false → t.trapped f = true → s.behind w.id ≠ [] → s.leading f w b i t = s)
      ∧ (t.ctl.retired = false → t.trapped f = true → s.behind w.id = [] → (leavesRegs i = true ∨ ∀ x, s.ctl.consuming = some x → x.frag ≠ f.id) →
          s.leading f w b i t = t.afterIssue f)
      ∧ (t.ctl.retired = true → leavesRegs i = true → s.leading f w b i t = t.afterIssue f)
      ∧ (t.ctl.retired = true → leavesRegs i = false → let u := t.afterIssue f
          (s.leading f w b i t).work = { u.work with unmatched := u.work.unmatched.filter (fun x => (u.warp? x.warp.id).isSome) ++ [⟨w, s.warpFrags w.id, fromOutside i⟩] }
          ∧ (s.leading f w b i t).mem = u.mem))
  ∧ (∀ (s : State) w x pre rest, s.work.unmatched = pre ++ x :: rest → x.warp.id = w → (∀ y ∈ pre, y.warp.id ≠ w) →
      s.perform (.shadow w false) = .next { s with work := { s.work with unmatched := pre ++ rest } })
  ∧ (∀ (s : State) w, ∃ t : State, s.perform (.shadow w true) = .next t ∧ t.work.unmatched = s.work.unmatched ∧ (∀ x, x ∈ t.work.stalled ↔ x = w ∨ x ∈ s.work.stalled)
      ∧ t.work.frags = s.work.frags ∧ t.mem = s.mem)
  ∧ (∀ (s : State) i, s.perform (.record i) = .next (s.recordStep i)) ∧ (∀ s : State, s.perform .mend = .next s.mend)
  ∧ (∀ s : State, s.fw.dstat.fwRun = false → s.perform .extend = .next s)
  ∧ (∀ s : State, s.fw.dstat.fwRun = true → ∃ (n : Nat) (digest svn : List Byte), digest.length = 32 ∧ svn.length = 4 ∧ s.perform .extend = .next { s with
      ctl := { s.ctl with oracle := n }
      fw := { s.fw with measure := BitVec.ofNat 256 (natOfBe (sha256 (beBytes s.fw.measure.toNat 32 ++ digest ++ svn))) } })
  ∧ (∀ s : State, ∃ t : State, s.perform .corrected = .next t ∧ t.work = s.work ∧ t.mem = s.mem ∧ t.fw.elogCount = s.fw.elogCount + 1
      ∧ ∃ x ∈ t.repair.tests, ∃ e, t.fw.elog.getLast? = some e ∧ e.cls = Unit9.code x.1 ∧ e.unit = x.2 ∧ (x.1 = .matrix ∧ e.kind = 3 ∧ e.action = 1 ∨ x.1 ≠ .matrix ∧ e.kind = 1 ∧ e.action = 0))
  ∧ (∀ s : State, ∃ t : State, s.perform .translation = .next t ∧ t.work = s.work ∧ t.mem.hbm = s.mem.hbm ∧ t.mem.l2 = s.mem.l2
      ∧ ∀ x ∈ t.mem.l1, x ∈ s.mem.l1 ∨ ∃ y ∈ s.mem.l2, x.job = y.job ∧ x.page = y.page ∧ x.holder / 16 = y.holder)
  ∧ (∀ s, s.ctl.agenda = [] → ∃ s1 : State, (s1.enabled = [] ∧ step s = .next s1) ∨ ∃ (x : Todo) (n : Nat), x ∈ s1.enabled ∧
      step s = State.perform { s1 with ctl := { s1.ctl with oracle := n } } x)
  ∧ (∀ (t : State) (f x : Frag) w b, t.ctl.retired = true → f.handler = false → (∀ a ∈ t.fab.allowances, ∀ y ∈ a.waiters, y.1 ≠ f.id) →
      t.frag? f.id = some x → t.warp? x.warp = some w → t.block? w.block = some b →
      let u := (settledCtl t).notePacket f true
      (w.dctl.getLsbD 0 = true → x.run = .ready → t.afterIssue f = u.takeTrap x w b ⟨.step, x.mask, 0, 0⟩)
      ∧ (w.dctl.getLsbD 0 = false → t.afterIssue f = u))
  ∧ (∀ (t : State) (f : Frag), t.ctl.retired = false ∨ f.handler = true → t.afterIssue f = ((settledCtl t).notePacket f t.ctl.retired).leaveWaits f.id)
  ∧ (∀ (t : State) (f x : Frag), t.frag? f.id = some x → (∃ n, x.run = .parked .allowance n) → t.leaveWaits f.id = t)
  ∧ (∀ (t : State) (f : Frag), (∀ n x, t.frag? f.id = some x → x.run ≠ .parked .allowance n) → ∀ a ∈ (t.leaveWaits f.id).fab.allowances, ∀ y ∈ a.waiters, y.1 ≠ f.id
      ∨ t.frag? f.id = none)
  ∧ (∀ (t : State) (f : Frag) r, (t.notePacket f r).work = t.work ∧ (t.notePacket f r).mem = t.mem
      ∧ ∀ (x : Frag) p, x.id ≠ f.id → ((x.id, p) ∈ (t.notePacket f r).ctl.inPacket ↔ (x.id, p) ∈ t.ctl.inPacket))

/-- 08 R151, 09 R179, 11 R226 to R228, 18 R326, R331: BRU, ATOM, RED, REDM, PREQ, a trap that waits to be entered and an EMPTY_TIMEOUT come to their end:
there is a next state, in which the fragment stands behind its instruction, or at the handler. -/
def Obligations.Completions : Prop :=
  (∀ s f w b g, Runs s f w b g →
    let passes := fun i words => ∃ t x, exec i s = .next t ∧ t.ctl.retired = true ∧ t.frag? f.id = some x ∧ x.pc = onward f words ∧ x.mask = f.mask ∧ x.run = .ready
    (Drained s b → ∀ h (d : BitVec 6) (m : MemOp) (pl : Nat → Place), HasU b [m.a] → (m.ix = true → HasV b [m.b]) → d.toNat + regsOfWd m.wd ≤ b.kernel.vreg →
      Sound s (activeMask f h) (accessBytes m) pl →
      (Resolves s f w b g (activeMask f h) m true (accessBytes m) .both pteKy atomFmtBad pl →
        m.e.toNat + (if m.aop = 9 then 2 else 1) * (if m.wd = 3 then 2 else 1) ≤ b.kernel.vreg → passes (.atom h d m) 2)
      ∧ (Resolves s f w b g (activeMask f h) m true (accessBytes m) .write pteKy atomFmtBad pl → passes (.red h d m) 2)
      ∧ (Resolves s f w b g (activeMask f h) m true (accessBytes m) .redm pteKy (fun e => !redmFmt m.aop (pteFmt e)) pl → passes (.redm h d m) 2))
    ∧ (∀ h o, activeMask f h = 0 → passes (.bru h o) 1)
    ∧ (∀ h o, activeMask f h = f.mask → f.mask ≠ 0 → IsPacket b.kernel (ofs f b.kernel o) →
        ∃ t x, exec (.bru h o) s = .next t ∧ t.frag? f.id = some x ∧ x.pc = ofs f b.kernel o ∧ x.mask = f.mask)
    ∧ (∀ ch d q, HasU b [d] → s.queue? g.gid.queue = some q → q.preempt = true → passes (.preq ch d) 2))
  ∧ (∀ s f w b why, s.frag? f.id = some f → f.run = .atEntry why → s.warp? f.warp = some w → s.block? w.block = some b → b.run = .placed → b.saving = false →
      (∀ x ∈ s.work.frags, x.warp = w.id → x.id = f.id) → s.frozen w = false → w.dctl = 0 → w.tvec ≠ 0 → IsPacket b.kernel w.tvec →
      ∃ t x, exec (.trapEntry f.id) s = .next t ∧ t.frag? f.id = some x ∧ x.handler = true ∧ x.pc = w.tvec ∧ x.mask = f.mask ∧ x.run = .ready)
  ∧ (∀ s f w b g since h d m cf pipe s1, s.frag? f.id = some f → s.warp? f.warp = some w → s.block? w.block = some b → s.grid? b.grid = some g →
      b.run = .placed → f.run = .parked .fullEmpty since → 16777216 ≤ f.emptyWait + (s.cycle - since) →
      s.fetch g.job b.kernel f.pc = (.ok (.ldf h d m) cf pipe, s1) →
      let z := s1.dispatch { f with run := .ready, emptyWait := f.emptyWait + (s.cycle - since) } b.core (.ldf h d m) cf pipe
      ∀ f' u (off : Nat → Nat) l, Runs z f' w b g → Drained z b → HasU b [m.a] → (m.ix = true → HasV b [m.b]) → d.toNat + regsOfWd m.wd ≤ b.kernel.vreg → u ≠ .c →
      Resolves z f' w b g (activeMask f' h) m false (accessBytes m) .read noKeyRule noKeyRule (fun l => .buf b.id u (off l)) →
      l < 32 → (activeMask f' h).getLsbD l = true → b.isFull u (off l / 16) = false →
      f.handler = false → (∀ x ∈ s.work.frags, x.warp = w.id → x.id = f.id) → s.frozen w = false → w.dctl = 0 → w.tvec ≠ 0 → IsPacket b.kernel w.tvec →
      ∃ t x, exec (.emptyTimeout f.id) s = .next t ∧ t.frag? f.id = some x ∧ x.handler = true ∧ x.pc = w.tvec ∧ x.run = .ready)

/-- 05 R79 to R85: some words, written out from the encodings of the manual, decode to the instructions they stand for; reserved opcodes, a set
reserved bit and an extension word past the packet are refused. -/
def Obligations.DecodeWords : Prop :=
  Reads1 0x00000000 0 (.nop false)
  ∧ Reads1 0x81410518 0 (.iadd ⟨true, 2, false⟩ 4 5 6)
  ∧ Reads1 0x1720420C 0x0000000A (.icmp ⟨false, 1, false⟩ 1 2 3 true .lt)
  ∧ Reads1 0x1FE04001 0 (.iaddi ⟨false, 7, false⟩ 1 0 1)
  ∧ Reads1 0x3EE18038 0 (.fmovi ⟨false, 7, false⟩ 6 0x38)
  ∧ Reads1 0x1BE0C11D 0 (.plog ⟨false, 7, false⟩ 3 1 7 1)
  ∧ Reads1 0x1CE00000 0 (.vsrr ⟨false, 7, false⟩ 0 0)
  ∧ decodeWords 0x3F000000 0 = .error .reservedOpcode ∧ decodeWords 0x7F000000 0 = .error .reservedOpcode
  ∧ decodeWords 0x00000001 0 = .error .unusedField
  ∧ decodeSlot #v[0, 0, 0x1720420C] 2 = .error .extensionPastPacket

/-- 05 R79 to R85: every well-formed instruction of the encoding tables, with every operand at every value that its encoding takes, reads back
from its own words, whatever follows them in the packet. -/
def Obligations.EncodingRoundTrip : Prop :=
  ∀ (i : Instr) (x : Enc) (rest : List Word), i.enc = some x → i.wf = true → decodeSlot (packetOf (i.encode ++ rest)) 0 = .ok i

/-- 09 R181; 12 R252: every step keeps HBM in its one canonical form: addresses strictly rising, and no entry equal to what an unlisted address
reads as. -/
def Obligations.CanonicalKept : Prop :=
  ∀ s t, s.mem.hbm.wf = true → step s = .next t → t.mem.hbm.wf = true
end

