-- ==== Sys2Proof/Laws/Access.lean ====
section
/-! SUPPORT. A lane access that every lane may make, and one that some lane may not. -/

namespace Sys2Proof.Machine

open Sys2Proof

theorem worst_none {xs : List LaneAcc} (h : ∀ x ∈ xs, x.check.cause? = none) : worst xs = none := by
  unfold worst
  suffices ∀ acc, acc = none → xs.foldl (fun acc x => match x.check.cause?, acc with
    | some r, none => some r
    | some r, some a => if r.1 < a.1 then some r else acc
    | none, _ => acc) acc = none from this _ rfl
  induction xs with
  | nil => exact fun _ h => h
  | cons x xs ih =>
    intro acc ha
    rw [List.foldl_cons]
    refine ih (fun y hy => h y (List.mem_cons_of_mem _ hy)) _ ?_
    rw [h x List.mem_cons_self]; exact ha

/-- Where every lane's check passes, the access goes on with the places that the checks found. -/
theorem resolveBy_ok (c : Ctx) (bad : LaneOk → Bool) (whole : Option Mask) (same : Nat × Cause → Nat × Cause → Bool) (xs : List LaneAcc) (place : LaneAcc → Place)
    (leaf : LaneAcc → Option Leaf) (go : List LaneOk → Out) (h : ∀ x ∈ xs, x.check = .ok (place x) (leaf x)) :
    c.resolveBy bad whole same xs go = go (xs.map (fun x => ⟨x, place x, leaf x⟩)) := by
  unfold Ctx.resolveBy
  rw [worst_none (fun x hx => by rw [h x hx]; rfl)]
  have hw : xs.filter (fun x => x.check.row == 9) = [] := by
    rw [List.filter_eq_nil_iff]; intro x hx; rw [h x hx]; simp [Check.row]
  simp only [hw, List.isEmpty_nil, if_true, passed]
  congr 1
  clear hw
  induction xs with
  | nil => rfl
  | cons x xs ih => simp [List.filterMap_cons, h x (by simp)]; exact ih (fun y hy => h y (by simp [hy]))

/-- Stores to this device cost no flits, and nothing is paid for them. -/
theorem storeCosts_near {ps : List Piece} (h : ∀ x ∈ ps, ∀ d a, x.place ≠ .far d a) : storeCosts ps = [] := by
  unfold storeCosts
  rw [List.filterMap_eq_nil_iff.mpr (fun x hx => ?_)]
  · rfl
  · have := h x hx; revert this; cases x.place <;> simp

/-- What costs nothing is paid at once. -/
theorem pay_nil {s : State} {frag : Nat} (h : s.waitsNowhere frag = true) : s.pay frag [] = (s, true) := by
  have : s.keepWaits frag [] = s := by
    unfold State.keepWaits
    rw [List.filter_eq_nil_iff.mpr]
    · rfl
    · intro a ha
      simp only [State.waitsNowhere, List.all_eq_true, Bool.not_eq_true'] at h
      simp [h a ha]
  simp [State.pay, this]

end Sys2Proof.Machine
end

