-- ==== Sys2Proof/Laws/Memory.lean ====
section
/-! SUPPORT. Memory: reads after writes, and the canonical form that every write keeps (log 2). -/

namespace Sys2Proof.Machine

theorem Memory.get_nil (a : Nat) : Memory.get [] a = Memory.default := rfl

theorem Memory.get_cons (c : Nat × Byte) (m : Memory) (a : Nat) :
    Memory.get (c :: m) a = if c.1 = a then c.2 else Memory.get m a := rfl

/-- Below every listed address a memory reads as the default. -/
theorem Memory.get_of_lt {m : Memory} {lo a : Nat} (h : Memory.wfFrom lo m = true) (ha : a < lo) :
    Memory.get m a = Memory.default := by
  induction m generalizing lo with
  | nil => rfl
  | cons c m ih =>
      simp only [Memory.wfFrom, Bool.and_eq_true, decide_eq_true_eq] at h
      rw [Memory.get_cons, if_neg (by omega)]
      exact ih h.2 (by omega)

theorem Memory.wfFrom_mono {m : Memory} {lo lo' : Nat} (h : Memory.wfFrom lo m = true) (hl : lo' ≤ lo) :
    Memory.wfFrom lo' m = true := by
  cases m with
  | nil => rfl
  | cons c m =>
      simp only [Memory.wfFrom, Bool.and_eq_true, decide_eq_true_eq] at h ⊢
      exact ⟨⟨by omega, h.1.2⟩, h.2⟩

theorem Memory.wfFrom_put {m : Memory} {lo a : Nat} (b : Byte) (h : Memory.wfFrom lo m = true) (ha : lo ≤ a) :
    Memory.wfFrom lo (Memory.put m a b) = true := by
  induction m generalizing lo with
  | nil => by_cases hb : b = Memory.default <;> simp [Memory.put, Memory.wfFrom, hb, ha]
  | cons c m ih =>
      have h0 := h
      simp only [Memory.wfFrom, Bool.and_eq_true, decide_eq_true_eq] at h
      simp only [Memory.put]
      split
      · split
        · exact h0
        · rename_i hlt hb
          simp only [Memory.wfFrom, Bool.and_eq_true, decide_eq_true_eq]
          exact ⟨⟨ha, hb⟩, ⟨by omega, h.1.2⟩, h.2⟩
      · split
        · split
          · exact Memory.wfFrom_mono h.2 (by omega)
          · rename_i _ hac hb
            simp only [Memory.wfFrom, Bool.and_eq_true, decide_eq_true_eq]
            exact ⟨⟨ha, hb⟩, by rw [hac]; exact h.2⟩
        · simp only [Memory.wfFrom, Bool.and_eq_true, decide_eq_true_eq]
          exact ⟨h.1, ih h.2 (by omega)⟩

/-- A write of one byte keeps the canonical form. -/
theorem Memory.wf_put {m : Memory} (a : Nat) (b : Byte) (h : m.wf = true) : (m.put a b).wf = true :=
  Memory.wfFrom_put b h (Nat.zero_le a)

/-- A write of a run of bytes keeps the canonical form. -/
theorem Memory.wf_putN {m : Memory} (a : Nat) (bs : List Byte) (h : m.wf = true) : (m.putN a bs).wf = true := by
  induction bs generalizing m a with
  | nil => exact h
  | cons b bs ih => exact ih (a + 1) (Memory.wf_put a b h)

theorem Memory.wf_nil : Memory.wf [] = true := rfl

/-- Entries dropped by address leave the canonical form. -/
theorem Memory.wfFrom_filter {m : Memory} {lo : Nat} (p : Nat × Byte → Bool) (h : Memory.wfFrom lo m = true) :
    Memory.wfFrom lo (m.filter p) = true := by
  induction m generalizing lo with
  | nil => rfl
  | cons c m ih =>
      simp only [Memory.wfFrom, Bool.and_eq_true, decide_eq_true_eq] at h
      by_cases hp : p c = true
      · rw [List.filter_cons_of_pos hp]
        simp only [Memory.wfFrom, Bool.and_eq_true, decide_eq_true_eq]
        exact ⟨h.1, ih h.2⟩
      · rw [List.filter_cons_of_neg hp]
        exact Memory.wfFrom_mono (ih h.2) (by omega)

theorem Memory.wf_filter {m : Memory} (p : Nat × Byte → Bool) (h : m.wf = true) : Memory.wf (m.filter p) = true :=
  Memory.wfFrom_filter p h

/-- A read after a write of the same byte. -/
theorem Memory.get_put {m : Memory} (a : Nat) (b : Byte) (h : m.wf = true) : (m.put a b).get a = b := by
  have key : ∀ {lo}, Memory.wfFrom lo m = true → lo ≤ a → (m.put a b).get a = b := by
    induction m with
    | nil => intro lo _ _; by_cases hb : b = Memory.default <;> simp [Memory.put, Memory.get, hb]
    | cons c m ih =>
        intro lo h ha
        simp only [Memory.wfFrom, Bool.and_eq_true, decide_eq_true_eq] at h
        simp only [Memory.put]
        split
        · split
          · rename_i hlt hb
            rw [Memory.get_cons, if_neg (by omega), hb]
            exact Memory.get_of_lt h.2 (by omega)
          · rw [Memory.get_cons, if_pos rfl]
        · split
          · split
            · rename_i _ hac hb
              rw [hb]
              exact Memory.get_of_lt h.2 (by omega)
            · rw [Memory.get_cons, if_pos rfl]
          · rw [Memory.get_cons, if_neg (by omega)]
            exact ih (Memory.wfFrom_mono h.2 (Nat.zero_le _)) h.2 (by omega)
  exact key h (Nat.zero_le a)

/-- A write of one byte leaves every other byte. -/
theorem Memory.get_put_ne {m : Memory} {a a' : Nat} (b : Byte) (hne : a' ≠ a) : (m.put a b).get a' = m.get a' := by
  induction m with
  | nil => by_cases hb : b = Memory.default <;> simp [Memory.put, Memory.get, hb, Ne.symm hne]
  | cons c m ih =>
      simp only [Memory.put]
      split
      · split
        · rfl
        · rw [Memory.get_cons, if_neg (Ne.symm hne)]
      · split
        · split
          · rename_i _ hac _
            rw [Memory.get_cons, if_neg (by omega)]
          · rename_i _ hac _
            rw [Memory.get_cons, if_neg (Ne.symm hne), Memory.get_cons, if_neg (by omega)]
        · rw [Memory.get_cons, Memory.get_cons, ih]

/-- A write of a run leaves the bytes outside it. -/
theorem Memory.get_putN_out {m : Memory} {a a' : Nat} (bs : List Byte) (h : a' < a ∨ a + bs.length ≤ a') :
    (m.putN a bs).get a' = m.get a' := by
  induction bs generalizing m a with
  | nil => rfl
  | cons b bs ih =>
      simp only [List.length_cons] at h
      rw [Memory.putN, ih (by omega), Memory.get_put_ne b (by omega)]

/-- A read after a write of a run that covers it. -/
theorem Memory.get_putN_in {m : Memory} {a : Nat} (bs : List Byte) (i : Nat) (hi : i < bs.length) (h : m.wf = true) :
    (m.putN a bs).get (a + i) = bs.getD i 0 := by
  induction bs generalizing m a i with
  | nil => simp at hi
  | cons b bs ih =>
      cases i with
      | zero =>
          rw [Memory.putN, Memory.get_putN_out bs (by omega)]
          exact Memory.get_put a b h
      | succ i =>
          simp only [List.length_cons] at hi
          rw [Memory.putN, show a + (i + 1) = a + 1 + i by omega, ih i (by omega) (Memory.wf_put a b h)]
          rfl

theorem Memory.length_getN (m : Memory) (a n : Nat) : (m.getN a n).length = n := by
  induction n generalizing a with
  | zero => rfl
  | succ n ih => simp [Memory.getN, ih]

theorem Memory.getN_congr {m m' : Memory} {a n : Nat} (h : ∀ i, i < n → m.get (a + i) = m'.get (a + i)) :
    m.getN a n = m'.getN a n := by
  induction n generalizing a with
  | zero => rfl
  | succ n ih =>
      simp only [Memory.getN]
      rw [show m.get a = m'.get a from h 0 (by omega)]
      rw [ih (fun i hi => by rw [show a + 1 + i = a + (i + 1) by omega]; exact h (i + 1) (by omega))]

/-- A run that is written reads back. -/
theorem Memory.getN_putN {m : Memory} (a : Nat) (bs : List Byte) (h : m.wf = true) :
    (m.putN a bs).getN a bs.length = bs := by
  induction bs generalizing m a with
  | nil => rfl
  | cons b bs ih =>
      rw [List.length_cons, Memory.getN, Memory.putN, Memory.get_putN_out bs (by omega), Memory.get_put a b h,
        ih (a + 1) (Memory.wf_put a b h)]

/-- Two memories in canonical form that read alike are the same data. -/
theorem Memory.ext_of_get {m m' : Memory} (h : m.wf = true) (h' : m'.wf = true) (he : ∀ a, m.get a = m'.get a) : m = m' := by
  have key : ∀ {m m' : Memory} {lo}, Memory.wfFrom lo m = true → Memory.wfFrom lo m' = true →
      (∀ a, lo ≤ a → m.get a = m'.get a) → m = m' := by
    intro m
    induction m with
    | nil =>
        intro m' lo _ h' he
        cases m' with
        | nil => rfl
        | cons c m' =>
            simp only [Memory.wfFrom, Bool.and_eq_true, decide_eq_true_eq] at h'
            have := he c.1 h'.1.1
            rw [Memory.get_cons, if_pos rfl] at this
            exact absurd this.symm h'.1.2
    | cons c m ih =>
        intro m' lo h h' he
        simp only [Memory.wfFrom, Bool.and_eq_true, decide_eq_true_eq] at h
        cases m' with
        | nil =>
            have := he c.1 h.1.1
            rw [Memory.get_cons, if_pos rfl] at this
            exact absurd this h.1.2
        | cons c' m' =>
            simp only [Memory.wfFrom, Bool.and_eq_true, decide_eq_true_eq] at h'
            have hk : c.1 = c'.1 := by
              rcases Nat.lt_trichotomy c.1 c'.1 with hlt | heq | hgt
              · have := he c.1 h.1.1
                rw [Memory.get_cons, if_pos rfl, Memory.get_cons, if_neg (by omega), Memory.get_of_lt h'.2 (by omega)] at this
                exact absurd this h.1.2
              · exact heq
              · have := he c'.1 h'.1.1
                rw [Memory.get_cons, if_neg (by omega), Memory.get_of_lt h.2 (by omega), Memory.get_cons, if_pos rfl] at this
                exact absurd this.symm h'.1.2
            have hv : c.2 = c'.2 := by
              have := he c.1 h.1.1
              rwa [Memory.get_cons, if_pos rfl, Memory.get_cons, if_pos hk.symm] at this
            have ht : m = m' := ih h.2 (by rw [hk]; exact h'.2) (fun a ha => by
              have := he a (by omega)
              rwa [Memory.get_cons, if_neg (by omega), Memory.get_cons, if_neg (by omega)] at this)
            rw [ht, Prod.ext hk hv]
  exact key h h' (fun a _ => he a)

end Sys2Proof.Machine
end

