-- ==== Sys2Proof/Laws/Canon.lean ====
section
/-! SUPPORT. Main memory keeps its canonical form (log 2): the operations of the machine, one lemma each. `Canon` says the form of a
state, `CanonAfter` of an outcome that is a next state, `CanonFw` of a firmware answer that is done. -/

namespace Sys2Proof.Machine

open Sys2Proof

/-- Main memory is in its canonical form. -/
def Canon (s : State) : Prop := s.mem.hbm.wf = true

/-- An outcome that is a next state leaves main memory in its canonical form. -/
def CanonAfter (o : Out) : Prop := match o with | .next t => Canon t | _ => True

/-- A firmware answer that is done leaves main memory in its canonical form. -/
def CanonFw (k : FwAnswer) : Prop := match k with | .done t _ _ => Canon t | _ => True

theorem canonAfter_next {t : State} (h : Canon t) : CanonAfter (.next t) := h

theorem canonAfter_fault (r : Fault) : CanonAfter (.fault r) := trivial

theorem canonAfter_refused (r : Refusal) : CanonAfter (.refused r) := trivial

theorem canonAfter_of {o : Out} {t : State} (h : CanonAfter o) (e : o = .next t) : Canon t := by rw [e] at h; exact h

theorem ite_canonAfter {p : Bool} {x y : Out} (hx : CanonAfter x) (hy : CanonAfter y) : CanonAfter (if p = true then x else y) := by
  split <;> assumption

theorem canonFw_done {t : State} (h : Canon t) (b : List Byte) (n : Nat) : CanonFw (.done t b n) := h

theorem canonFw_refused : CanonFw .refused := trivial

theorem canonFw_invalid : CanonFw .invalid := trivial

theorem canonFw_wait : CanonFw .wait := trivial

theorem foldl_canon {α : Type} {g : State → α → State} {l : List α} {s : State} (hg : ∀ s x, Canon s → Canon (g s x)) (h : Canon s) :
    Canon (l.foldl g s) := by
  induction l generalizing s with
  | nil => exact h
  | cons x l ih => exact ih (hg s x h)

theorem foldl_canon_snd {α β : Type} {g : β × State → α → β × State} {l : List α} {r : β × State}
    (hg : ∀ (r : β × State) x, Canon r.2 → Canon (g r x).2) (h : Canon r.2) : Canon (l.foldl g r).2 := by
  induction l generalizing r with
  | nil => exact h
  | cons x l ih => exact ih (hg r x h)

theorem foldl_canon_fst {α β : Type} {g : State × β → α → State × β} {l : List α} {r : State × β}
    (hg : ∀ (r : State × β) x, Canon r.1 → Canon (g r x).1) (h : Canon r.1) : Canon (l.foldl g r).1 := by
  induction l generalizing r with
  | nil => exact h
  | cons x l ih => exact ih (hg r x h)

theorem State.reset_canon  : Canon (State.reset) := by
  rfl

theorem State.setFrag_canon (s : State) (f : Frag) (hs : Canon s) : Canon (State.setFrag s f) := by
  unfold State.setFrag
  try dsimp only
  repeat' first
    | with_reducible assumption | intro _ | split | assumption

theorem State.setWarp_canon (s : State) (w : Warp) (hs : Canon s) : Canon (State.setWarp s w) := by
  unfold State.setWarp
  try dsimp only
  repeat' first
    | with_reducible assumption | intro _ | split | assumption

theorem State.setBlock_canon (s : State) (b : Block) (hs : Canon s) : Canon (State.setBlock s b) := by
  unfold State.setBlock
  try dsimp only
  repeat' first
    | with_reducible assumption | intro _ | split | assumption

theorem State.setGrid_canon (s : State) (g : Grid) (hs : Canon s) : Canon (State.setGrid s g) := by
  unfold State.setGrid
  try dsimp only
  repeat' first
    | with_reducible assumption | intro _ | split | assumption

theorem State.setJob_canon (s : State) (j : Job) (hs : Canon s) : Canon (State.setJob s j) := by
  unfold State.setJob
  try dsimp only
  repeat' first
    | with_reducible assumption | intro _ | split | assumption

theorem State.setQueue_canon (s : State) (q : Queue) (hs : Canon s) : Canon (State.setQueue s q) := by
  unfold State.setQueue
  try dsimp only
  repeat' first
    | with_reducible assumption | intro _ | split | assumption

theorem State.setPan_canon (s : State) (p : Pan) (hs : Canon s) : Canon (State.setPan s p) := by
  unfold State.setPan
  try dsimp only
  repeat' first
    | with_reducible assumption | intro _ | split | assumption

theorem State.setFrame_canon (s : State) (x : FullFrame) (hs : Canon s) : Canon (State.setFrame s x) := by
  unfold State.setFrame
  try dsimp only
  repeat' first
    | with_reducible assumption | intro _ | split | assumption

theorem State.modBlock_canon (s : State) (id : ℕ) (g : Block → Block) (hs : Canon s) : Canon (State.modBlock s id g) := by
  unfold State.modBlock
  try dsimp only
  repeat' first
    | with_reducible assumption | intro _ | split | assumption

theorem State.modWarp_canon (s : State) (id : ℕ) (g : Warp → Warp) (hs : Canon s) : Canon (State.modWarp s id g) := by
  unfold State.modWarp
  try dsimp only
  repeat' first
    | with_reducible assumption | intro _ | split | assumption

theorem State.modFrag_canon (s : State) (id : ℕ) (g : Frag → Frag) (hs : Canon s) : Canon (State.modFrag s id g) := by
  unfold State.modFrag
  try dsimp only
  repeat' first
    | with_reducible assumption | intro _ | split | assumption

theorem State.modGrid_canon (s : State) (key : ℕ) (g : Grid → Grid) (hs : Canon s) : Canon (State.modGrid s key g) := by
  unfold State.modGrid
  try dsimp only
  repeat' first
    | with_reducible assumption | intro _ | split | assumption

theorem State.modSync_canon (s : State) (g : Sync → Sync) (hs : Canon s) : Canon (State.modSync s g) := by
  unfold State.modSync
  try dsimp only
  repeat' first
    | with_reducible assumption | intro _ | split | assumption

theorem State.modMem_canon (s : State) (g : MemSys → MemSys) (hs : Canon s) (hg : ∀ y : MemSys, y.hbm.wf = true → (g y).hbm.wf = true) :
    Canon (State.modMem s g) := by
  exact hg s.mem hs

theorem State.modWork_canon (s : State) (g : Work → Work) (hs : Canon s) : Canon (State.modWork s g) := by
  unfold State.modWork
  try dsimp only
  repeat' first
    | with_reducible assumption | intro _ | split | assumption

theorem State.modFab_canon (s : State) (g : Fabric → Fabric) (hs : Canon s) : Canon (State.modFab s g) := by
  unfold State.modFab
  try dsimp only
  repeat' first
    | with_reducible assumption | intro _ | split | assumption

theorem State.modColl_canon (s : State) (g : Collectives → Collectives) (hs : Canon s) : Canon (State.modColl s g) := by
  unfold State.modColl
  try dsimp only
  repeat' first
    | with_reducible assumption | intro _ | split | assumption

theorem State.modFw_canon (s : State) (g : Firmware → Firmware) (hs : Canon s) : Canon (State.modFw s g) := by
  unfold State.modFw
  try dsimp only
  repeat' first
    | with_reducible assumption | intro _ | split | assumption

theorem State.modPower_canon (s : State) (g : Power → Power) (hs : Canon s) : Canon (State.modPower s g) := by
  unfold State.modPower
  try dsimp only
  repeat' first
    | with_reducible assumption | intro _ | split | assumption

theorem State.modRepair_canon (s : State) (g : Repair → Repair) (hs : Canon s) : Canon (State.modRepair s g) := by
  unfold State.modRepair
  try dsimp only
  repeat' first
    | with_reducible assumption | intro _ | split | assumption

theorem State.fresh_canon (s : State) (hs : Canon s) : Canon (State.fresh s).2 := by
  unfold State.fresh
  try dsimp only
  repeat' first
    | with_reducible assumption | intro _ | split | assumption

theorem State.fresh_canon_eq {x__ : _} {t__ : State} {s : State} (hs : Canon s) (h__ : (State.fresh s) = (x__, t__)) : Canon t__ := by
  have := State.fresh_canon s hs; rw [h__] at this; exact this

theorem State.draw_canon (s : State) (hs : Canon s) : Canon (State.draw s).2 := by
  unfold State.draw
  try dsimp only
  repeat' first
    | with_reducible assumption | intro _ | split | assumption

theorem State.draw_canon_eq {x__ : _} {t__ : State} {s : State} (hs : Canon s) (h__ : (State.draw s) = (x__, t__)) : Canon t__ := by
  have := State.draw_canon s hs; rw [h__] at this; exact this

theorem State.drawN_canon (s : State) (n : ℕ) (hs : Canon s) : Canon (State.drawN s n).2 := by
  unfold State.drawN
  try dsimp only
  repeat' first
    | with_reducible assumption | intro _ | split | assumption

theorem State.drawN_canon_eq {x__ : _} {t__ : State} {s : State} {n : ℕ} (hs : Canon s) (h__ : (State.drawN s n) = (x__, t__)) : Canon t__
    := by
  have := State.drawN_canon s n hs; rw [h__] at this; exact this

theorem State.soil_canon (s : State) (b : ℕ) (hs : Canon s) : Canon (State.soil s b) := by
  unfold State.soil
  try dsimp only
  repeat' first
    | with_reducible (first
        | assumption | apply State.modBlock_canon)


theorem State.putAt_canon (s : State) (p : Place) (bs : List Byte) (hs : Canon s) : Canon (State.putAt s p bs) := by
  unfold State.putAt
  split
  · exact Memory.wf_putN _ _ hs
  · split
    · exact State.setFrame_canon _ _ hs
    · exact hs
  · exact State.modBlock_canon _ _ _ hs
  · exact State.modWarp_canon _ _ _ hs
  · exact hs
  · exact hs

theorem State.clearParks_canon (s : State) (ids : List ℕ) (hs : Canon s) : Canon (State.clearParks s ids) := by
  unfold State.clearParks
  try dsimp only
  repeat' first
    | with_reducible (first
        | assumption | apply State.modWork_canon)


theorem State.wake_canon (s : State) (p : Place) (n : ℕ) (hs : Canon s) : Canon (State.wake s p n) := by
  unfold State.wake
  try dsimp only
  repeat' first
    | with_reducible (first
        | assumption | apply State.clearParks_canon | apply State.modSync_canon)
    | intro _ | split

theorem State.orderByte_canon (s : State) (p : Place) (b : Byte) (bound : Option HistStore) (hs : Canon s) : Canon (State.orderByte s p b
    bound) := by
  unfold State.orderByte
  try dsimp only
  repeat' first
    | with_reducible (first
        | assumption | apply State.modSync_canon)


theorem State.modFramePoison_canon (s : State) (j : BitVec 16) (g : DWord) (k : List ℕ → List ℕ) (hs : Canon s) : Canon
    (State.modFramePoison s j g k) := by
  unfold State.modFramePoison
  try dsimp only
  repeat' first
    | with_reducible (first
        | assumption | apply State.modMem_canon)
    | intro _

theorem State.clearPoison_canon (s : State) (p : Place) (n : ℕ) (hs : Canon s) : Canon (State.clearPoison s p n) := by
  unfold State.clearPoison
  try dsimp only
  repeat' first
    | with_reducible (first
        | assumption | apply State.modFramePoison_canon | apply State.modMem_canon | apply State.modBlock_canon)
    | intro _ | split

theorem State.addPoison_canon (s : State) (p : Place) (n : ℕ) (hs : Canon s) : Canon (State.addPoison s p n) := by
  unfold State.addPoison
  try dsimp only
  repeat' first
    | with_reducible (first
        | assumption | apply State.modFramePoison_canon | apply State.modMem_canon | apply State.modBlock_canon)
    | intro _ | split

theorem State.clearWritten_canon (s : State) (ps : List (Place × ℕ)) (hs : Canon s) : Canon (State.clearWritten s ps) := by
  unfold State.clearWritten
  try dsimp only
  repeat' first
    | with_reducible (first
        | assumption | apply State.clearPoison_canon | apply foldl_canon)
    | intro _ | split

theorem State.noteHidden_canon (s : State) (p : Place) (bs : List Byte) (hs : Canon s) : Canon (State.noteHidden s p bs) := by
  unfold State.noteHidden
  try dsimp only
  repeat' first
    | with_reducible (first
        | assumption | apply State.modSync_canon)
    | intro _ | split

theorem State.setBytes_canon (s : State) (p : Place) (bs : List Byte) (hs : Canon s) : Canon (State.setBytes s p bs) := by
  unfold State.setBytes
  try dsimp only
  repeat' first
    | with_reducible (first
        | assumption | apply State.clearPoison_canon | apply State.orderByte_canon | apply State.wake_canon
        | apply State.putAt_canon | apply foldl_canon)
    | intro _ | split

theorem State.performAt_canon (s : State) (p : Place) (bs : List Byte) (hs : Canon s) : Canon (State.performAt s p bs) := by
  unfold State.performAt
  try dsimp only
  repeat' first
    | with_reducible (first
        | assumption | apply State.setBytes_canon | apply State.noteHidden_canon)


theorem State.forgetEarly_canon (s : State) (ths : List ℕ) (hs : Canon s) : Canon (State.forgetEarly s ths) := by
  unfold State.forgetEarly
  try dsimp only
  repeat' first
    | with_reducible (first
        | assumption | apply State.modSync_canon)


theorem State.forgetAt_canon (s : State) (ths : List ℕ) (p : Place) (n : ℕ) (hs : Canon s) : Canon (State.forgetAt s ths p n) := by
  unfold State.forgetAt
  try dsimp only
  repeat' first
    | with_reducible (first
        | assumption | apply State.modSync_canon)


theorem State.passBar_canon (s : State) (blocks : List ℕ) (key : BarKey) (hs : Canon s) : Canon (State.passBar s blocks key) := by
  unfold State.passBar
  try dsimp only
  repeat' first
    | with_reducible (first
        | assumption | apply State.modWork_canon)


theorem State.putPhase_canon (s : State) (b : Block) (key : BarKey) (p : Phase) (hs : Canon s) : Canon (State.putPhase s b key p) := by
  unfold State.putPhase
  try dsimp only
  repeat' first
    | with_reducible (first
        | assumption | apply State.modWork_canon | apply State.modBlock_canon)
    | intro _ | split

theorem State.completeBar_canon (s : State) (b : Block) (key : BarKey) (hs : Canon s) : Canon (State.completeBar s b key) := by
  unfold State.completeBar
  try dsimp only
  repeat' first
    | with_reducible (first
        | assumption | apply State.putPhase_canon | apply State.passBar_canon)
    | intro _ | split

theorem State.checkBars_canon (s : State) (b : ℕ) (hs : Canon s) : Canon (State.checkBars s b) := by
  unfold State.checkBars
  try dsimp only
  repeat' first
    | with_reducible (first
        | assumption | apply State.completeBar_canon | apply foldl_canon)
    | intro _ | split

theorem State.checkGangBars_canon (s : State) (b : Block) (hs : Canon s) : Canon (State.checkGangBars s b) := by
  unfold State.checkGangBars
  try dsimp only
  repeat' first
    | with_reducible (first
        | assumption | apply State.completeBar_canon | apply foldl_canon)
    | intro _ | split

theorem State.wakeReclaim_canon (s : State) (hs : Canon s) : Canon (State.wakeReclaim s) := by
  unfold State.wakeReclaim
  try dsimp only
  repeat' first
    | with_reducible (first
        | assumption | apply State.modWork_canon)


theorem State.clearCovered_canon (s : State) (dev : BitVec 11) (hs : Canon s) : Canon (State.clearCovered s dev) := by
  unfold State.clearCovered
  try dsimp only
  repeat' first
    | with_reducible (first
        | assumption | apply State.modFrag_canon)
    | intro _ | split

theorem State.forgetWaits_canon (s : State) (ids : List ℕ) (hs : Canon s) : Canon (State.forgetWaits s ids) := by
  unfold State.forgetWaits
  try dsimp only
  repeat' first
    | with_reducible (first
        | assumption | apply State.clearCovered_canon | apply State.modFab_canon | apply foldl_canon)
    | intro _ | split

theorem State.refund_canon (s : State) (frag : ℕ) (hs : Canon s) : Canon (State.refund s frag) := by
  unfold State.refund
  try dsimp only
  repeat' first
    | with_reducible (first
        | assumption | apply State.modFab_canon | apply State.modFrag_canon)
    | intro _ | split

theorem State.dropFrags_canon (s : State) (ids : List ℕ) (hs : Canon s) : Canon (State.dropFrags s ids) := by
  unfold State.dropFrags
  try dsimp only
  repeat' first
    | with_reducible (first
        | assumption | apply State.refund_canon | apply State.forgetWaits_canon | apply State.modFab_canon
        | apply State.modWork_canon | apply State.modSync_canon | apply foldl_canon)


theorem State.dropBound_canon (s : State) (b : ℕ) (hs : Canon s) : Canon (State.dropBound s b) := by
  unfold State.dropBound
  try dsimp only
  repeat' first
    | with_reducible (first
        | assumption | apply State.putAt_canon | apply State.modSync_canon | apply foldl_canon)
    | intro _

theorem State.endThreads_canon (s : State) (b : ℕ) (hs : Canon s) : Canon (State.endThreads s b) := by
  unfold State.endThreads
  try dsimp only
  repeat' first
    | with_reducible (first
        | assumption | apply State.modWork_canon)


theorem State.killBlock_canon (s : State) (b : ℕ) (cause : BitVec 8) (hs : Canon s) : Canon (State.killBlock s b cause) := by
  unfold State.killBlock
  try dsimp only
  repeat' first
    | with_reducible (first
        | assumption | apply State.endThreads_canon | apply State.dropBound_canon | apply State.dropFrags_canon
        | apply State.checkGangBars_canon | apply State.modSync_canon | apply State.modBlock_canon)
    | intro _ | split

theorem State.dropEngine_canon (s : State) (b : ℕ) (hs : Canon s) : Canon (State.dropEngine s b) := by
  unfold State.dropEngine
  try dsimp only
  repeat' first
    | with_reducible (first
        | assumption | apply State.modFab_canon)


theorem State.rollOne_canon (s : State) (x : Block) (cluster : ℕ) (hs : Canon s) : Canon (State.rollOne s x cluster) := by
  unfold State.rollOne
  try dsimp only
  repeat' first
    | with_reducible (first
        | assumption | apply State.dropEngine_canon | apply State.dropBound_canon | apply State.dropFrags_canon
        | apply State.wakeReclaim_canon | apply State.modWork_canon | apply State.modSync_canon | apply State.modGrid_canon)


theorem State.rollback_canon (s : State) (b : Block) (hs : Canon s) : Canon (State.rollback s b) := by
  unfold State.rollback
  try dsimp only
  repeat' first
    | with_reducible (first
        | assumption | apply State.rollOne_canon | apply foldl_canon)
    | intro _

theorem State.enterTrap_canon (s : State) (f : Frag) (w : Warp) (b : Block) (t : TrapInfo) (hs : Canon s) : Canon (State.enterTrap s f w b
    t) := by
  unfold State.enterTrap
  try dsimp only
  repeat' first
    | with_reducible (first
        | assumption | apply State.killBlock_canon | apply State.modFw_canon | apply State.setWarp_canon
        | apply State.setFrag_canon)
    | intro _ | split

theorem State.takeTrap_canon (s : State) (f : Frag) (w : Warp) (b : Block) (t : TrapInfo) (hs : Canon s) : Canon (State.takeTrap s f w b
    t) := by
  unfold State.takeTrap
  try dsimp only
  repeat' first
    | with_reducible (first
        | assumption | apply State.enterTrap_canon | apply State.killBlock_canon | apply State.refund_canon
        | apply State.forgetEarly_canon)
    | intro _ | split

theorem State.logError_canon (s : State) (cls : BitVec 8) (kind : BitVec 8) (action : BitVec 8) (unit : BitVec 32) (who : Option Block)
    (hs : Canon s) : Canon (State.logError s cls kind action unit who) := by
  unfold State.logError
  try dsimp only
  repeat' first
    | with_reducible (first
        | assumption | apply State.modFw_canon)


theorem State.startTest_canon (s : State) (cls : Unit9) (unit : BitVec 32) (hs : Canon s) : Canon (State.startTest s cls unit) := by
  unfold State.startTest
  try dsimp only
  repeat' first
    | with_reducible (first
        | assumption | apply State.modRepair_canon)


theorem State.consume_canon (s : State) (f : Frag) (w : Warp) (b : Block) (u : Unit9 × BitVec 32) (lanes : Mask) (addr : DWord) (info :
    DWord) (hs : Canon s) : Canon (State.consume s f w b u lanes addr info) := by
  unfold State.consume
  try dsimp only
  repeat' first
    | with_reducible (first
        | assumption | apply State.startTest_canon | apply State.logError_canon | apply State.takeTrap_canon
        | apply State.rollback_canon)
    | intro _ | split

theorem Ctx.trapWith_canon (c : Ctx) (cause : Cause) (lanes : Mask) (addr : DWord) (info : DWord) (hc : Canon c.s) : CanonAfter
    (Ctx.trapWith c cause lanes addr info) := by
  unfold Ctx.trapWith
  try dsimp only
  repeat' first
    | with_reducible (first
        | assumption | apply State.takeTrap_canon | apply canonAfter_next)


theorem Ctx.trap_canon (c : Ctx) (cause : Cause) (lanes : Mask) (hc : Canon c.s) : CanonAfter (Ctx.trap c cause lanes) := by
  unfold Ctx.trap
  try dsimp only
  repeat' first
    | with_reducible (first
        | assumption | apply Ctx.trapWith_canon)


theorem Ctx.parkIn_canon (c : Ctx) (s : State) (why : Park) (hc : Canon c.s) (hs : Canon s) : CanonAfter (Ctx.parkIn c s why) := by
  unfold Ctx.parkIn
  try dsimp only
  repeat' first
    | with_reducible (first
        | assumption | apply State.forgetEarly_canon | apply State.setFrag_canon | apply canonAfter_next)
    | intro _ | split

theorem Ctx.park_canon (c : Ctx) (why : Park) (hc : Canon c.s) : CanonAfter (Ctx.park c why) := by
  unfold Ctx.park
  try dsimp only
  repeat' first
    | with_reducible (first
        | assumption | apply Ctx.parkIn_canon)


theorem Ctx.waitIn_canon (x : Ctx) (s : State) (hx : Canon x.s) (hs : Canon s) : CanonAfter (Ctx.waitIn x s) := by
  unfold Ctx.waitIn
  try dsimp only
  repeat' first
    | with_reducible (first
        | assumption | apply canonAfter_next)


theorem State.markRetired_canon (s : State) (hs : Canon s) : Canon (State.markRetired s) := by
  unfold State.markRetired
  try dsimp only
  repeat' first
    | with_reducible assumption | intro _ | split | assumption

theorem Ctx.retireIn_canon (c : Ctx) (s : State) (f : Frag) (hc : Canon c.s) (hs : Canon s) : CanonAfter (Ctx.retireIn c s f) := by
  unfold Ctx.retireIn
  try dsimp only
  repeat' first
    | with_reducible (first
        | assumption | apply State.markRetired_canon | apply State.setFrag_canon | apply canonAfter_next)


theorem Ctx.retire_canon (c : Ctx) (f : Frag) (hc : Canon c.s) : CanonAfter (Ctx.retire c f) := by
  unfold Ctx.retire
  try dsimp only
  repeat' first
    | with_reducible (first
        | assumption | apply Ctx.retireIn_canon)


theorem Ctx.consumed_canon (c : Ctx) (reads : Bool) (hc : Canon c.s) : Canon (Ctx.consumed c reads) := by
  unfold Ctx.consumed
  try dsimp only
  repeat' first
    | with_reducible (first
        | assumption | apply State.consume_canon)
    | intro _ | split | assumption

theorem issueWhen_canon (s : State) (words : ℕ) (h : Head) (dst : Dst) (uses : List Use) (legal : Ctx → Bool) (k : Ctx → Out) (hs : Canon
    s) (hk : ∀ c : Ctx, Canon c.s → CanonAfter (k c)) : CanonAfter (issueWhen s words h dst uses legal k) := by
  unfold issueWhen
  try dsimp only
  repeat' first
    | with_reducible (first
        | assumption | apply hk | apply Ctx.consumed_canon | apply Ctx.trap_canon | apply canonAfter_next
        | apply canonAfter_fault)
    | intro _ | split

theorem issue_canon (s : State) (words : ℕ) (h : Head) (dst : Dst) (uses : List Use) (k : Ctx → Out) (hs : Canon s) (hk : ∀ c : Ctx, Canon
    c.s → CanonAfter (k c)) : CanonAfter (issue s words h dst uses k) := by
  unfold issue
  try dsimp only
  repeat' first
    | with_reducible (first
        | assumption | apply hk | apply issueWhen_canon)


theorem issueU_canon (s : State) (words : ℕ) (ch : Bool) (dst : Dst) (uses : List Use) (k : Ctx → Out) (hs : Canon s) (hk : ∀ c : Ctx,
    Canon c.s → CanonAfter (k c)) : CanonAfter (issueU s words ch dst uses k) := by
  unfold issueU
  try dsimp only
  repeat' first
    | with_reducible (first
        | assumption | apply hk | apply issue_canon)


theorem Ctx.vec2_canon (c : Ctx) (d : BitVec 6) (a : BitVec 6) (b : BitVec 6) (g : Word → Word → Word) (hc : Canon c.s) : CanonAfter
    (Ctx.vec2 c d a b g) := by
  unfold Ctx.vec2
  try dsimp only
  repeat' first
    | with_reducible (first
        | assumption | apply Ctx.retire_canon)


theorem Ctx.vec1_canon (c : Ctx) (d : BitVec 6) (a : BitVec 6) (g : Word → Word) (hc : Canon c.s) : CanonAfter (Ctx.vec1 c d a g) := by
  unfold Ctx.vec1
  try dsimp only
  repeat' first
    | with_reducible (first
        | assumption | apply Ctx.retire_canon)


theorem Ctx.uniform_canon (c : Ctx) (d : BitVec 6) (x : DWord) (hc : Canon c.s) : CanonAfter (Ctx.uniform c d x) := by
  unfold Ctx.uniform
  try dsimp only
  repeat' first
    | with_reducible (first
        | assumption | apply Ctx.retire_canon)


theorem Ctx.predicate_canon (c : Ctx) (d : BitVec 3) (p : ℕ → Bool) (hc : Canon c.s) : CanonAfter (Ctx.predicate c d p) := by
  unfold Ctx.predicate
  try dsimp only
  repeat' first
    | with_reducible (first
        | assumption | apply Ctx.retire_canon)


theorem State.putPte_canon (s : State) (pa : ℕ) (e : BitVec 128) (hs : Canon s) : Canon (State.putPte s pa e) := by
  exact State.modMem_canon _ _ hs (fun _ hy => Memory.wf_putN _ _ hy)

theorem State.dropTranslations_canon (s : State) (p : BitVec 16 → DWord → Bool) (hs : Canon s) : Canon (State.dropTranslations s p) := by
  unfold State.dropTranslations
  try dsimp only
  repeat' first
    | with_reducible (first
        | assumption | apply State.modMem_canon)
    | intro _

theorem State.forgetPage_canon (s : State) (job : BitVec 16) (page : DWord) (hs : Canon s) : Canon (State.forgetPage s job page) := by
  unfold State.forgetPage
  try dsimp only
  repeat' first
    | with_reducible (first
        | assumption | apply State.modSync_canon)


theorem State.setLeaf_canon (s : State) (lf : Leaf) (e : BitVec 128) (hs : Canon s) : Canon (State.setLeaf s lf e) := by
  unfold State.setLeaf
  try dsimp only
  repeat' first
    | with_reducible (first
        | assumption | apply State.forgetPage_canon | apply State.dropTranslations_canon | apply State.putPte_canon)


theorem State.takeFrame_canon (s : State) (lf : Leaf) (hs : Canon s) : Canon (State.takeFrame s lf) := by
  unfold State.takeFrame
  try dsimp only
  repeat' first
    | with_reducible (first
        | assumption | apply State.modMem_canon)
    | intro _

theorem State.dropFrame_canon (s : State) (job : BitVec 16) (page : DWord) (size : ℕ) (hs : Canon s) : Canon (State.dropFrame s job page
    size) := by
  unfold State.dropFrame
  try dsimp only
  repeat' first
    | with_reducible (first
        | assumption | apply State.modMem_canon)
    | intro _ | split

theorem State.charge_canon (s : State) (x : FullFrame) (on : Bool) (hs : Canon s) : Canon (State.charge s x on) := by
  unfold State.charge
  try dsimp only
  repeat' first
    | with_reducible (first
        | assumption | apply State.modMem_canon | apply State.setFrame_canon)
    | intro _ | split

theorem State.freshPartial_canon (s : State) (p : Place) (hs : Canon s) : Canon (State.freshPartial s p) := by
  unfold State.freshPartial
  try dsimp only
  repeat' first
    | with_reducible (first
        | assumption | apply State.takeFrame_canon | apply State.setLeaf_canon)
    | intro _ | split

theorem State.noteRedm_canon (s : State) (x : Redm) (hs : Canon s) : Canon (State.noteRedm s x) := by
  unfold State.noteRedm
  try dsimp only
  repeat' first
    | with_reducible (first
        | assumption | apply State.modSync_canon)
    | intro _ | split

theorem State.applyRedm_canon (s : State) (x : Redm) (hs : Canon s) : Canon (State.applyRedm s x) := by
  unfold State.applyRedm
  try dsimp only
  repeat' first
    | with_reducible (first
        | assumption | apply State.noteRedm_canon | apply State.setBytes_canon)


theorem State.redmAt_canon (s : State) (p : Place) (aop : BitVec 4) (x : Word) (hs : Canon s) : Canon (State.redmAt s p aop x) := by
  unfold State.redmAt
  try dsimp only
  repeat' first
    | with_reducible (first
        | assumption | apply State.applyRedm_canon)


theorem State.landRedm_canon (s : State) (x : Redm) (hs : Canon s) : Canon (State.landRedm s x) := by
  unfold State.landRedm
  try dsimp only
  repeat' first
    | with_reducible (first
        | assumption | apply State.applyRedm_canon | apply State.freshPartial_canon | apply State.modSync_canon)
    | intro _ | split

theorem State.landRedms_canon (s : State) (p : Redm → Bool) (hs : Canon s) : Canon (State.landRedms s p) := by
  unfold State.landRedms
  try dsimp only
  repeat' first
    | with_reducible (first
        | assumption | apply State.landRedm_canon | apply foldl_canon)


theorem State.sendRedm_canon (s : State) (block : ℕ) (threads : List ℕ) (readers : List ℕ) (colour : BitVec 3) (place : Place) (aop :
    BitVec 4) (word : Word) (hs : Canon s) : Canon (State.sendRedm s block threads readers colour place aop word) := by
  unfold State.sendRedm
  try dsimp only
  repeat' first
    | with_reducible (first
        | assumption | apply State.fresh_canon | apply State.modSync_canon)


theorem State.reveal_canon (s : State) (p : Redm → Bool) (hs : Canon s) : Canon (State.reveal s p) := by
  unfold State.reveal
  try dsimp only
  repeat' first
    | with_reducible (first
        | assumption | apply State.modSync_canon)
    | intro _ | split

theorem State.inject_canon (s : State) (p : Packet) (hs : Canon s) : Canon (State.inject s p) := by
  unfold State.inject
  try dsimp only
  repeat' first
    | with_reducible (first
        | assumption | apply State.modFab_canon)
    | intro _ | split

theorem State.flush_canon (s : State) (hs : Canon s) : Canon (State.flush s) := by
  unfold State.flush
  try dsimp only
  repeat' first
    | with_reducible (first
        | assumption | apply State.inject_canon | apply State.modFab_canon | apply foldl_canon)


theorem State.post_canon (s : State) (p : Packet) (hs : Canon s) : Canon (State.post s p) := by
  unfold State.post
  try dsimp only
  repeat' first
    | with_reducible (first
        | assumption | apply State.inject_canon | apply State.modFab_canon)
    | intro _ | split

theorem State.flushPages_canon (s : State) (dev : BitVec 11) (hs : Canon s) : Canon (State.flushPages s dev) := by
  unfold State.flushPages
  try dsimp only
  repeat' first
    | with_reducible (first
        | assumption | apply State.post_canon | apply State.modFab_canon | apply foldl_canon)


theorem State.send_canon (s : State) (dst : BitVec 11) (cls : BitVec 2) (key : BitVec 32) (mk : Arrival → Instr) (hs : Canon s) : Canon
    (State.send s dst cls key mk) := by
  unfold State.send
  try dsimp only
  repeat' first
    | with_reducible (first
        | assumption | apply State.post_canon | apply State.modFab_canon)


theorem State.newTag_canon (s : State) (hs : Canon s) : Canon (State.newTag s).2 := by
  unfold State.newTag
  try dsimp only
  repeat' first
    | with_reducible (first
        | assumption | apply State.modFab_canon)


theorem State.newTag_canon_eq {x__ : _} {t__ : State} {s : State} (hs : Canon s) (h__ : (State.newTag s) = (x__, t__)) : Canon t__ := by
  have := State.newTag_canon s hs; rw [h__] at this; exact this

theorem State.request_canon (s : State) (dst : BitVec 11) (key : BitVec 32) (addr : ℕ) (why : Purpose) (mk : BitVec 12 → Arrival → Instr)
    (lines : optParam (BitVec 4) 0) (hs : Canon s) : Canon (State.request s dst key addr why mk lines) := by
  unfold State.request
  try dsimp only
  repeat' first
    | with_reducible (first
        | assumption | apply State.newTag_canon | apply State.send_canon | apply State.modFab_canon)


theorem State.modAllowance_canon (s : State) (dev : BitVec 11) (g : Allowance → Allowance) (hs : Canon s) : Canon (State.modAllowance s
    dev g) := by
  unfold State.modAllowance
  try dsimp only
  repeat' first
    | with_reducible (first
        | assumption | apply State.modFab_canon)


theorem State.keepWaits_canon (s : State) (frag : ℕ) (devs : List (BitVec 11)) (hs : Canon s) : Canon (State.keepWaits s frag devs) := by
  unfold State.keepWaits
  try dsimp only
  repeat' first
    | with_reducible (first
        | assumption | apply State.modAllowance_canon | apply State.clearCovered_canon | apply foldl_canon)
    | intro _

theorem State.pay_canon (s : State) (frag : ℕ) (costs : List (BitVec 11 × ℕ)) (hs : Canon s) : Canon (State.pay s frag costs).1 := by
  unfold State.pay
  try dsimp only
  repeat' first
    | with_reducible (first
        | assumption | apply State.keepWaits_canon | apply State.modAllowance_canon | apply State.clearCovered_canon
        | apply foldl_canon)
    | intro _ | split

theorem State.pay_canon_eq {x__ : _} {t__ : State} {s : State} {frag : ℕ} {costs : List (BitVec 11 × ℕ)} (hs : Canon s) (h__ : (State.pay
    s frag costs) = (t__, x__)) : Canon t__ := by
  have := State.pay_canon s frag costs hs; rw [h__] at this; exact this

theorem State.flyEngine_canon (s : State) (dev : BitVec 11) (cost : ℕ) (hs : Canon s) : Canon (State.flyEngine s dev cost) := by
  unfold State.flyEngine
  try dsimp only
  repeat' first
    | with_reducible (first
        | assumption | apply State.modAllowance_canon)


theorem State.engineRequest_canon (s : State) (dst : BitVec 11) (key : BitVec 32) (addr : ℕ) (why : Purpose) (mk : BitVec 12 → Arrival →
    Instr) (hs : Canon s) : Canon (State.engineRequest s dst key addr why mk) := by
  unfold State.engineRequest
  try dsimp only
  repeat' first
    | with_reducible (first
        | assumption | apply State.flyEngine_canon | apply State.request_canon | apply State.newTag_canon
        | apply State.modFab_canon)
    | intro _ | split

theorem State.flushEngines_canon (s : State) (dev : BitVec 11) (hs : Canon s) : Canon (State.flushEngines s dev) := by
  unfold State.flushEngines
  try dsimp only
  repeat' first
    | with_reducible (first
        | assumption | apply State.flyEngine_canon | apply State.inject_canon | apply State.modFab_canon | apply foldl_canon)
    | intro _ | split

theorem State.returnFlits_canon (s : State) (dev : BitVec 11) (n : ℕ) (hs : Canon s) : Canon (State.returnFlits s dev n) := by
  unfold State.returnFlits
  try dsimp only
  repeat' first
    | with_reducible (first
        | assumption | apply State.flushEngines_canon | apply State.modAllowance_canon | apply State.clearCovered_canon)
    | intro _ | split

theorem State.pickByte_canon (s : State) (b : Block) (t : Thread) (q : Place) (hs : Canon s) : Canon (State.pickByte s b t q).2 := by
  unfold State.pickByte
  try dsimp only
  repeat' first
    | with_reducible (first
        | assumption | apply State.draw_canon)
    | intro _ | split

theorem State.pickByte_canon_eq {x__ : _} {t__ : State} {s : State} {b : Block} {t : Thread} {q : Place} (hs : Canon s) (h__ :
    (State.pickByte s b t q) = (x__, t__)) : Canon t__ := by
  have := State.pickByte_canon s b t q hs; rw [h__] at this; exact this

theorem State.sawBytes_canon (s : State) (w : ℕ) (lane : ℕ) (p : Place) (xs : List (Byte × ℕ)) (hs : Canon s) : Canon (State.sawBytes s w
    lane p xs) := by
  unfold State.sawBytes
  try dsimp only
  repeat' first
    | with_reducible (first
        | assumption | apply State.modWarp_canon)


theorem State.homeByte_canon (s : State) (w : ℕ) (lane : ℕ) (b : Block) (t : Option Thread) (q : Place) (hs : Canon s) : Canon
    (State.homeByte s w lane b t q).2 := by
  unfold State.homeByte
  try dsimp only
  repeat' first
    | with_reducible (first
        | assumption | apply State.sawBytes_canon | apply State.pickByte_canon)
    | intro _ | split

theorem State.homeByte_canon_eq {x__ : _} {t__ : State} {s : State} {w : ℕ} {lane : ℕ} {b : Block} {t : Option Thread} {q : Place} (hs :
    Canon s) (h__ : (State.homeByte s w lane b t q) = (x__, t__)) : Canon t__ := by
  have := State.homeByte_canon s w lane b t q hs; rw [h__] at this; exact this

theorem State.readBytes_canon (s : State) (f : Frag) (w : Warp) (b : Block) (lane : ℕ) (p : Place) (n : ℕ) (home : List Byte) (hs : Canon
    s) : Canon (State.readBytes s f w b lane p n home).2 := by
  unfold State.readBytes
  try dsimp only
  repeat' first
    | with_reducible (first
        | assumption | apply State.homeByte_canon | apply foldl_canon_snd)
    | intro _ | split

theorem State.readBytes_canon_eq {x__ : _} {t__ : State} {s : State} {f : Frag} {w : Warp} {b : Block} {lane : ℕ} {p : Place} {n : ℕ}
    {home : List Byte} (hs : Canon s) (h__ : (State.readBytes s f w b lane p n home) = (x__, t__)) : Canon t__ := by
  have := State.readBytes_canon s f w b lane p n home hs; rw [h__] at this; exact this

theorem State.readNow_canon (s : State) (f : Frag) (w : Warp) (b : Block) (lane : ℕ) (p : Place) (n : ℕ) (hs : Canon s) : Canon
    (State.readNow s f w b lane p n).2 := by
  unfold State.readNow
  try dsimp only
  repeat' first
    | with_reducible (first
        | assumption | apply State.readBytes_canon | apply State.forgetAt_canon)
    | intro _ | split

theorem State.readNow_canon_eq {x__ : _} {t__ : State} {s : State} {f : Frag} {w : Warp} {b : Block} {lane : ℕ} {p : Place} {n : ℕ} (hs :
    Canon s) (h__ : (State.readNow s f w b lane p n) = (x__, t__)) : Canon t__ := by
  have := State.readNow_canon s f w b lane p n hs; rw [h__] at this; exact this

theorem State.loadBytes_canon (s : State) (f : Frag) (w : Warp) (b : Block) (lane : ℕ) (p : Place) (n : ℕ) (home : List Byte) (hs : Canon
    s) : Canon (State.loadBytes s f w b lane p n home).2 := by
  unfold State.loadBytes
  try dsimp only
  repeat' first
    | with_reducible (first
        | assumption | apply State.readBytes_canon | apply State.sawBytes_canon | apply State.forgetAt_canon
        | apply State.draw_canon)
    | intro _ | split

theorem State.loadBytes_canon_eq {x__ : _} {t__ : State} {s : State} {f : Frag} {w : Warp} {b : Block} {lane : ℕ} {p : Place} {n : ℕ}
    {home : List Byte} (hs : Canon s) (h__ : (State.loadBytes s f w b lane p n home) = (x__, t__)) : Canon t__ := by
  have := State.loadBytes_canon s f w b lane p n home hs; rw [h__] at this; exact this

theorem State.readEarly_canon (s : State) (frag : ℕ) (hs : Canon s) : Canon (State.readEarly s frag) := by
  unfold State.readEarly
  try dsimp only
  repeat' first
    | with_reducible (first
        | assumption | apply State.pickByte_canon | apply State.drawN_canon | apply State.modSync_canon | apply foldl_canon_snd)
    | intro _ | split

theorem State.cutEntries_canon (s : State) (b : ℕ) (p : Entry → Piece → Bool) (hs : Canon s) : Canon (State.cutEntries s b p) := by
  unfold State.cutEntries
  try dsimp only
  repeat' first
    | with_reducible (first
        | assumption | apply State.modBlock_canon)
    | intro _ | split | assumption

theorem State.pushStore_canon (s : State) (b : ℕ) (frag : ℕ) (colour : BitVec 3) (setFull : Bool) (pieces : List Piece) (hs : Canon s) :
    Canon (State.pushStore s b frag colour setFull pieces) := by
  unfold State.pushStore
  try dsimp only
  repeat' first
    | with_reducible (first
        | assumption | apply State.cutEntries_canon | apply State.forgetAt_canon | apply State.fresh_canon
        | apply State.modBlock_canon | apply foldl_canon)
    | intro _ | split

theorem State.wakeFull_canon (s : State) (b : ℕ) (hs : Canon s) : Canon (State.wakeFull s b) := by
  unfold State.wakeFull
  try dsimp only
  repeat' first
    | with_reducible (first
        | assumption | apply State.modWork_canon)


theorem State.performBuf_canon (s : State) (x : Piece) (full : Bool) (hs : Canon s) : Canon (State.performBuf s x full) := by
  unfold State.performBuf
  try dsimp only
  repeat' first
    | with_reducible (first
        | assumption | apply State.wakeFull_canon | apply State.performAt_canon | apply State.modBlock_canon)
    | intro _ | split

theorem State.startDrain_canon (s : State) (b : ℕ) (hs : Canon s) : Canon (State.startDrain s b) := by
  unfold State.startDrain
  try dsimp only
  repeat' first
    | with_reducible (first
        | assumption | apply State.modBlock_canon)


theorem State.threshold_canon (s : State) (core : ℕ) (hs : Canon s) : Canon (State.threshold s core) := by
  unfold State.threshold
  try dsimp only
  repeat' first
    | with_reducible (first
        | assumption | apply State.startDrain_canon)
    | intro _ | split

theorem State.releaseEntry_canon (s : State) (b : Block) (e : Entry) (hs : Canon s) : Canon (State.releaseEntry s b e) := by
  unfold State.releaseEntry
  try dsimp only
  repeat' first
    | with_reducible (first
        | assumption | apply State.threshold_canon | apply State.performBuf_canon | apply State.clearWritten_canon
        | apply State.modBlock_canon | apply foldl_canon)
    | intro _ | split

theorem State.releaseWhere_canon (s : State) (b : ℕ) (p : Entry → Bool) (hs : Canon s) : Canon (State.releaseWhere s b p) := by
  unfold State.releaseWhere
  try dsimp only
  repeat' first
    | with_reducible (first
        | assumption | apply State.releaseEntry_canon | apply foldl_canon)
    | intro _ | split

theorem State.releaseAll_canon (s : State) (b : ℕ) (frag : ℕ) (hs : Canon s) : Canon (State.releaseAll s b frag) := by
  unfold State.releaseAll
  try dsimp only
  repeat' first
    | with_reducible (first
        | assumption | apply State.releaseWhere_canon)


theorem State.arrive_canon (s : State) (b : ℕ) (e : Entry) (hs : Canon s) : Canon (State.arrive s b e) := by
  unfold State.arrive
  try dsimp only
  repeat' first
    | with_reducible (first
        | assumption | apply State.performBuf_canon | apply State.clearWritten_canon | apply State.soil_canon
        | apply State.modBlock_canon | apply foldl_canon)
    | intro _

theorem State.arriveWhere_canon (s : State) (b : ℕ) (p : Entry → Bool) (hs : Canon s) : Canon (State.arriveWhere s b p) := by
  unfold State.arriveWhere
  try dsimp only
  repeat' first
    | with_reducible (first
        | assumption | apply State.arrive_canon | apply foldl_canon)
    | intro _ | split

theorem State.arriveOne_canon (s : State) (b : ℕ) (index : ℕ) (hs : Canon s) : Canon (State.arriveOne s b index) := by
  unfold State.arriveOne
  try dsimp only
  repeat' first
    | with_reducible (first
        | assumption | apply State.arrive_canon)
    | intro _ | split

theorem State.performMain_canon (s : State) (b : ℕ) (job : BitVec 16) (x : Piece) (hs : Canon s) : Canon (State.performMain s b job x) := by
  unfold State.performMain
  try dsimp only
  repeat' first
    | with_reducible (first
        | assumption | apply State.freshPartial_canon | apply State.performAt_canon | apply State.clearPoison_canon
        | apply State.orderByte_canon | apply State.wake_canon | apply State.putAt_canon | apply State.fresh_canon
        | apply foldl_canon)
    | intro _ | split

theorem State.deliver_canon (s : State) (b : ℕ) (e : Entry) (tag : BitVec 12) (ps : List Piece) (rank : Option ℕ) (hs : Canon s) : Canon
    (State.deliver s b e tag ps rank) := by
  unfold State.deliver
  try dsimp only
  repeat' first
    | with_reducible (first
        | assumption | apply State.modSync_canon)


theorem State.sendPieces_canon (s : State) (b : Block) (job : BitVec 16) (e : Entry) (hs : Canon s) : Canon (State.sendPieces s b job e)
    := by
  unfold State.sendPieces
  try dsimp only
  repeat' first
    | with_reducible (first
        | assumption | apply State.deliver_canon | apply State.request_canon | apply foldl_canon)
    | intro _

theorem State.drainEntry_canon (s : State) (b : Block) (job : BitVec 16) (e : Entry) (hs : Canon s) : Canon (State.drainEntry s b job e)
    := by
  unfold State.drainEntry
  try dsimp only
  repeat' first
    | with_reducible (first
        | assumption | apply State.sendPieces_canon | apply State.performMain_canon | apply State.threshold_canon
        | apply State.clearWritten_canon | apply State.soil_canon | apply State.modBlock_canon | apply foldl_canon)
    | intro _ | split

theorem State.startFor_canon (s : State) (b : ℕ) (p : Entry → Bool) (hs : Canon s) : Canon (State.startFor s b p) := by
  unfold State.startFor
  try dsimp only
  repeat' first
    | with_reducible (first
        | assumption | apply State.modBlock_canon)


theorem State.publishHeld_canon (s : State) (b : ℕ) (p : Entry → Bool) (hs : Canon s) : Canon (State.publishHeld s b p) := by
  unfold State.publishHeld
  try dsimp only
  repeat' first
    | with_reducible (first
        | assumption | apply State.startFor_canon | apply State.modBlock_canon)


theorem State.fenceWork_canon (s : State) (b : ℕ) (job : BitVec 16) (scope : BitVec 3) (cmask : BitVec 8) (ths : List ℕ) (hs : Canon s) :
    Canon (State.fenceWork s b job scope cmask ths) := by
  unfold State.fenceWork
  try dsimp only
  repeat' first
    | with_reducible (first
        | assumption | apply State.startFor_canon | apply State.arriveWhere_canon | apply State.releaseWhere_canon
        | apply State.startDrain_canon | apply State.cutEntries_canon | apply State.landRedms_canon | apply State.modBlock_canon)
    | intro _ | split

theorem Ctx.fence_canon (c : Ctx) (scope : BitVec 3) (cmask : BitVec 8) (lanes : Mask) (k : State → Out) (hc : Canon c.s) (hk : ∀ s :
    State, Canon s → CanonAfter (k s)) : CanonAfter (Ctx.fence c scope cmask lanes k) := by
  unfold Ctx.fence
  try dsimp only
  repeat' first
    | with_reducible (first
        | assumption | apply hk | apply State.fenceWork_canon | apply Ctx.waitIn_canon | apply State.takeTrap_canon
        | apply State.modSync_canon | apply canonAfter_next)
    | intro _ | split

theorem State.publish_canon (s : State) (job : BitVec 16) (sync : DWord) (scope : BitVec 3) (ths : List ℕ) (hs : Canon s) : Canon
    (State.publish s job sync scope ths) := by
  unfold State.publish
  try dsimp only
  repeat' first
    | with_reducible (first
        | assumption | apply State.modSync_canon)


theorem State.acquire_canon (s : State) (w : ℕ) (lanes : Mask) (job : BitVec 16) (sync : DWord) (hs : Canon s) : Canon (State.acquire s w
    lanes job sync) := by
  unfold State.acquire
  try dsimp only
  repeat' first
    | with_reducible (first
        | assumption | apply State.modWarp_canon)


theorem State.unbindBlock_canon (s : State) (b : ℕ) (hs : Canon s) : Canon (State.unbindBlock s b) := by
  unfold State.unbindBlock
  try dsimp only
  repeat' first
    | with_reducible (first
        | assumption | apply State.reveal_canon | apply State.modSync_canon)


theorem State.setTransition_canon (s : State) (t : Transition) (hs : Canon s) : Canon (State.setTransition s t) := by
  unfold State.setTransition
  try dsimp only
  repeat' first
    | with_reducible (first
        | assumption | apply State.modMem_canon)
    | intro _

theorem State.closeTransition_canon (s : State) (job : BitVec 16) (page : DWord) (hs : Canon s) : Canon (State.closeTransition s job page)
    := by
  unfold State.closeTransition
  try dsimp only
  repeat' first
    | with_reducible (first
        | assumption | apply State.modMem_canon)
    | intro _

theorem State.closeFill_canon (s : State) (job : BitVec 16) (page : DWord) (hs : Canon s) : Canon (State.closeFill s job page) := by
  unfold State.closeFill
  try dsimp only
  repeat' first
    | with_reducible (first
        | assumption | apply State.modMem_canon)
    | intro _

theorem State.wakePages_canon (s : State) (hs : Canon s) : Canon (State.wakePages s) := by
  unfold State.wakePages
  try dsimp only
  repeat' first
    | with_reducible (first
        | assumption | apply State.modWork_canon)


theorem State.setShst_canon (s : State) (lf : Leaf) (x : BitVec 3) (hs : Canon s) : Canon (State.setShst s lf x) := by
  unfold State.setShst
  try dsimp only
  repeat' first
    | with_reducible (first
        | assumption | apply State.wakePages_canon | apply State.setLeaf_canon)


theorem State.sendPage_canon (s : State) (lf : Leaf) (g : Group) (rank : ℕ) (mk : Arrival → Instr) (hs : Canon s) : Canon (State.sendPage
    s lf g rank mk) := by
  unfold State.sendPage
  try dsimp only
  repeat' first
    | with_reducible (first
        | assumption | apply State.send_canon)


theorem State.sendOthers_canon (s : State) (lf : Leaf) (g : Group) (mk : Arrival → Instr) (hs : Canon s) : Canon (State.sendOthers s lf g
    mk) := by
  unfold State.sendOthers
  try dsimp only
  repeat' first
    | with_reducible (first
        | assumption | apply State.sendPage_canon | apply foldl_canon)
    | intro _ | split

theorem State.shardGranule_canon (s : State) (lf : Leaf) (g : Group) (q : ℕ) (hs : Canon s) : Canon (State.shardGranule s lf g q).2 := by
  unfold State.shardGranule
  try dsimp only
  repeat' first
    | with_reducible (first
        | assumption | apply State.drawN_canon)
    | intro _ | split

theorem State.shardGranule_canon_eq {x__ : _} {t__ : State} {s : State} {lf : Leaf} {g : Group} {q : ℕ} (hs : Canon s) (h__ :
    (State.shardGranule s lf g q) = (x__, t__)) : Canon t__ := by
  have := State.shardGranule_canon s lf g q hs; rw [h__] at this; exact this

theorem State.shardGranules_canon (s : State) (lf : Leaf) (g : Group) (qs : List ℕ) (hs : Canon s) : Canon (State.shardGranules s lf g
    qs).2 := by
  unfold State.shardGranules
  try dsimp only
  repeat' first
    | with_reducible (first
        | assumption | apply State.shardGranule_canon | apply foldl_canon_snd)
    | intro _

theorem State.shardGranules_canon_eq {x__ : _} {t__ : State} {s : State} {lf : Leaf} {g : Group} {qs : List ℕ} (hs : Canon s) (h__ :
    (State.shardGranules s lf g qs) = (x__, t__)) : Canon t__ := by
  have := State.shardGranules_canon s lf g qs hs; rw [h__] at this; exact this

theorem State.granuleMsg_canon (s : State) (lf : Leaf) (g : Group) (opn : BitVec 16) (qs : List ℕ) (hs : Canon s) : Canon
    (State.granuleMsg s lf g opn qs).2 := by
  unfold State.granuleMsg
  try dsimp only
  repeat' first
    | with_reducible (first
        | assumption | apply State.shardGranules_canon)


theorem State.granuleMsg_canon_eq {x__ : _} {t__ : State} {s : State} {lf : Leaf} {g : Group} {opn : BitVec 16} {qs : List ℕ} (hs : Canon
    s) (h__ : (State.granuleMsg s lf g opn qs) = (x__, t__)) : Canon t__ := by
  have := State.granuleMsg_canon s lf g opn qs hs; rw [h__] at this; exact this

theorem State.serve_canon (s : State) (lf : Leaf) (g : Group) (opn : BitVec 16) (hs : Canon s) : Canon (State.serve s lf g opn) := by
  unfold State.serve
  try dsimp only
  repeat' first
    | with_reducible (first
        | assumption | apply State.granuleMsg_canon | apply State.sendOthers_canon | apply foldl_canon)
    | intro _

theorem State.copyOwn_canon (s : State) (lf : Leaf) (g : Group) (hs : Canon s) : Canon (State.copyOwn s lf g) := by
  unfold State.copyOwn
  try dsimp only
  repeat' first
    | with_reducible (first
        | assumption | apply State.shardGranule_canon | apply State.addPoison_canon | apply State.putAt_canon
        | apply foldl_canon)
    | intro _ | split

theorem State.dropPageRange_canon (s : State) (lf : Leaf) (hs : Canon s) : Canon (State.dropPageRange s lf) := by
  unfold State.dropPageRange
  try dsimp only
  repeat' first
    | with_reducible (first
        | assumption | apply State.modColl_canon)


theorem State.addPageRange_canon (s : State) (lf : Leaf) (hs : Canon s) : Canon (State.addPageRange s lf) := by
  unfold State.addPageRange
  try dsimp only
  repeat' first
    | with_reducible (first
        | assumption | apply State.modColl_canon)


theorem State.onEnd_canon (s : State) (lf : Leaf) (gen : BitVec 16) (hs : Canon s) : Canon (State.onEnd s lf gen) := by
  unfold State.onEnd
  try dsimp only
  repeat' first
    | with_reducible (first
        | assumption | apply State.dropPageRange_canon | apply State.wakePages_canon | apply State.closeTransition_canon
        | apply State.dropFrame_canon | apply State.setLeaf_canon)
    | intro _ | split

theorem State.onDone_canon (s : State) (lf : Leaf) (g : Group) (rank : ℕ) (hs : Canon s) : Canon (State.onDone s lf g rank) := by
  unfold State.onDone
  try dsimp only
  repeat' first
    | with_reducible (first
        | assumption | apply State.onEnd_canon | apply State.sendOthers_canon | apply State.setTransition_canon)
    | intro _ | split

theorem State.memberDone_canon (s : State) (lf : Leaf) (g : Group) (status : BitVec 8) (hs : Canon s) : Canon (State.memberDone s lf g
    status) := by
  unfold State.memberDone
  try dsimp only
  repeat' first
    | with_reducible (first
        | assumption | apply State.onDone_canon | apply State.sendPage_canon | apply State.setTransition_canon)
    | intro _ | split

theorem State.deferFill_canon (s : State) (lf : Leaf) (hs : Canon s) : Canon (State.deferFill s lf) := by
  unfold State.deferFill
  try dsimp only
  repeat' first
    | with_reducible (first
        | assumption | apply State.setShst_canon | apply State.setJob_canon)
    | intro _ | split

theorem State.openTransition_canon (s : State) (t : Transition) (hs : Canon s) : Canon (State.openTransition s t) := by
  unfold State.openTransition
  try dsimp only
  repeat' first
    | with_reducible (first
        | assumption | apply State.setTransition_canon | apply State.modMem_canon)
    | intro _ | split

theorem State.onGather_canon (s : State) (lf : Leaf) (g : Group) (opn : BitVec 16) (coord : Bool) (hs : Canon s) : Canon (State.onGather s
    lf g opn coord) := by
  unfold State.onGather
  try dsimp only
  repeat' first
    | with_reducible (first
        | assumption | apply State.openTransition_canon | apply State.deferFill_canon | apply State.memberDone_canon
        | apply State.copyOwn_canon | apply State.serve_canon | apply State.setShst_canon | apply State.takeFrame_canon)
    | intro _ | split

theorem State.orDrainFlags_canon (s : State) (lf : Leaf) (fl : Flags) (hs : Canon s) : Canon (State.orDrainFlags s lf fl) := by
  unfold State.orDrainFlags
  try dsimp only
  repeat' first
    | with_reducible (first
        | assumption | apply State.modMem_canon)
    | intro _

theorem State.onDrain_canon (s : State) (lf : Leaf) (g : Group) (opn : BitVec 16) (coord : Bool) (hs : Canon s) : Canon (State.onDrain s
    lf g opn coord) := by
  unfold State.onDrain
  try dsimp only
  repeat' first
    | with_reducible (first
        | assumption | apply State.orDrainFlags_canon | apply State.openTransition_canon | apply State.addPageRange_canon
        | apply State.sendPage_canon | apply State.setShst_canon | apply foldl_canon)
    | intro _ | split

theorem State.writeOwn_canon (s : State) (lf : Leaf) (g : Group) (q : ℕ) (sums : List Word) (hs : Canon s) : Canon (State.writeOwn s lf g
    q sums) := by
  unfold State.writeOwn
  try dsimp only
  repeat' first
    | with_reducible (first
        | assumption | apply State.orDrainFlags_canon | apply State.performAt_canon | apply State.drawN_canon)
    | intro _ | split

theorem State.onDsum_canon (s : State) (lf : Leaf) (g : Group) (t : Transition) (m : PageMsg) (hs : Canon s) : Canon (State.onDsum s lf g
    t m) := by
  unfold State.onDsum
  try dsimp only
  repeat' first
    | with_reducible (first
        | assumption | apply State.writeOwn_canon | apply State.orDrainFlags_canon | apply State.memberDone_canon
        | apply State.sendPage_canon | apply State.setTransition_canon | apply foldl_canon)
    | intro _ | split

theorem State.nextOpn_canon (s : State) (hs : Canon s) : Canon (State.nextOpn s).2 := by
  unfold State.nextOpn
  try dsimp only
  repeat' first
    | with_reducible (first
        | assumption | apply State.modMem_canon)
    | intro _

theorem State.nextOpn_canon_eq {x__ : _} {t__ : State} {s : State} (hs : Canon s) (h__ : (State.nextOpn s) = (x__, t__)) : Canon t__ := by
  have := State.nextOpn_canon s hs; rw [h__] at this; exact this

theorem State.startOp_canon (s : State) (lf : Leaf) (g : Group) (kind : OpKind) (hs : Canon s) : Canon (State.startOp s lf g kind) := by
  unfold State.startOp
  try dsimp only
  repeat' first
    | with_reducible (first
        | assumption | apply State.nextOpn_canon | apply State.onDrain_canon | apply State.onGather_canon
        | apply State.openTransition_canon | apply State.sendOthers_canon)
    | intro _ | split

theorem State.askOp_canon (s : State) (lf : Leaf) (g : Group) (kind : OpKind) (hs : Canon s) : Canon (State.askOp s lf g kind) := by
  unfold State.askOp
  try dsimp only
  repeat' first
    | with_reducible (first
        | assumption | apply State.startOp_canon | apply State.openTransition_canon | apply State.sendPage_canon)
    | intro _ | split

theorem State.wantPage_canon (s : State) (lf : Leaf) (hs : Canon s) : Canon (State.wantPage s lf) := by
  unfold State.wantPage
  try dsimp only
  repeat' first
    | with_reducible (first
        | assumption | apply State.askOp_canon | apply State.setShst_canon | apply State.takeFrame_canon)
    | intro _ | split

theorem State.evictPage_canon (s : State) (lf : Leaf) (hs : Canon s) : Canon (State.evictPage s lf) := by
  unfold State.evictPage
  try dsimp only
  repeat' first
    | with_reducible (first
        | assumption | apply State.askOp_canon | apply State.addPageRange_canon | apply State.setShst_canon
        | apply State.closeFill_canon | apply State.dropFrame_canon | apply State.setJob_canon)
    | intro _ | split

theorem State.poisonShard_canon (s : State) (lf : Leaf) (g : Group) (hs : Canon s) : Canon (State.poisonShard s lf g) := by
  unfold State.poisonShard
  try dsimp only
  repeat' first
    | with_reducible (first
        | assumption | apply State.addPoison_canon)


theorem State.failPage_canon (s : State) (lf : Leaf) (g : Group) (hs : Canon s) : Canon (State.failPage s lf g) := by
  unfold State.failPage
  try dsimp only
  repeat' first
    | with_reducible (first
        | assumption | apply State.poisonShard_canon | apply State.dropPageRange_canon | apply State.sendOthers_canon
        | apply State.setShst_canon | apply State.closeFill_canon | apply State.closeTransition_canon
        | apply State.dropFrame_canon)
    | intro _ | split

theorem State.failQuiet_canon (s : State) (lf : Leaf) (hs : Canon s) : Canon (State.failQuiet s lf) := by
  unfold State.failQuiet
  try dsimp only
  repeat' first
    | with_reducible (first
        | assumption | apply State.setShst_canon | apply State.dropFrame_canon)
    | intro _ | split

theorem State.jobSwapped_canon (s : State) (job : BitVec 16) (hs : Canon s) : Canon (State.jobSwapped s job) := by
  unfold State.jobSwapped
  try dsimp only
  repeat' first
    | with_reducible (first
        | assumption | apply State.deferFill_canon | apply State.memberDone_canon | apply State.wakePages_canon
        | apply State.charge_canon | apply State.dropFrame_canon | apply State.modWork_canon | apply foldl_canon)
    | intro _ | split

theorem State.jobResident_canon (s : State) (job : BitVec 16) (hs : Canon s) : Canon (State.jobResident s job) := by
  unfold State.jobResident
  try dsimp only
  repeat' first
    | with_reducible (first
        | assumption | apply State.charge_canon | apply State.modWork_canon | apply foldl_canon)
    | intro _

theorem Ctx.failLeaves_canon (c : Ctx) (xs : List LaneAcc) (hc : Canon c.s) : Canon (Ctx.failLeaves c xs) := by
  unfold Ctx.failLeaves
  try dsimp only
  repeat' first
    | with_reducible (first
        | assumption | apply State.failQuiet_canon | apply foldl_canon)
    | intro _ | split

theorem State.startWalk_canon (s : State) (core : ℕ) (job : BitVec 16) (page : DWord) (hs : Canon s) : Canon (State.startWalk s core job
    page) := by
  unfold State.startWalk
  try dsimp only
  repeat' first
    | with_reducible (first
        | assumption | apply State.modMem_canon)
    | intro _ | split

theorem State.startWait_canon (s : State) (core : ℕ) (k : Check) (hs : Canon s) : Canon (State.startWait s core k) := by
  unfold State.startWait
  try dsimp only
  repeat' first
    | with_reducible (first
        | assumption | apply State.startWalk_canon | apply State.wantPage_canon)
    | intro _ | split

theorem Ctx.laneTrap_canon (c : Ctx) (s : State) (whole : Option Mask) (cause : Cause) (sgid : BitVec 12) (xs : List LaneAcc) (hc : Canon
    c.s) (hs : Canon s) : CanonAfter (Ctx.laneTrap c s whole cause sgid xs) := by
  unfold Ctx.laneTrap
  try dsimp only
  repeat' first
    | with_reducible (first
        | assumption | apply Ctx.trapWith_canon)


theorem Ctx.consumeAt_canon (c : Ctx) (p : Place) (mask : Mask) (addr : DWord) (hc : Canon c.s) : Canon (Ctx.consumeAt c p mask addr) := by
  unfold Ctx.consumeAt
  try dsimp only
  repeat' first
    | with_reducible (first
        | assumption | apply State.consume_canon | apply State.draw_canon)


theorem Ctx.poisonBy_canon (c : Ctx) (bad : LaneOk → Bool) (whole : Option Mask) (xs : List LaneOk) (go : Out) (hc : Canon c.s) (hgo :
    CanonAfter go) : CanonAfter (Ctx.poisonBy c bad whole xs go) := by
  unfold Ctx.poisonBy
  try dsimp only
  repeat' first
    | with_reducible (first
        | assumption | apply hgo | apply Ctx.consumeAt_canon | apply canonAfter_next)
    | intro _ | split

theorem Ctx.poisonCheck_canon (c : Ctx) (whole : Option Mask) (xs : List LaneOk) (go : Out) (hc : Canon c.s) (hgo : CanonAfter go) :
    CanonAfter (Ctx.poisonCheck c whole xs go) := by
  unfold Ctx.poisonCheck
  try dsimp only
  repeat' first
    | with_reducible (first
        | assumption | apply hgo | apply Ctx.poisonBy_canon)


theorem Ctx.pageWait_canon (c : Ctx) (waits : List LaneAcc) (hc : Canon c.s) : CanonAfter (Ctx.pageWait c waits) := by
  unfold Ctx.pageWait
  try dsimp only
  repeat' first
    | with_reducible (first
        | assumption | apply State.startWait_canon | apply Ctx.waitIn_canon | apply Ctx.parkIn_canon | apply foldl_canon)
    | intro _ | split

theorem Ctx.resolveBy_canon (c : Ctx) (bad : LaneOk → Bool) (whole : Option Mask) (same : ℕ × Cause → ℕ × Cause → Bool) (xs : List
    LaneAcc) (go : List LaneOk → Out) (hc : Canon c.s) (hgo : ∀ y, CanonAfter (go y)) : CanonAfter (Ctx.resolveBy c bad whole same xs go)
    := by
  unfold Ctx.resolveBy
  try dsimp only
  repeat' first
    | with_reducible (first
        | assumption | apply hgo | apply Ctx.pageWait_canon | apply Ctx.poisonBy_canon | apply Ctx.laneTrap_canon
        | apply Ctx.failLeaves_canon)
    | intro _ | split

theorem Ctx.resolve_canon (c : Ctx) (whole : Option Mask) (xs : List LaneAcc) (go : List LaneOk → Out) (hc : Canon c.s) (hgo : ∀ y,
    CanonAfter (go y)) : CanonAfter (Ctx.resolve c whole xs go) := by
  unfold Ctx.resolve
  try dsimp only
  repeat' first
    | with_reducible (first
        | assumption | apply hgo | apply Ctx.resolveBy_canon)


theorem Ctx.resolveHome_canon (c : Ctx) (whole : Option Mask) (xs : List LaneAcc) (go : List LaneOk → Out) (hc : Canon c.s) (hgo : ∀ y,
    CanonAfter (go y)) : CanonAfter (Ctx.resolveHome c whole xs go) := by
  unfold Ctx.resolveHome
  try dsimp only
  repeat' first
    | with_reducible (first
        | assumption | apply hgo | apply Ctx.resolveBy_canon)


theorem Ctx.resolveRead_canon (c : Ctx) (whole : Option Mask) (xs : List LaneAcc) (go : List LaneOk → Out) (hc : Canon c.s) (hgo : ∀ y,
    CanonAfter (go y)) : CanonAfter (Ctx.resolveRead c whole xs go) := by
  unfold Ctx.resolveRead
  try dsimp only
  repeat' first
    | with_reducible (first
        | assumption | apply hgo | apply Ctx.resolveBy_canon)


theorem State.sendReads_canon (s : State) (key : BitVec 32) (why : Purpose) (lines : List (BitVec 11 × ℕ)) (hs : Canon s) : Canon
    (State.sendReads s key why lines) := by
  unfold State.sendReads
  try dsimp only
  repeat' first
    | with_reducible (first
        | assumption | apply State.request_canon | apply foldl_canon)
    | intro _

theorem Ctx.fetchLines_canon (c : Ctx) (xs : List LaneOk) (go : Out) (hc : Canon c.s) (hgo : CanonAfter go) : CanonAfter (Ctx.fetchLines c
    xs go) := by
  unfold Ctx.fetchLines
  try dsimp only
  repeat' first
    | with_reducible (first
        | assumption | apply hgo | apply State.sendReads_canon | apply Ctx.park_canon | apply Ctx.parkIn_canon)
    | intro _ | split | exact State.pay_canon_eq (h__ := by assumption) (by assumption)

theorem Ctx.replyTrap_canon (c : Ctx) (whole : Option Mask) (noPoison : Bool) (xs : List LaneOk) (statusOf : LaneOk → Option (BitVec 8))
    (go : Out) (hc : Canon c.s) (hgo : CanonAfter go) : CanonAfter (Ctx.replyTrap c whole noPoison xs statusOf go) := by
  unfold Ctx.replyTrap
  try dsimp only
  repeat' first
    | with_reducible (first
        | assumption | apply hgo | apply Ctx.consumeAt_canon | apply Ctx.laneTrap_canon | apply Ctx.trapWith_canon
        | apply canonAfter_next)
    | intro _ | split

theorem Ctx.readAll_canon (c : Ctx) (xs : List LaneOk) (hc : Canon c.s) : Canon (Ctx.readAll c xs).2 := by
  unfold Ctx.readAll
  try dsimp only
  repeat' first
    | with_reducible (first
        | assumption | apply State.loadBytes_canon | apply foldl_canon_snd)
    | intro _

theorem Ctx.readAll_canon_eq {x__ : _} {t__ : State} {c : Ctx} {xs : List LaneOk} (hc : Canon c.s) (h__ : (Ctx.readAll c xs) = (x__, t__))
    : Canon t__ := by
  have := Ctx.readAll_canon c xs hc; rw [h__] at this; exact this

theorem Ctx.loadOk_canon (c : Ctx) (whole : Option Mask) (ok : List LaneOk) (k : State → (ℕ → List Byte) → Out) (hc : Canon c.s) (hk : ∀
    (s : State) y, Canon s → CanonAfter (k s y)) : CanonAfter (Ctx.loadOk c whole ok k) := by
  unfold Ctx.loadOk
  try dsimp only
  repeat' first
    | with_reducible (first
        | assumption | apply hk | apply Ctx.readAll_canon | apply Ctx.replyTrap_canon | apply Ctx.fetchLines_canon
        | apply Ctx.poisonCheck_canon)


theorem Ctx.loadLanes_canon (c : Ctx) (whole : Option Mask) (xs : List LaneAcc) (k : State → (ℕ → List Byte) → Out) (hc : Canon c.s) (hk :
    ∀ (s : State) y, Canon s → CanonAfter (k s y)) : CanonAfter (Ctx.loadLanes c whole xs k) := by
  unfold Ctx.loadLanes
  try dsimp only
  repeat' first
    | with_reducible (first
        | assumption | apply hk | apply Ctx.loadOk_canon | apply Ctx.resolveRead_canon)
    | intro _

theorem Ctx.homeOk_canon (c : Ctx) (whole : Option Mask) (x : LaneOk) (k : State → List Byte → Out) (hc : Canon c.s) (hk : ∀ (s : State)
    y, Canon s → CanonAfter (k s y)) : CanonAfter (Ctx.homeOk c whole x k) := by
  unfold Ctx.homeOk
  try dsimp only
  repeat' first
    | with_reducible (first
        | assumption | apply hk | apply Ctx.replyTrap_canon | apply Ctx.fetchLines_canon | apply Ctx.poisonBy_canon
        | apply State.homeByte_canon | apply foldl_canon_snd)
    | intro _ | split

theorem Ctx.paid_canon (c : Ctx) (cs : List (BitVec 11 × ℕ)) (go : State → Out) (hc : Canon c.s) (hgo : ∀ s : State, Canon s → CanonAfter
    (go s)) : CanonAfter (Ctx.paid c cs go) := by
  unfold Ctx.paid
  try dsimp only
  repeat' first
    | with_reducible (first
        | assumption | apply hgo | apply Ctx.parkIn_canon)
    | intro _ | split | exact State.pay_canon_eq (h__ := by assumption) (by assumption)

theorem Ctx.storePieces_canon (c : Ctx) (s : State) (col : BitVec 3) (full : Bool) (ps : List Piece) (hc : Canon c.s) (hs : Canon s) :
    CanonAfter (Ctx.storePieces c s col full ps) := by
  unfold Ctx.storePieces
  try dsimp only
  repeat' first
    | with_reducible (first
        | assumption | apply State.pushStore_canon | apply Ctx.retireIn_canon)


theorem Ctx.settle_canon (c : Ctx) (lanes : Mask) (ps : List (Place × ℕ)) (hc : Canon c.s) : Canon (Ctx.settle c lanes ps).1 := by
  unfold Ctx.settle
  try dsimp only
  repeat' first
    | with_reducible (first
        | assumption | apply State.publishHeld_canon | apply State.arriveWhere_canon | apply State.releaseWhere_canon
        | apply State.cutEntries_canon)
    | intro _ | split

theorem Ctx.settle_canon_eq {x__ : _} {t__ : State} {c : Ctx} {lanes : Mask} {ps : List (Place × ℕ)} (hc : Canon c.s) (h__ : (Ctx.settle c
    lanes ps) = (t__, x__)) : Canon t__ := by
  have := Ctx.settle_canon c lanes ps hc; rw [h__] at this; exact this

theorem Ctx.forgetLanes_canon (c : Ctx) (s : State) (xs : List LaneOk) (hc : Canon c.s) (hs : Canon s) : Canon (Ctx.forgetLanes c s xs) :=
    by
  unfold Ctx.forgetLanes
  try dsimp only
  repeat' first
    | with_reducible (first
        | assumption | apply State.forgetAt_canon | apply foldl_canon)
    | intro _

theorem Ctx.settled_canon (c : Ctx) (lanes : Mask) (ps : List (Place × ℕ)) (go : Ctx → Out) (hc : Canon c.s) (hgo : ∀ c : Ctx, Canon c.s →
    CanonAfter (go c)) : CanonAfter (Ctx.settled c lanes ps go) := by
  unfold Ctx.settled
  try dsimp only
  repeat' first
    | with_reducible (first
        | assumption | apply hgo | apply Ctx.settle_canon | apply Ctx.waitIn_canon)
    | intro _ | split

theorem State.atomicAt_canon (s : State) (p : Place) (aop : BitVec 4) (wide : Bool) (x : DWord) (y : DWord) (hs : Canon s) : Canon
    (State.atomicAt s p aop wide x y).2 := by
  unfold State.atomicAt
  try dsimp only
  repeat' first
    | with_reducible (first
        | assumption | apply State.performAt_canon)


theorem State.atomicAt_canon_eq {x__ : _} {t__ : State} {s : State} {p : Place} {aop : BitVec 4} {wide : Bool} {x : DWord} {y : DWord} (hs
    : Canon s) (h__ : (State.atomicAt s p aop wide x y) = (x__, t__)) : Canon t__ := by
  have := State.atomicAt_canon s p aop wide x y hs; rw [h__] at this; exact this

theorem Ctx.soiled_canon (c : Ctx) (sp : Space) (s : State) (hc : Canon c.s) (hs : Canon s) : Canon (Ctx.soiled c sp s) := by
  unfold Ctx.soiled
  try dsimp only
  repeat' first
    | with_reducible (first
        | assumption | apply State.soil_canon)
    | intro _ | split

theorem Ctx.sendAtoms_canon (c : Ctx) (s : State) (m : MemOp) (far : List LaneOk) (hc : Canon c.s) (hs : Canon s) : Canon (Ctx.sendAtoms c
    s m far) := by
  unfold Ctx.sendAtoms
  try dsimp only
  repeat' first
    | with_reducible (first
        | assumption | apply State.request_canon | apply foldl_canon)
    | intro _ | split

theorem Ctx.applyAtoms_canon (c : Ctx) (m : MemOp) (ok : List LaneOk) (hc : Canon c.s) : Canon (Ctx.applyAtoms c m ok).2 := by
  unfold Ctx.applyAtoms
  try dsimp only
  repeat' first
    | with_reducible (first
        | assumption | apply State.atomicAt_canon | apply foldl_canon_snd)
    | intro _ | split

theorem Ctx.applyAtoms_canon_eq {x__ : _} {t__ : State} {c : Ctx} {m : MemOp} {ok : List LaneOk} (hc : Canon c.s) (h__ : (Ctx.applyAtoms c
    m ok) = (x__, t__)) : Canon t__ := by
  have := Ctx.applyAtoms_canon c m ok hc; rw [h__] at this; exact this

theorem Ctx.posted_canon (c : Ctx) (s : State) (tag : BitVec 12) (col : BitVec 3) (least : BitVec 3) (scope : BitVec 3) (xs : List LaneOk)
    (hc : Canon c.s) (hs : Canon s) : Canon (Ctx.posted c s tag col least scope xs) := by
  unfold Ctx.posted
  try dsimp only
  repeat' first
    | with_reducible (first
        | assumption | apply State.modSync_canon)


theorem Ctx.sendWords_canon (c : Ctx) (s : State) (d : BitVec 6) (m : MemOp) (ok : List LaneOk) (hc : Canon c.s) (hs : Canon s) : Canon
    (Ctx.sendWords c s d m ok) := by
  unfold Ctx.sendWords
  try dsimp only
  repeat' first
    | with_reducible (first
        | assumption | apply State.sendRedm_canon | apply foldl_canon)
    | intro _ | split

theorem Ctx.checkTargets_canon (c : Ctx) (ts : List (ℕ × DWord)) (go : Out) (hc : Canon c.s) (hgo : CanonAfter go) : CanonAfter
    (Ctx.checkTargets c ts go) := by
  unfold Ctx.checkTargets
  try dsimp only
  repeat' first
    | with_reducible (first
        | assumption | apply hgo | apply Ctx.trapWith_canon)
    | intro _ | split

theorem Ctx.splitTo_canon (c : Ctx) (s : State) (ts : List (ℕ × DWord)) (targets : List DWord) (hc : Canon c.s) (hs : Canon s) : Canon
    (Ctx.splitTo c s ts targets) := by
  unfold Ctx.splitTo
  try dsimp only
  repeat' first
    | with_reducible (first
        | assumption | apply State.fresh_canon | apply State.modWork_canon | apply State.modBlock_canon | apply foldl_canon)
    | intro _

theorem Ctx.transfer_canon (c : Ctx) (s : State) (ts : List (ℕ × DWord)) (hc : Canon c.s) (hs : Canon s) : CanonAfter (Ctx.transfer c s
    ts) := by
  unfold Ctx.transfer
  try dsimp only
  repeat' first
    | with_reducible (first
        | assumption | apply Ctx.splitTo_canon | apply Ctx.retireIn_canon | apply State.markRetired_canon
        | apply State.setFrag_canon | apply canonAfter_next)
    | intro _ | split

theorem Ctx.oneWay_canon (c : Ctx) (ts : List (ℕ × DWord)) (go : Out) (hc : Canon c.s) (hgo : CanonAfter go) : CanonAfter (Ctx.oneWay c ts
    go) := by
  unfold Ctx.oneWay
  try dsimp only
  repeat' first
    | with_reducible (first
        | assumption | apply hgo | apply Ctx.trap_canon)
    | intro _ | split

theorem Ctx.jump_canon (c : Ctx) (ts : List (ℕ × DWord)) (hc : Canon c.s) : CanonAfter (Ctx.jump c ts) := by
  unfold Ctx.jump
  try dsimp only
  repeat' first
    | with_reducible (first
        | assumption | apply Ctx.oneWay_canon | apply Ctx.transfer_canon | apply Ctx.checkTargets_canon)


theorem State.modThreads_canon (s : State) (w : ℕ) (lanes : Mask) (g : ℕ → Thread → Thread) (hs : Canon s) : Canon (State.modThreads s w
    lanes g) := by
  unfold State.modThreads
  try dsimp only
  repeat' first
    | with_reducible (first
        | assumption | apply State.modWarp_canon)


theorem Ctx.calls_canon (c : Ctx) (ts : List (ℕ × DWord)) (hc : Canon c.s) : CanonAfter (Ctx.calls c ts) := by
  unfold Ctx.calls
  try dsimp only
  repeat' first
    | with_reducible (first
        | assumption | apply State.modThreads_canon | apply Ctx.oneWay_canon | apply Ctx.transfer_canon
        | apply Ctx.checkTargets_canon | apply Ctx.paid_canon | apply Ctx.resolveBy_canon | apply State.pushStore_canon
        | apply Ctx.trap_canon)
    | intro _ | split

theorem State.wakePans_canon (s : State) (core : ℕ) (hs : Canon s) : Canon (State.wakePans s core) := by
  unfold State.wakePans
  try dsimp only
  repeat' first
    | with_reducible (first
        | assumption | apply State.modWork_canon)


theorem State.leave_canon (s : State) (w : ℕ) (lanes : Mask) (hs : Canon s) : Canon (State.leave s w lanes) := by
  unfold State.leave
  try dsimp only
  repeat' first
    | with_reducible (first
        | assumption | apply State.wakeReclaim_canon | apply State.modWork_canon | apply State.modWarp_canon)
    | intro _ | split

theorem Ctx.departTo_canon (c : Ctx) (s : State) (pc : DWord) (hc : Canon c.s) (hs : Canon s) : CanonAfter (Ctx.departTo c s pc) := by
  unfold Ctx.departTo
  try dsimp only
  repeat' first
    | with_reducible (first
        | assumption | apply State.leave_canon | apply State.markRetired_canon | apply State.checkBars_canon
        | apply State.forgetEarly_canon | apply State.setFrag_canon | apply canonAfter_next)


theorem State.newPan_canon (s : State) (c : Ctx) (key : DWord) (n : ℕ) (m : ℕ) (u : List DWord) (xs : List Filed) (fl : BitVec 6) (ml :
    BitVec 6) (hs : Canon s) (hc : Canon c.s) : Canon (State.newPan s c key n m u xs fl ml) := by
  unfold State.newPan
  try dsimp only
  repeat' first
    | with_reducible (first
        | assumption | apply State.fresh_canon | apply State.modWork_canon)


theorem Ctx.file_canon (c : Ctx) (n : BitVec 5) (m : BitVec 5) (hc : Canon c.s) : CanonAfter (Ctx.file c n m) := by
  unfold Ctx.file
  try dsimp only
  repeat' first
    | with_reducible (first
        | assumption | apply State.newPan_canon | apply Ctx.departTo_canon | apply State.markRetired_canon
        | apply Ctx.park_canon | apply Ctx.trap_canon | apply State.setPan_canon | apply State.setFrag_canon
        | apply canonAfter_next)
    | intro _ | split

theorem spawnLane_canon (c : Ctx) (key : DWord) (s : State) (l : ℕ) (hc : Canon c.s) (hs : Canon s) : Canon (spawnLane c key s l).1 := by
  unfold spawnLane
  try dsimp only
  repeat' first
    | with_reducible (first
        | assumption | apply State.newPan_canon | apply State.fresh_canon | apply State.setPan_canon)
    | intro _ | split

theorem spawnLane_canon_eq {x__ : _} {t__ : State} {c : Ctx} {key : DWord} {s : State} {l : ℕ} (hc : Canon c.s) (hs : Canon s) (h__ :
    (spawnLane c key s l) = (t__, x__)) : Canon t__ := by
  have := spawnLane_canon c key s l hc hs; rw [h__] at this; exact this

theorem State.adoptStores_canon (s : State) (b : ℕ) (w : Warp) (frag : ℕ) (hs : Canon s) : Canon (State.adoptStores s b w frag) := by
  unfold State.adoptStores
  try dsimp only
  repeat' first
    | with_reducible (first
        | assumption | apply State.cutEntries_canon | apply State.modBlock_canon)


theorem Ctx.fullFence_canon (c : Ctx) (s : State) (scope : BitVec 3) (cmask : BitVec 8) (lanes : Mask) (hc : Canon c.s) (hs : Canon s) :
    Canon (Ctx.fullFence c s scope cmask lanes) := by
  unfold Ctx.fullFence
  try dsimp only
  repeat' first
    | with_reducible (first
        | assumption | apply State.reveal_canon | apply State.forgetEarly_canon)


theorem Ctx.readHome_canon (c : Ctx) (mask : Mask) (xs : List LaneAcc) (n : ℕ) (k : Ctx → State → List Byte → LaneOk → Out) (hc : Canon
    c.s) (hk : ∀ (c : Ctx) (s : State) y z, Canon c.s → Canon s → CanonAfter (k c s y z)) : CanonAfter (Ctx.readHome c mask xs n k) := by
  unfold Ctx.readHome
  try dsimp only
  repeat' first
    | with_reducible (first
        | assumption | apply hk | apply Ctx.settled_canon | apply Ctx.homeOk_canon | apply Ctx.resolve_canon
        | apply canonAfter_next)
    | intro _ | split

theorem Ctx.payRel_canon (c : Ctx) (s : State) (cost : List (BitVec 11 × ℕ)) (hc : Canon c.s) (hs : Canon s) : Canon (Ctx.payRel c s
    cost).1 := by
  unfold Ctx.payRel
  try dsimp only
  repeat' first
    | with_reducible (first
        | assumption | apply State.pay_canon | apply State.refund_canon)
    | intro _ | split

theorem Ctx.payRel_canon_eq {x__ : _} {t__ : State} {c : Ctx} {s : State} {cost : List (BitVec 11 × ℕ)} (hc : Canon c.s) (hs : Canon s)
    (h__ : (Ctx.payRel c s cost) = (t__, x__)) : Canon t__ := by
  have := Ctx.payRel_canon c s cost hc hs; rw [h__] at this; exact this

theorem Ctx.release_canon (c : Ctx) (scope : BitVec 3) (sync : DWord) (cost : List (BitVec 11 × ℕ)) (go : Ctx → Out) (hc : Canon c.s) (hgo
    : ∀ c : Ctx, Canon c.s → CanonAfter (go c)) : CanonAfter (Ctx.release c scope sync cost go) := by
  unfold Ctx.release
  dsimp only
  have h1 := State.startFor_canon _ c.b.id (fun (e : Entry) => e.pieces.any (fun x => x.boundOf sync (c.w.serials c.act)))
    (State.releaseWhere_canon _ c.b.id (fun (e : Entry) => e.pieces.any (fun x => x.boundOf sync (c.w.serials c.act)))
    (State.startDrain_canon _ c.b.id (State.fenceWork_canon c.s c.b.id c.g.job scope 0xFF (c.w.serials c.act) hc)))
  generalize State.startFor _ _ _ = s1 at h1 ⊢
  split
  · have h2 := Ctx.payRel_canon c s1 cost hc h1
    split
    · rename_i heq
      rw [heq] at h2
      exact Ctx.parkIn_canon _ _ _ hc h2
    · rename_i heq
      rw [heq] at h2
      refine ite_canonAfter ?_ ?_
      · exact Ctx.waitIn_canon _ _ hc (State.setFrag_canon _ _ (State.publishHeld_canon _ _ _ (State.cutEntries_canon _ _ _ h2)))
      · exact hgo _ (State.soil_canon _ _ (State.publish_canon _ _ _ _ _ h2))
  · exact Ctx.waitIn_canon _ _ hc h1

theorem Ctx.relRemote_canon (c : Ctx) (d : BitVec 11) (pa : ℕ) (scope : BitVec 3) (add : Bool) (v : DWord) (hc : Canon c.s) : CanonAfter
    (Ctx.relRemote c d pa scope add v) := by
  unfold Ctx.relRemote
  try dsimp only
  repeat' first
    | with_reducible (first
        | assumption | apply State.request_canon | apply Ctx.parkIn_canon)
    | intro _ | split

theorem Ctx.relLost_canon (c : Ctx) (va : DWord) (hc : Canon c.s) : Canon (Ctx.relLost c va) := by
  unfold Ctx.relLost
  try dsimp only
  repeat' first
    | with_reducible (first
        | assumption | apply State.modSync_canon)


theorem Ctx.barrier_canon (c : Ctx) (key : BarKey) (scope : BitVec 3) (b : BitVec 6) (hc : Canon c.s) : CanonAfter (Ctx.barrier c key
    scope b) := by
  unfold Ctx.barrier
  try dsimp only
  repeat' first
    | with_reducible (first
        | assumption | apply Ctx.fullFence_canon | apply Ctx.fence_canon | apply Ctx.retire_canon | apply Ctx.retireIn_canon
        | apply Ctx.trap_canon | apply State.completeBar_canon | apply State.putPhase_canon | apply State.setFrag_canon
        | apply canonAfter_next)
    | intro _ | split

theorem State.putByteBar_canon (s : State) (p : Place) (x : ByteBar) (hs : Canon s) : Canon (State.putByteBar s p x) := by
  unfold State.putByteBar
  try dsimp only
  repeat' first
    | with_reducible (first
        | assumption | apply State.performAt_canon)


theorem State.landBar_canon (s : State) (b : ℕ) (a : ℕ) (bytes : ℕ) (hs : Canon s) : Canon (State.landBar s b a bytes) := by
  unfold State.landBar
  try dsimp only
  repeat' first
    | with_reducible (first
        | assumption | apply State.putByteBar_canon)


theorem Ctx.withBar_canon (c : Ctx) (a : BitVec 6) (imm : BitVec 12) (go : Ctx → Place → Out) (hc : Canon c.s) (hgo : ∀ (c : Ctx) y, Canon
    c.s → CanonAfter (go c y)) : CanonAfter (Ctx.withBar c a imm go) := by
  unfold Ctx.withBar
  try dsimp only
  repeat' first
    | with_reducible (first
        | assumption | apply hgo | apply Ctx.settled_canon | apply Ctx.resolve_canon | apply Ctx.poisonBy_canon
        | apply canonAfter_next)
    | intro _ | split

theorem Ctx.countRange_canon (c : Ctx) (a : BitVec 6) (imm : BitVec 12) (hc : Canon c.s) : CanonAfter (Ctx.countRange c a imm) := by
  unfold Ctx.countRange
  try dsimp only
  repeat' first
    | with_reducible (first
        | assumption | apply Ctx.trapWith_canon)


theorem State.watch_canon (s : State) (p : Place) (frag : ℕ) (watchable : Bool) (hs : Canon s) : Canon (State.watch s p frag watchable) :=
    by
  unfold State.watch
  try dsimp only
  repeat' first
    | with_reducible (first
        | assumption | apply State.modSync_canon)
    | intro _ | split

theorem Ctx.setPin_canon (c : Ctx) (k : BitVec 3) (x : DWord) (hc : Canon c.s) : Canon (Ctx.setPin c k x) := by
  unfold Ctx.setPin
  try dsimp only
  repeat' first
    | with_reducible (first
        | assumption | apply State.wakeReclaim_canon | apply State.modWarp_canon)
    | intro _ | split

theorem Ctx.unboundDone_canon (c : Ctx) (go : Ctx → Out) (hc : Canon c.s) (hgo : ∀ c : Ctx, Canon c.s → CanonAfter (go c)) : CanonAfter
    (Ctx.unboundDone c go) := by
  unfold Ctx.unboundDone
  try dsimp only
  repeat' first
    | with_reducible (first
        | assumption | apply hgo | apply State.startFor_canon | apply State.arriveWhere_canon | apply State.releaseWhere_canon
        | apply Ctx.waitIn_canon | apply canonAfter_next)
    | intro _ | split

theorem State.setBittern_canon (s : State) (j : BitVec 16) (l : List DWord) (hs : Canon s) : Canon (State.setBittern s j l) := by
  unfold State.setBittern
  try dsimp only
  repeat' first
    | with_reducible (first
        | assumption | apply State.modWork_canon)


theorem Ctx.enqueue_canon (c : Ctx) (q : BitVec 3) (moves : List Move) (key : BitVec 16) (decrypt : Bool) (segTag : Option (BitVec 6))
    (waits : List ℕ) (fence : Option (BitVec 8)) (done : Done) (bytes : ℕ) (hc : Canon c.s) : CanonAfter (Ctx.enqueue c q moves key
    decrypt segTag waits fence done bytes) := by
  unfold Ctx.enqueue
  try dsimp only
  repeat' first
    | with_reducible (first
        | assumption | apply Ctx.retireIn_canon | apply State.fresh_canon | apply State.modBlock_canon)


theorem Ctx.copyBox_canon (c : Ctx) (t : Tlr) (dst : DWord) (coords : List ℕ) (store : Bool) (w : Bool) (q : BitVec 3) (ck : Ck) (e :
    BitVec 6) (box1 : ℕ) (box0 : ℕ) (hc : Canon c.s) : CanonAfter (Ctx.copyBox c t dst coords store w q ck e box1 box0) := by
  unfold Ctx.copyBox
  try dsimp only
  repeat' first
    | with_reducible (first
        | assumption | apply Ctx.enqueue_canon | apply Ctx.resolve_canon)
    | intro _

theorem State.agentByte_canon (s : State) (block : ℕ) (q : Place) (hs : Canon s) : Canon (State.agentByte s block q).2 := by
  unfold State.agentByte
  try dsimp only
  repeat' first
    | with_reducible (first
        | assumption | apply State.draw_canon)
    | intro _ | split

theorem State.agentByte_canon_eq {x__ : _} {t__ : State} {s : State} {block : ℕ} {q : Place} (hs : Canon s) (h__ : (State.agentByte s
    block q) = (x__, t__)) : Canon t__ := by
  have := State.agentByte_canon s block q hs; rw [h__] at this; exact this

theorem State.agentBytes_canon (s : State) (block : ℕ) (p : Place) (n : ℕ) (hs : Canon s) : Canon (State.agentBytes s block p n).2 := by
  unfold State.agentBytes
  try dsimp only
  repeat' first
    | with_reducible (first
        | assumption | apply State.agentByte_canon | apply foldl_canon_snd)
    | intro _ | split

theorem State.agentBytes_canon_eq {x__ : _} {t__ : State} {s : State} {block : ℕ} {p : Place} {n : ℕ} (hs : Canon s) (h__ :
    (State.agentBytes s block p n) = (x__, t__)) : Canon t__ := by
  have := State.agentBytes_canon s block p n hs; rw [h__] at this; exact this

theorem State.moveBytes_canon (s : State) (block : ℕ) (o : EngOp) (m : Move) (hs : Canon s) : Canon (State.moveBytes s block o m).2 := by
  unfold State.moveBytes
  try dsimp only
  repeat' first
    | with_reducible (first
        | assumption | apply State.agentBytes_canon)
    | intro _ | split

theorem State.moveBytes_canon_eq {x__ : _} {t__ : State} {s : State} {block : ℕ} {o : EngOp} {m : Move} (hs : Canon s) (h__ :
    (State.moveBytes s block o m) = (x__, t__)) : Canon t__ := by
  have := State.moveBytes_canon s block o m hs; rw [h__] at this; exact this

theorem State.tagSegs_canon (s : State) (o : EngOp) (tags : List (Move × BitVec 6)) (hs : Canon s) : Canon (State.tagSegs s o tags) := by
  unfold State.tagSegs
  try dsimp only
  repeat' first
    | with_reducible (first
        | assumption | apply State.modBlock_canon | apply foldl_canon)
    | intro _

theorem State.landSpan_canon (s : State) (y : Span) (bs : List Byte) (hs : Canon s) : Canon (State.landSpan s y bs) := by
  unfold State.landSpan
  try dsimp only
  repeat' first
    | with_reducible (first
        | assumption | apply State.wakeFull_canon | apply State.performAt_canon | apply State.modBlock_canon)
    | intro _ | split

theorem State.carryLines_canon (s : State) (src : Place) (dst : Place) (n : ℕ) (hs : Canon s) : Canon (State.carryLines s src dst n) := by
  unfold State.carryLines
  try dsimp only
  repeat' first
    | with_reducible (first
        | assumption | apply State.addPoison_canon | apply foldl_canon)
    | intro _ | split

theorem State.carryFar_canon (s : State) (moves : List Move) (dev : BitVec 11) (addr : ℕ) (hs : Canon s) : Canon (State.carryFar s moves
    dev addr) := by
  unfold State.carryFar
  try dsimp only
  repeat' first
    | with_reducible (first
        | assumption | apply State.addPoison_canon | apply foldl_canon)
    | intro _ | split

theorem State.carryPoison_canon (s : State) (moves : List Move) (hs : Canon s) : Canon (State.carryPoison s moves) := by
  unfold State.carryPoison
  try dsimp only
  repeat' first
    | with_reducible (first
        | assumption | apply State.carryLines_canon | apply foldl_canon)
    | intro _ | split

theorem State.dropOps_canon (s : State) (block : ℕ) (ops : List ℕ) (hs : Canon s) : Canon (State.dropOps s block ops) := by
  unfold State.dropOps
  try dsimp only
  repeat' first
    | with_reducible (first
        | assumption | apply State.modFab_canon)


theorem State.stopOp_canon (s : State) (block : ℕ) (op : ℕ) (hs : Canon s) : Canon (State.stopOp s block op) := by
  unfold State.stopOp
  try dsimp only
  repeat' first
    | with_reducible (first
        | assumption | apply State.dropOps_canon | apply State.modBlock_canon)


theorem State.engineError_canon (s : State) (b : Block) (o : EngOp) (carry : State → State) (hs : Canon s) (hcarry : ∀ s : State, Canon s
    → Canon (carry s)) : Canon (State.engineError s b o carry) := by
  unfold State.engineError
  try dsimp only
  repeat' first
    | with_reducible (first
        | assumption | apply hcarry | apply State.stopOp_canon | apply State.startTest_canon | apply State.logError_canon
        | apply State.rollback_canon | apply State.killBlock_canon | apply State.draw_canon)
    | intro _ | split

theorem State.modOp_canon (s : State) (b : ℕ) (q : BitVec 3) (op : ℕ) (g : EngOp → EngOp) (hs : Canon s) : Canon (State.modOp s b q op g)
    := by
  unfold State.modOp
  try dsimp only
  repeat' first
    | with_reducible (first
        | assumption | apply State.modBlock_canon)


theorem State.countAt_canon (s : State) (p : Place) (hs : Canon s) : Canon (State.countAt s p) := by
  unfold State.countAt
  try dsimp only
  repeat' first
    | with_reducible (first
        | assumption | apply State.performAt_canon)


theorem State.completeOp_canon (s : State) (b : Block) (job : BitVec 16) (q : BitVec 3) (o : EngOp) (hs : Canon s) : Canon
    (State.completeOp s b job q o) := by
  unfold State.completeOp
  try dsimp only
  repeat' first
    | with_reducible (first
        | assumption | apply State.countAt_canon | apply State.landBar_canon | apply State.engineRequest_canon
        | apply State.draw_canon | apply State.modBlock_canon)
    | intro _ | split

theorem State.writeOp_canon (s : State) (b : Block) (job : BitVec 16) (q : BitVec 3) (o : EngOp) (hs : Canon s) : Canon (State.writeOp s b
    job q o) := by
  unfold State.writeOp
  try dsimp only
  repeat' first
    | with_reducible (first
        | assumption | apply State.landSpan_canon | apply State.tagSegs_canon | apply State.moveBytes_canon
        | apply State.engineRequest_canon | apply State.soil_canon | apply State.drawN_canon | apply foldl_canon
        | apply foldl_canon_snd)
    | intro _ | split

theorem State.writeArea_canon (s : State) (job : BitVec 16) (va : DWord) (bs : List Byte) (hs : Canon s) : Canon (State.writeArea s job va
    bs) := by
  unfold State.writeArea
  try dsimp only
  repeat' first
    | with_reducible (first
        | assumption | apply State.performAt_canon | apply foldl_canon)
    | intro _ | split

theorem State.readImage_canon (s : State) (b : Block) (job : BitVec 16) (hs : Canon s) : Canon (State.readImage s b job) := by
  unfold State.readImage
  try dsimp only
  repeat' first
    | with_reducible (first
        | assumption | apply State.putPhase_canon | apply State.modBlock_canon | apply State.setPan_canon
        | apply State.setWarp_canon | apply State.setFrag_canon | apply foldl_canon | apply foldl_canon_fst)
    | intro _ | split

theorem State.imageRead_canon (s : State) (block : ℕ) (hs : Canon s) : Canon (State.imageRead s block) := by
  unfold State.imageRead
  try dsimp only
  repeat' first
    | with_reducible (first
        | assumption | apply State.readImage_canon)
    | intro _ | split

theorem State.throughImage_canon (s : State) (block : ℕ) (g : State → State) (hs : Canon s) (hg : ∀ s : State, Canon s → Canon (g s)) :
    Canon (State.throughImage s block g) := by
  unfold State.throughImage
  try dsimp only
  repeat' first
    | with_reducible (first
        | assumption | apply hg | apply State.imageRead_canon | apply State.writeArea_canon)
    | intro _ | split

theorem State.modReturns_canon (s : State) (dev : BitVec 11) (g : Returns → Returns) (hs : Canon s) : Canon (State.modReturns s dev g) := by
  unfold State.modReturns
  try dsimp only
  repeat' first
    | with_reducible (first
        | assumption | apply State.modFab_canon)


theorem State.dropPacket_canon (s : State) (hs : Canon s) : Canon (State.dropPacket s) := by
  unfold State.dropPacket
  try dsimp only
  repeat' first
    | with_reducible (first
        | assumption | apply State.modFab_canon)


theorem State.ingress_canon (s : State) (p : Arrival) (cls : BitVec 2) (data : ℕ) (k : State → State) (hs : Canon s) (hk : ∀ s : State,
    Canon s → Canon (k s)) : CanonAfter (State.ingress s p cls data k) := by
  unfold State.ingress
  try dsimp only
  repeat' first
    | with_reducible (first
        | assumption | apply hk | apply State.dropPacket_canon | apply State.modReturns_canon | apply State.returnFlits_canon
        | apply canonAfter_next)
    | intro _ | split

theorem State.reply_canon (s : State) (p : Arrival) (mk : Arrival → Instr) (hs : Canon s) : Canon (State.reply s p mk) := by
  unfold State.reply
  try dsimp only
  repeat' first
    | with_reducible (first
        | assumption | apply State.send_canon)


theorem State.answer_canon (s : State) (p : Arrival) (tag : BitVec 12) (st : BitVec 8) (hs : Canon s) : Canon (State.answer s p tag st) :=
    by
  unfold State.answer
  try dsimp only
  repeat' first
    | with_reducible (first
        | assumption | apply State.reply_canon)


theorem State.homeBytes_canon (s : State) (a : ℕ) (n : ℕ) (hs : Canon s) : Canon (State.homeBytes s a n).2 := by
  unfold State.homeBytes
  try dsimp only
  repeat' first
    | with_reducible (first
        | assumption | apply State.agentBytes_canon)


theorem State.homeBytes_canon_eq {x__ : _} {t__ : State} {s : State} {a : ℕ} {n : ℕ} (hs : Canon s) (h__ : (State.homeBytes s a n) = (x__,
    t__)) : Canon t__ := by
  have := State.homeBytes_canon s a n hs; rw [h__] at this; exact this

theorem State.writeMasked_canon (s : State) (base : Place) (bs : List (ℕ × Byte)) (hs : Canon s) : Canon (State.writeMasked s base bs) := by
  unfold State.writeMasked
  try dsimp only
  repeat' first
    | with_reducible (first
        | assumption | apply State.performAt_canon | apply State.clearWritten_canon | apply foldl_canon)
    | intro _

theorem State.dropRequest_canon (s : State) (r : Request) (hs : Canon s) : Canon (State.dropRequest s r) := by
  unfold State.dropRequest
  try dsimp only
  repeat' first
    | with_reducible (first
        | assumption | apply State.modFab_canon)


theorem State.wakeReplied_canon (s : State) (frag : ℕ) (hs : Canon s) : Canon (State.wakeReplied s frag) := by
  unfold State.wakeReplied
  try dsimp only
  repeat' first
    | with_reducible (first
        | assumption | apply State.modFrag_canon)
    | intro _ | split

theorem State.addReplies_canon (s : State) (frag : ℕ) (rs : List Reply) (hs : Canon s) : Canon (State.addReplies s frag rs) := by
  unfold State.addReplies
  try dsimp only
  repeat' first
    | with_reducible (first
        | assumption | apply State.wakeReplied_canon | apply State.throughImage_canon | apply State.modFrag_canon)
    | intro _ | split

theorem State.engineAnswer_canon (s : State) (r : Request) (block : ℕ) (queue : ℕ) (op : ℕ) (st : BitVec 8) (bytes : List Byte) (hs :
    Canon s) : Canon (State.engineAnswer s r block queue op st bytes) := by
  unfold State.engineAnswer
  try dsimp only
  repeat' first
    | with_reducible (first
        | assumption | apply State.modOp_canon | apply State.engineError_canon | apply State.stopOp_canon
        | apply State.carryFar_canon | apply State.killBlock_canon)
    | intro _ | split

theorem State.collFetched_canon (s : State) (sgid : BitVec 12) (pair : ℕ) (dev : BitVec 11) (addr : ℕ) (st : BitVec 8) (bytes : List Byte)
    (hs : Canon s) : Canon (State.collFetched s sgid pair dev addr st bytes) := by
  unfold State.collFetched
  try dsimp only
  repeat' first
    | with_reducible (first
        | assumption | apply State.modColl_canon)


theorem State.collWritten_canon (s : State) (sgid : BitVec 12) (pair : ℕ) (st : BitVec 8) (hs : Canon s) : Canon (State.collWritten s sgid
    pair st) := by
  unfold State.collWritten
  try dsimp only
  repeat' first
    | with_reducible (first
        | assumption | apply State.modColl_canon)


theorem State.recordAnswered_canon (s : State) (id : ℕ) (hs : Canon s) : Canon (State.recordAnswered s id) := by
  unfold State.recordAnswered
  try dsimp only
  repeat' first
    | with_reducible (first
        | assumption | apply State.modWork_canon)


theorem State.modDelivery_canon (s : State) (tag : BitVec 12) (g : Delivery → Option Delivery) (hs : Canon s) : Canon (State.modDelivery s
    tag g) := by
  unfold State.modDelivery
  try dsimp only
  repeat' first
    | with_reducible (first
        | assumption | apply State.modSync_canon)


theorem State.failedRank_canon (s : State) (d : Delivery) (silent : Option (BitVec 11)) (hs : Canon s) : Canon (State.failedRank s d
    silent).2 := by
  unfold State.failedRank
  try dsimp only
  repeat' first
    | with_reducible (first
        | assumption | apply State.draw_canon)
    | intro _ | split

theorem State.failedRank_canon_eq {x__ : _} {t__ : State} {s : State} {d : Delivery} {silent : Option (BitVec 11)} (hs : Canon s) (h__ :
    (State.failedRank s d silent) = (x__, t__)) : Canon t__ := by
  have := State.failedRank_canon s d silent hs; rw [h__] at this; exact this

theorem State.failDelivery_canon (s : State) (tag : BitVec 12) (silent : optParam (Option (BitVec 11)) none) (hs : Canon s) : Canon
    (State.failDelivery s tag silent) := by
  unfold State.failDelivery
  try dsimp only
  repeat' first
    | with_reducible (first
        | assumption | apply State.failedRank_canon | apply State.modDelivery_canon | apply State.modWarp_canon
        | apply foldl_canon)
    | intro _ | split

theorem State.replied_canon (s : State) (p : Arrival) (tag : BitVec 12) (st : BitVec 8) (k : State → Request → State) (hs : Canon s) (hk :
    ∀ (s : State) y, Canon s → Canon (k s y)) : Canon (State.replied s p tag st k) := by
  unfold State.replied
  try dsimp only
  repeat' first
    | with_reducible (first
        | assumption | apply hk | apply State.dropRequest_canon | apply State.dropPacket_canon)
    | intro _ | split

theorem State.restartAllowance_canon (s : State) (lost : Bool) (dev : BitVec 11) (hs : Canon s) : Canon (State.restartAllowance s lost
    dev) := by
  unfold State.restartAllowance
  try dsimp only
  repeat' first
    | with_reducible (first
        | assumption | apply State.flushEngines_canon | apply State.modAllowance_canon | apply State.clearCovered_canon)
    | intro _ | split

theorem State.endHolds_canon (s : State) (lost : Bool) (done : InjectHold → Bool) (hs : Canon s) : Canon (State.endHolds s lost done) := by
  unfold State.endHolds
  try dsimp only
  repeat' first
    | with_reducible (first
        | assumption | apply State.restartAllowance_canon | apply State.flush_canon | apply State.modFab_canon
        | apply foldl_canon)
    | intro _ | split

theorem State.restrict_canon (s : State) (port : ℕ) (missing : List ℕ) (hs : Canon s) : Canon (State.restrict s port missing) := by
  unfold State.restrict
  try dsimp only
  repeat' first
    | with_reducible (first
        | assumption | apply State.flush_canon | apply State.clearCovered_canon | apply State.modFw_canon
        | apply State.modFab_canon | apply foldl_canon)


theorem State.dieReply_canon (s : State) (tag : BitVec 12) (bytes : List Byte) (poison : List Bool) (hs : Canon s) : Canon (State.dieReply
    s tag bytes poison) := by
  unfold State.dieReply
  try dsimp only
  repeat' first
    | with_reducible (first
        | assumption | apply State.modRepair_canon)


theorem State.readLines_canon (s : State) (tag : BitVec 12) (a : ℕ) (n : ℕ) (hs : Canon s) : Canon (State.readLines s tag a n) := by
  unfold State.readLines
  try dsimp only
  repeat' first
    | with_reducible (first
        | assumption | apply State.dieReply_canon)


theorem Ctx.multiply_canon (c : Ctx) (s : State) (d : BitVec 2) (a : BitVec 2) (zero : Bool) (af : BitVec 4) (brow : ℕ → List Fv) (hc :
    Canon c.s) (hs : Canon s) : CanonAfter (Ctx.multiply c s d a zero af brow) := by
  unfold Ctx.multiply
  try dsimp only
  repeat' first
    | with_reducible (first
        | assumption | apply Ctx.retireIn_canon)


theorem Ctx.readB_canon (c : Ctx) (ok : List LaneOk) (hc : Canon c.s) : Canon (Ctx.readB c ok).2 := by
  unfold Ctx.readB
  try dsimp only
  repeat' first
    | with_reducible (first
        | assumption | apply State.loadBytes_canon | apply foldl_canon_snd)
    | intro _

theorem Ctx.readB_canon_eq {x__ : _} {t__ : State} {c : Ctx} {ok : List LaneOk} (hc : Canon c.s) (h__ : (Ctx.readB c ok) = (x__, t__)) :
    Canon t__ := by
  have := Ctx.readB_canon c ok hc; rw [h__] at this; exact this

theorem Ctx.fetchB_canon (c : Ctx) (xs : List LaneAcc) (k : State → List (ℕ × List Byte) → Out) (hc : Canon c.s) (hk : ∀ (s : State) y,
    Canon s → CanonAfter (k s y)) : CanonAfter (Ctx.fetchB c xs k) := by
  unfold Ctx.fetchB
  try dsimp only
  repeat' first
    | with_reducible (first
        | assumption | apply hk | apply Ctx.readB_canon | apply Ctx.replyTrap_canon | apply Ctx.fetchLines_canon
        | apply Ctx.resolveRead_canon | apply Ctx.poisonCheck_canon)
    | intro _

theorem Ctx.mmaW_canon (c : Ctx) (gang : Bool) (d : BitVec 2) (a : BitVec 2) (zero : Bool) (addr : DWord) (bf : BitVec 4) (af : BitVec 4)
    (hc : Canon c.s) : CanonAfter (Ctx.mmaW c gang d a zero addr bf af) := by
  unfold Ctx.mmaW
  try dsimp only
  repeat' first
    | with_reducible (first
        | assumption | apply Ctx.fetchB_canon | apply Ctx.multiply_canon | apply Ctx.retireIn_canon)
    | intro _ | split

theorem Ctx.mmaTlr_canon (c : Ctx) (t : Tlr) (d : BitVec 2) (a : BitVec 2) (zero : Bool) (va : DWord) (coords : DWord) (bf : BitVec 4) (af
    : BitVec 4) (hc : Canon c.s) : CanonAfter (Ctx.mmaTlr c t d a zero va coords bf af) := by
  unfold Ctx.mmaTlr
  try dsimp only
  repeat' first
    | with_reducible (first
        | assumption | apply Ctx.fetchB_canon | apply Ctx.multiply_canon)
    | intro _

theorem Ctx.mma_canon (c : Ctx) (zero : Bool) (d : BitVec 2) (a : BitVec 2) (b : BitVec 6) (e : BitVec 6) (bsrc : BSrc) (bf : BitVec 4)
    (af : BitVec 4) (hc : Canon c.s) : CanonAfter (Ctx.mma c zero d a b e bsrc bf af) := by
  unfold Ctx.mma
  try dsimp only
  repeat' first
    | with_reducible (first
        | assumption | apply Ctx.mmaTlr_canon | apply Ctx.mmaW_canon | apply Ctx.multiply_canon | apply Ctx.loadLanes_canon
        | apply Ctx.retire_canon | apply Ctx.trapWith_canon)
    | intro _ | split

theorem State.setColl_canon (s : State) (k : Coll) (hs : Canon s) : Canon (State.setColl s k) := by
  unfold State.setColl
  try dsimp only
  repeat' first
    | with_reducible (first
        | assumption | apply State.modColl_canon)


theorem State.sendStep_canon (s : State) (k : Coll) (to' : ℕ) (stype : BitVec 8) (c : ℕ) (step : ℕ) (flags : BitVec 5) (bs : List Byte)
    (hs : Canon s) : Canon (State.sendStep s k to' stype c step flags bs) := by
  unfold State.sendStep
  try dsimp only
  repeat' first
    | with_reducible (first
        | assumption | apply State.engineRequest_canon | apply foldl_canon)
    | intro _ | split

theorem State.sendTuple_canon (s : State) (k : Coll) (hs : Canon s) : Canon (State.sendTuple s k) := by
  unfold State.sendTuple
  try dsimp only
  repeat' first
    | with_reducible (first
        | assumption | apply State.engineRequest_canon | apply foldl_canon)
    | intro _ | split

theorem State.startTide_canon (s : State) (k : Coll) (hs : Canon s) : Canon (State.startTide s k) := by
  unfold State.startTide
  try dsimp only
  repeat' first
    | with_reducible (first
        | assumption | apply State.send_canon | apply State.modColl_canon | apply foldl_canon)
    | intro _ | split

theorem State.endColl_canon (s : State) (k : Coll) (status : ℕ) (failed : DWord) (hs : Canon s) : Canon (State.endColl s k status failed)
    := by
  unfold State.endColl
  try dsimp only
  repeat' first
    | with_reducible (first
        | assumption | apply State.startTide_canon | apply State.performAt_canon | apply State.modColl_canon)
    | intro _ | split

theorem State.dropColl_canon (s : State) (k : Coll) (hs : Canon s) : Canon (State.dropColl s k) := by
  unfold State.dropColl
  try dsimp only
  repeat' first
    | with_reducible (first
        | assumption | apply State.modAllowance_canon | apply State.modFab_canon | apply foldl_canon)
    | intro _

theorem State.closeColl_canon (s : State) (k : Coll) (status : ℕ) (failed : DWord) (hs : Canon s) : Canon (State.closeColl s k status
    failed) := by
  unfold State.closeColl
  try dsimp only
  repeat' first
    | with_reducible (first
        | assumption | apply State.dropColl_canon | apply State.endColl_canon | apply State.setColl_canon)
    | intro _ | split

theorem State.landDst_canon (s : State) (k : Coll) (off : ℕ) (bs : List Byte) (hs : Canon s) : Canon (State.landDst s k off bs) := by
  unfold State.landDst
  try dsimp only
  repeat' first
    | with_reducible (first
        | assumption | apply State.engineRequest_canon | apply State.performAt_canon | apply foldl_canon)
    | intro _ | split

theorem State.landBarrier_canon (s : State) (k : Coll) (c : ℕ) (n : ℕ) (hs : Canon s) : Canon (State.landBarrier s k c n) := by
  unfold State.landBarrier
  try dsimp only
  repeat' first
    | with_reducible (first
        | assumption | apply State.throughImage_canon | apply State.landBar_canon)
    | intro _ | split

theorem State.landReady_canon (s : State) (sgid : BitVec 12) (pair : ℕ) (a : ℕ) (hs : Canon s) : Canon (State.landReady s sgid pair a) := by
  induction a generalizing s with
  | zero => exact hs
  | succ n ih =>
    unfold State.landReady
    repeat' first
    | with_reducible (first
        | assumption | apply ih | apply State.landBarrier_canon | apply State.landDst_canon | apply State.setColl_canon)
    | intro _ | split

theorem State.endLanding_canon (s : State) (k : Coll) (hs : Canon s) : Canon (State.endLanding s k) := by
  unfold State.endLanding
  try dsimp only
  repeat' first
    | with_reducible (first
        | assumption | apply State.landBarrier_canon | apply State.setColl_canon)
    | intro _ | split

theorem State.progress_canon (s : State) (sgid : BitVec 12) (pair : ℕ) (hs : Canon s) : Canon (State.progress s sgid pair) := by
  unfold State.progress
  try dsimp only
  repeat' first
    | with_reducible (first
        | assumption | apply State.endLanding_canon | apply State.landReady_canon | apply State.endColl_canon)
    | intro _ | split

theorem State.makeReady_canon (s : State) (k : Coll) (c : ℕ) (bs : List Byte) (fl : BitVec 5) (hs : Canon s) : Canon (State.makeReady s k
    c bs fl) := by
  unfold State.makeReady
  try dsimp only
  repeat' first
    | with_reducible (first
        | assumption | apply State.setColl_canon)
    | intro _ | split

theorem State.ownerResult_canon (s : State) (k : Coll) (c : ℕ) (bs : List Byte) (fl : BitVec 5) (hs : Canon s) : Canon (State.ownerResult
    s k c bs fl) := by
  unfold State.ownerResult
  try dsimp only
  repeat' first
    | with_reducible (first
        | assumption | apply State.makeReady_canon | apply State.sendStep_canon)
    | intro _ | split

theorem State.takeStep_canon (s : State) (k : Coll) (stype : BitVec 8) (c : ℕ) (step : ℕ) (bs : List Byte) (fl : BitVec 5) (hs : Canon s)
    : Canon (State.takeStep s k stype c step bs fl) := by
  unfold State.takeStep
  try dsimp only
  repeat' first
    | with_reducible (first
        | assumption | apply State.ownerResult_canon | apply State.makeReady_canon | apply State.sendStep_canon)
    | intro _ | split

theorem State.onStep_canon (s : State) (k : Coll) (m : CStep) (hs : Canon s) : Canon (State.onStep s k m) := by
  unfold State.onStep
  try dsimp only
  repeat' first
    | with_reducible (first
        | assumption | apply State.takeStep_canon | apply State.progress_canon | apply State.setColl_canon)
    | intro _ | split

theorem State.askSrc_canon (s : State) (k : Coll) (hs : Canon s) : Canon (State.askSrc s k) := by
  unfold State.askSrc
  try dsimp only
  repeat' first
    | with_reducible (first
        | assumption | apply State.setColl_canon | apply State.engineRequest_canon | apply foldl_canon)
    | intro _

theorem State.readSrc_canon (s : State) (k : Coll) (hs : Canon s) : Canon (State.readSrc s k).2 := by
  unfold State.readSrc
  try dsimp only
  repeat' first
    | with_reducible (first
        | assumption | apply State.agentBytes_canon | apply foldl_canon_snd)
    | intro _ | split

theorem State.readSrc_canon_eq {x__ : _} {t__ : State} {s : State} {k : Coll} (hs : Canon s) (h__ : (State.readSrc s k) = (x__, t__)) :
    Canon t__ := by
  have := State.readSrc_canon s k hs; rw [h__] at this; exact this

theorem State.firstSteps_canon (s : State) (k : Coll) (hs : Canon s) : Canon (State.firstSteps s k) := by
  unfold State.firstSteps
  try dsimp only
  repeat' first
    | with_reducible (first
        | assumption | apply State.ownerResult_canon | apply State.makeReady_canon | apply State.sendStep_canon
        | apply foldl_canon)
    | intro _ | split

theorem State.poisonDst_canon (s : State) (k : Coll) (hs : Canon s) : Canon (State.poisonDst s k) := by
  unfold State.poisonDst
  try dsimp only
  repeat' first
    | with_reducible (first
        | assumption | apply State.carryPoison_canon | apply foldl_canon)
    | intro _

theorem State.spoilDst_canon (s : State) (k : Coll) (hs : Canon s) : Canon (State.spoilDst s k) := by
  unfold State.spoilDst
  try dsimp only
  repeat' first
    | with_reducible (first
        | assumption | apply State.performAt_canon | apply State.drawN_canon | apply foldl_canon)
    | intro _ | split

theorem State.failColl_canon (s : State) (k : Coll) (failed : List ℕ) (hs : Canon s) : Canon (State.failColl s k failed) := by
  unfold State.failColl
  try dsimp only
  repeat' first
    | with_reducible (first
        | assumption | apply State.spoilDst_canon | apply State.closeColl_canon)


theorem State.startColl_canon (s : State) (k : Coll) (hs : Canon s) : Canon (State.startColl s k) := by
  unfold State.startColl
  try dsimp only
  repeat' first
    | with_reducible (first
        | assumption | apply State.failColl_canon | apply State.poisonDst_canon | apply State.firstSteps_canon
        | apply State.readSrc_canon | apply State.askSrc_canon | apply State.onStep_canon | apply State.progress_canon
        | apply State.setColl_canon | apply foldl_canon)
    | intro _ | split

theorem State.kickColl_canon (s : State) (k : Coll) (hs : Canon s) : Canon (State.kickColl s k) := by
  unfold State.kickColl
  try dsimp only
  repeat' first
    | with_reducible (first
        | assumption | apply State.startColl_canon | apply State.failColl_canon | apply State.progress_canon
        | apply State.endColl_canon)
    | intro _ | split

theorem State.kickColls_canon (s : State) (hs : Canon s) : Canon (State.kickColls s) := by
  unfold State.kickColls
  try dsimp only
  repeat' first
    | with_reducible (first
        | assumption | apply State.kickColl_canon | apply foldl_canon)
    | intro _ | split

theorem Ctx.openColl_canon (c : Ctx) (p : CollParams) (g : Group) (src : List Span) (dst : List Span) (hc : Canon c.s) : CanonAfter
    (Ctx.openColl c p g src dst) := by
  unfold Ctx.openColl
  try dsimp only
  repeat' first
    | with_reducible (first
        | assumption | apply State.kickColls_canon | apply State.sendTuple_canon | apply State.startDrain_canon
        | apply Ctx.retireIn_canon | apply State.performAt_canon | apply State.soil_canon | apply State.modColl_canon)


theorem Ctx.collWait_canon (c : Ctx) (s : State) (d : BitVec 6) (va : DWord) (y : LaneOk) (rec' : List Byte) (hc : Canon c.s) (hs : Canon
    s) : CanonAfter (Ctx.collWait c s d va y rec') := by
  unfold Ctx.collWait
  try dsimp only
  repeat' first
    | with_reducible (first
        | assumption | apply State.watch_canon | apply Ctx.retireIn_canon | apply Ctx.parkIn_canon | apply Ctx.trapWith_canon
        | apply State.forgetEarly_canon)
    | intro _ | split

theorem State.setTide_canon (s : State) (p : TideHold → Bool) (t0 : TideHold → ℕ) (hs : Canon s) : Canon (State.setTide s p t0) := by
  unfold State.setTide
  try dsimp only
  repeat' first
    | with_reducible (first
        | assumption | apply State.modColl_canon)


theorem State.hostRead_canon (s : State) (port : ℕ) (host : ℕ) (o : ℕ) (n : ℕ) (hs : Canon s) : Canon (State.hostRead s port host o n) := by
  unfold State.hostRead
  try dsimp only
  repeat' first
    | with_reducible (first
        | assumption | apply State.modFw_canon)
    | intro _ | split

theorem State.extendM_canon (s : State) (hs : Canon s) : Canon (State.extendM s) := by
  unfold State.extendM
  try dsimp only
  repeat' first
    | with_reducible (first
        | assumption | apply State.drawN_canon | apply State.modFw_canon)
    | intro _ | split

theorem State.afterReset_canon (s : State) (warm : Bool) (hs : Canon s) : Canon (State.afterReset s warm) := by
  unfold State.afterReset
  cases warm
  · exact Memory.wf_nil
  · exact hs

theorem State.fabReady_canon (s : State) (hs : Canon s) : Canon (State.fabReady s) := by
  unfold State.fabReady
  try dsimp only
  repeat' first
    | with_reducible (first
        | assumption | apply State.modFw_canon)


theorem State.fetchWord_canon (s : State) (job : BitVec 16) (va : DWord) (hs : Canon s) : Canon (State.fetchWord s job va).2 := by
  unfold State.fetchWord
  try dsimp only
  repeat' first
    | with_reducible (first
        | assumption | apply State.draw_canon)
    | intro _ | split

theorem State.fetchWord_canon_eq {x__ : _} {t__ : State} {s : State} {job : BitVec 16} {va : DWord} (hs : Canon s) (h__ : (State.fetchWord
    s job va) = (x__, t__)) : Canon t__ := by
  have := State.fetchWord_canon s job va hs; rw [h__] at this; exact this

theorem State.fetchPacket_canon (s : State) (job : BitVec 16) (va : DWord) (hs : Canon s) : Canon (State.fetchPacket s job va).2 := by
  unfold State.fetchPacket
  try dsimp only
  repeat' first
    | with_reducible (first
        | assumption | apply State.fetchWord_canon)


theorem State.fetchPacket_canon_eq {x__ : _} {t__ : State} {s : State} {job : BitVec 16} {va : DWord} (hs : Canon s) (h__ :
    (State.fetchPacket s job va) = (x__, t__)) : Canon t__ := by
  have := State.fetchPacket_canon s job va hs; rw [h__] at this; exact this

theorem State.fetch_canon (s : State) (job : BitVec 16) (k : Kernel) (pc : DWord) (hs : Canon s) : Canon (State.fetch s job k pc).2 := by
  unfold State.fetch
  try dsimp only
  repeat' first
    | with_reducible (first
        | assumption | apply State.fetchPacket_canon)
    | intro _ | split

theorem State.fetch_canon_eq {x__ : _} {t__ : State} {s : State} {job : BitVec 16} {k : Kernel} {pc : DWord} (hs : Canon s) (h__ :
    (State.fetch s job k pc) = (x__, t__)) : Canon t__ := by
  have := State.fetch_canon s job k pc hs; rw [h__] at this; exact this

theorem State.drawDown_canon (s : State) (core : ℕ) (cost : ℤ) (hs : Canon s) : Canon (State.drawDown s core cost) := by
  unfold State.drawDown
  try dsimp only
  repeat' first
    | with_reducible (first
        | assumption | apply State.modPower_canon)


theorem State.dispatch_canon (s : State) (f : Frag) (core : ℕ) (i : Instr) (chainFault : Bool) (pipe : Pipe) (hs : Canon s) : Canon
    (State.dispatch s f core i chainFault pipe) := by
  unfold State.dispatch
  try dsimp only
  repeat' first
    | with_reducible assumption | intro _ | split | assumption

theorem State.notePacket_canon (s : State) (f : Frag) (retired : Bool) (hs : Canon s) : Canon (State.notePacket s f retired) := by
  unfold State.notePacket
  try dsimp only
  repeat' first
    | with_reducible assumption | intro _ | split | assumption

theorem State.stepTrap_canon (s : State) (f : Frag) (hs : Canon s) : Canon (State.stepTrap s f) := by
  unfold State.stepTrap
  try dsimp only
  repeat' first
    | with_reducible (first
        | assumption | apply State.takeTrap_canon)
    | intro _ | split

theorem State.leaveWaits_canon (s : State) (f : ℕ) (hs : Canon s) : Canon (State.leaveWaits s f) := by
  unfold State.leaveWaits
  try dsimp only
  repeat' first
    | with_reducible (first
        | assumption | apply State.forgetWaits_canon)
    | intro _ | split

theorem State.afterIssue_canon (s : State) (f : Frag) (hs : Canon s) : Canon (State.afterIssue s f) := by
  unfold State.afterIssue
  try dsimp only
  repeat' first
    | with_reducible (first
        | assumption | apply State.leaveWaits_canon | apply State.stepTrap_canon | apply State.notePacket_canon)
    | intro _ | split | assumption

theorem State.noteUnmatched_canon (before : State) (s : State) (w : Warp) (i : Instr) (hbefore : Canon before) (hs : Canon s) : Canon
    (State.noteUnmatched before s w i) := by
  unfold State.noteUnmatched
  try dsimp only
  repeat' first
    | with_reducible (first
        | assumption | apply State.modWork_canon)
    | intro _ | split

theorem State.mismatch_canon (s : State) (f : Frag) (w : Warp) (b : Block) (hs : Canon s) : Canon (State.mismatch s f w b) := by
  unfold State.mismatch
  try dsimp only
  repeat' first
    | with_reducible (first
        | assumption | apply State.consume_canon)
    | intro _ | split | assumption

theorem State.leading_canon (s : State) (f : Frag) (w : Warp) (b : Block) (i : Instr) (out : State) (hs : Canon s) (hout : Canon out) :
    Canon (State.leading s f w b i out) := by
  unfold State.leading
  try dsimp only
  repeat' first
    | with_reducible (first
        | assumption | apply State.mismatch_canon | apply State.noteUnmatched_canon | apply State.afterIssue_canon)
    | intro _ | split

theorem State.shadowStep_canon (s : State) (w : ℕ) (stall : Bool) (hs : Canon s) : Canon (State.shadowStep s w stall) := by
  unfold State.shadowStep
  try dsimp only
  repeat' first
    | with_reducible (first
        | assumption | apply State.modWork_canon)


theorem State.unwind_canon (s : State) (w : ℕ) (hs : Canon s) : Canon (State.unwind s w) := by
  unfold State.unwind
  try dsimp only
  repeat' first
    | with_reducible (first
        | assumption | apply State.dropFrags_canon | apply State.forgetEarly_canon | apply State.modWork_canon)
    | intro _ | split

theorem State.touchPage_canon (s : State) (k : Check) (hs : Canon s) : Canon (State.touchPage s k) := by
  unfold State.touchPage
  try dsimp only
  repeat' first
    | with_reducible (first
        | assumption | apply State.wantPage_canon)
    | intro _ | split

theorem Ctx.fpRetire_canon (c : Ctx) (fl : ℕ → Flags) (f : Frag) (hc : Canon c.s) : CanonAfter (Ctx.fpRetire c fl f) := by
  unfold Ctx.fpRetire
  try dsimp only
  repeat' first
    | with_reducible (first
        | assumption | apply Ctx.retire_canon | apply Ctx.trapWith_canon)
    | intro _ | split

theorem Ctx.fpVec_canon (c : Ctx) (d : BitVec 6) (g : ℕ → ℕ × Flags) (hc : Canon c.s) : CanonAfter (Ctx.fpVec c d g) := by
  unfold Ctx.fpVec
  try dsimp only
  repeat' first
    | with_reducible (first
        | assumption | apply Ctx.fpRetire_canon)


theorem Ctx.fpPred_canon (c : Ctx) (d : BitVec 3) (g : ℕ → Bool × Flags) (hc : Canon c.s) : CanonAfter (Ctx.fpPred c d g) := by
  unfold Ctx.fpPred
  try dsimp only
  repeat' first
    | with_reducible (first
        | assumption | apply Ctx.fpRetire_canon)


theorem fpBinary_canon (s : State) (h : Head) (d : BitVec 6) (a : BitVec 6) (b : BitVec 6) (rm : BitVec 2) (g : Fv → Fv → Fv) (hs : Canon
    s) : CanonAfter (fpBinary s h d a b rm g) := by
  unfold fpBinary
  try dsimp only
  repeat' first
    | with_reducible (first
        | assumption | apply Ctx.fpVec_canon | apply issue_canon)
    | intro _

theorem fpMinmax_canon (s : State) (h : Head) (d : BitVec 6) (a : BitVec 6) (b : BitVec 6) (mx : Bool) (hs : Canon s) : CanonAfter
    (fpMinmax s h d a b mx) := by
  unfold fpMinmax
  try dsimp only
  repeat' first
    | with_reducible (first
        | assumption | apply Ctx.fpVec_canon | apply issue_canon)
    | intro _

theorem halfBinary_canon (s : State) (h : Head) (d : BitVec 6) (a : BitVec 6) (b : BitVec 6) (f16 : Bool) (g : Fv → Fv → Fv) (hs : Canon
    s) : CanonAfter (halfBinary s h d a b f16 g) := by
  unfold halfBinary
  try dsimp only
  repeat' first
    | with_reducible (first
        | assumption | apply Ctx.fpVec_canon | apply issue_canon)
    | intro _

theorem halfMinmax_canon (s : State) (h : Head) (d : BitVec 6) (a : BitVec 6) (b : BitVec 6) (f16 : Bool) (mx : Bool) (hs : Canon s) :
    CanonAfter (halfMinmax s h d a b f16 mx) := by
  unfold halfMinmax
  try dsimp only
  repeat' first
    | with_reducible (first
        | assumption | apply Ctx.fpVec_canon | apply issue_canon)
    | intro _

theorem Ctx.withMembers_canon (c : Ctx) (mm : Bool) (ln : Bool) (e : BitVec 6) (go : Mask → Out) (hc : Canon c.s) (hgo : ∀ y, CanonAfter
    (go y)) : CanonAfter (Ctx.withMembers c mm ln e go) := by
  unfold Ctx.withMembers
  try dsimp only
  repeat' first
    | with_reducible (first
        | assumption | apply hgo | apply Ctx.trapWith_canon)
    | intro _ | split

theorem State.writeRecord_canon (s : State) (va : DWord) (p : Place) (bs : List Byte) (hs : Canon s) : Canon (State.writeRecord s va p bs)
    := by
  unfold State.writeRecord
  try dsimp only
  repeat' first
    | with_reducible (first
        | assumption | apply State.freshPartial_canon | apply State.performAt_canon)


theorem State.sendRecord_canon (s : State) (r : RecordWrite) (p : Place) (bs : List Byte) (hs : Canon s) : Canon (State.sendRecord s r p
    bs) := by
  unfold State.sendRecord
  try dsimp only
  repeat' first
    | with_reducible (first
        | assumption | apply State.engineRequest_canon | apply State.modWork_canon | apply foldl_canon)
    | intro _

theorem State.countEnded_canon (s : State) (queue : BitVec 12) (seq : ℕ) (ok : Bool) (lost : Bool) (hs : Canon s) : Canon
    (State.countEnded s queue seq ok lost) := by
  unfold State.countEnded
  try dsimp only
  repeat' first
    | with_reducible (first
        | assumption | apply State.setQueue_canon)
    | intro _ | split

theorem State.endGrid_canon (s : State) (g : Grid) (v : Verdict) (hs : Canon s) : Canon (State.endGrid s g v) := by
  unfold State.endGrid
  try dsimp only
  repeat' first
    | with_reducible (first
        | assumption | apply State.countEnded_canon | apply State.sendRecord_canon | apply State.writeRecord_canon
        | apply State.fresh_canon | apply State.modWork_canon)
    | intro _ | split

theorem State.releaseGrid_canon (s : State) (g : Grid) (hs : Canon s) : Canon (State.releaseGrid s g) := by
  unfold State.releaseGrid
  try dsimp only
  repeat' first
    | with_reducible (first
        | assumption | apply State.endGrid_canon | apply State.fresh_canon | apply State.setGrid_canon)
    | intro _ | split

theorem State.decideGrids_canon (s : State) (a : ℕ) (hs : Canon s) : Canon (State.decideGrids s a) := by
  induction a generalizing s with
  | zero => exact hs
  | succ n ih =>
    unfold State.decideGrids
    split
    · exact hs
    · refine ih _ ?_
      split
      · exact State.releaseGrid_canon _ _ hs
      · exact State.endGrid_canon _ _ _ hs

theorem State.settleGrids_canon (s : State) (hs : Canon s) : Canon (State.settleGrids s) := by
  unfold State.settleGrids
  try dsimp only
  repeat' first
    | with_reducible (first
        | assumption | apply State.decideGrids_canon)


theorem State.finishGrid_canon (s : State) (g : Grid) (v : Verdict) (hs : Canon s) : Canon (State.finishGrid s g v) := by
  unfold State.finishGrid
  try dsimp only
  repeat' first
    | with_reducible (first
        | assumption | apply State.settleGrids_canon | apply State.endGrid_canon)


theorem State.recordStep_canon (s : State) (id : ℕ) (hs : Canon s) : Canon (State.recordStep s id) := by
  unfold State.recordStep
  try dsimp only
  repeat' first
    | with_reducible (first
        | assumption | apply State.settleGrids_canon | apply State.countEnded_canon | apply State.sendRecord_canon
        | apply State.modWork_canon)
    | intro _ | split

theorem State.readHeader_canon (s : State) (job : BitVec 16) (va : DWord) (hs : Canon s) : Canon (State.readHeader s job va).2 := by
  unfold State.readHeader
  try dsimp only
  repeat' first
    | with_reducible (first
        | assumption | apply State.fetchWord_canon | apply foldl_canon_snd)
    | intro _

theorem State.readHeader_canon_eq {x__ : _} {t__ : State} {s : State} {job : BitVec 16} {va : DWord} (hs : Canon s) (h__ :
    (State.readHeader s job va) = (x__, t__)) : Canon t__ := by
  have := State.readHeader_canon s job va hs; rw [h__] at this; exact this

theorem State.freshN_canon (s : State) (n : ℕ) (hs : Canon s) : Canon (State.freshN s n).2 := by
  unfold State.freshN
  try dsimp only
  repeat' first
    | with_reducible assumption | intro _ | split | assumption

theorem State.freshN_canon_eq {x__ : _} {t__ : State} {s : State} {n : ℕ} (hs : Canon s) (h__ : (State.freshN s n) = (x__, t__)) : Canon
    t__ := by
  have := State.freshN_canon s n hs; rw [h__] at this; exact this

theorem State.placeBlock_canon (s : State) (g : Grid) (index : ℕ) (core : ℕ) (parts : List ℕ) (hs : Canon s) : Canon (State.placeBlock s g
    index core parts) := by
  unfold State.placeBlock
  try dsimp only
  repeat' first
    | with_reducible (first
        | assumption | apply State.freshN_canon | apply State.jobResident_canon | apply State.modWork_canon)


theorem State.dropHold_canon (s : State) (grid : ℕ) (gang : ℕ) (hs : Canon s) : Canon (State.dropHold s grid gang) := by
  unfold State.dropHold
  try dsimp only
  repeat' first
    | with_reducible (first
        | assumption | apply State.modWork_canon)


theorem State.noteFirst_canon (s : State) (hs : Canon s) : Canon (State.noteFirst s) := by
  unfold State.noteFirst
  try dsimp only
  repeat' first
    | with_reducible (first
        | assumption | apply State.modWork_canon)
    | intro _ | split

theorem State.restorePins_canon (s : State) (w : ℕ) (hs : Canon s) : Canon (State.restorePins s w) := by
  unfold State.restorePins
  try dsimp only
  repeat' first
    | with_reducible (first
        | assumption | apply State.modSync_canon | apply State.modWarp_canon)


theorem State.restore_canon (s : State) (block : ℕ) (hs : Canon s) : Canon (State.restore s block) := by
  unfold State.restore
  try dsimp only
  repeat' first
    | with_reducible (first
        | assumption | apply State.restorePins_canon | apply State.modWork_canon | apply State.modBlock_canon
        | apply foldl_canon)
    | intro _ | split

theorem State.resumeOne_canon (s : State) (g : Grid) (b : Block) (core : ℕ) (parts : List ℕ) (hs : Canon s) : Canon (State.resumeOne s g b
    core parts) := by
  unfold State.resumeOne
  try dsimp only
  repeat' first
    | with_reducible (first
        | assumption | apply State.jobResident_canon | apply State.modWarp_canon | apply State.modBlock_canon
        | apply State.setFrag_canon | apply foldl_canon)
    | intro _

theorem State.fillTlbs_canon (s : State) (core : ℕ) (job : BitVec 16) (page : DWord) (hs : Canon s) : Canon (State.fillTlbs s core job
    page) := by
  unfold State.fillTlbs
  try dsimp only
  repeat' first
    | with_reducible (first
        | assumption | apply State.drawN_canon | apply State.modMem_canon)
    | intro _

theorem State.takeTranslation_canon (s : State) (hs : Canon s) : Canon (State.takeTranslation s) := by
  unfold State.takeTranslation
  try dsimp only
  repeat' first
    | with_reducible (first
        | assumption | apply State.drawN_canon | apply State.modMem_canon)
    | intro _ | split

theorem State.sayFail_canon (s : State) (p : Arrival) (m : PageMsg) (g : Option Group) (hs : Canon s) : Canon (State.sayFail s p m g) := by
  unfold State.sayFail
  try dsimp only
  repeat' first
    | with_reducible (first
        | assumption | apply State.send_canon)


theorem State.sayBusy_canon (s : State) (p : Arrival) (g : Group) (m : PageMsg) (hs : Canon s) : Canon (State.sayBusy s p g m) := by
  unfold State.sayBusy
  try dsimp only
  repeat' first
    | with_reducible (first
        | assumption | apply State.send_canon)


theorem State.hearPage_canon (s : State) (job : BitVec 16) (page : DWord) (rank : ℕ) (hs : Canon s) : Canon (State.hearPage s job page
    rank) := by
  unfold State.hearPage
  try dsimp only
  repeat' first
    | with_reducible (first
        | assumption | apply State.modMem_canon)
    | intro _

theorem State.onPage_canon (s : State) (p : Arrival) (m : PageMsg) (role : Option Bool) (quiet : Bool) (k : State → Leaf → Group → State)
    (lost : optParam (State → Leaf → State) fun s x => s) (hs : Canon s) (hk : ∀ (s : State) y z, Canon s → Canon (k s y z)) (hlost : ∀ (s
    : State) y, Canon s → Canon (lost s y)) : CanonAfter (State.onPage s p m role quiet k lost) := by
  unfold State.onPage
  try dsimp only
  repeat' first
    | with_reducible (first
        | assumption | apply hk | apply hlost | apply State.hearPage_canon | apply State.sayFail_canon
        | apply State.ingress_canon | apply State.dropPacket_canon | apply State.failQuiet_canon)
    | intro _ | split

theorem State.onRequest_canon (s : State) (p : Arrival) (m : PageMsg) (lf : Leaf) (g : Group) (kind : OpKind) (hs : Canon s) : Canon
    (State.onRequest s p m lf g kind) := by
  unfold State.onRequest
  try dsimp only
  repeat' first
    | with_reducible (first
        | assumption | apply State.sayBusy_canon | apply State.startOp_canon)
    | intro _ | split

theorem State.landGranules_canon (s : State) (lf : Leaf) (g : Group) (m : PageMsg) (hs : Canon s) : Canon (State.landGranules s lf g m) :=
    by
  unfold State.landGranules
  try dsimp only
  repeat' first
    | with_reducible (first
        | assumption | apply State.addPoison_canon | apply State.putAt_canon | apply foldl_canon)
    | intro _ | split

theorem State.serveFetch_canon (s : State) (p : Arrival) (lf : Leaf) (g : Group) (m : PageMsg) (hs : Canon s) : Canon (State.serveFetch s
    p lf g m) := by
  unfold State.serveFetch
  try dsimp only
  repeat' first
    | with_reducible (first
        | assumption | apply State.granuleMsg_canon | apply State.send_canon | apply foldl_canon)
    | intro _ | split

theorem State.filled_canon (s : State) (lf : Leaf) (hs : Canon s) : Canon (State.filled s lf) := by
  unfold State.filled
  try dsimp only
  repeat' first
    | with_reducible (first
        | assumption | apply State.charge_canon)
    | intro _ | split

theorem State.keepBusy_canon (s : State) (p : Arrival) (m : PageMsg) (ok : Instr → Bool) (hs : Canon s) : Canon (State.keepBusy s p m ok)
    := by
  unfold State.keepBusy
  try dsimp only
  repeat' first
    | with_reducible (first
        | assumption | apply State.modMem_canon)
    | intro _

theorem State.writeSave_canon (s : State) (b : Block) (job : BitVec 16) (hs : Canon s) : Canon (State.writeSave s b job) := by
  unfold State.writeSave
  try dsimp only
  repeat' first
    | with_reducible (first
        | assumption | apply State.writeArea_canon | apply State.modBlock_canon)
    | intro _ | split

theorem State.savePins_canon (s : State) (w : Warp) (hs : Canon s) : Canon (State.savePins s w) := by
  unfold State.savePins
  try dsimp only
  repeat' first
    | with_reducible (first
        | assumption | apply State.modSync_canon)


theorem State.mergeWarp_canon (s : State) (w : ℕ) (hs : Canon s) : Canon (State.mergeWarp s w) := by
  unfold State.mergeWarp
  try dsimp only
  repeat' first
    | with_reducible (first
        | assumption | apply State.setFrag_canon | apply foldl_canon)
    | intro _ | split

theorem State.saveOne_canon (s : State) (b : Block) (job : BitVec 16) (hs : Canon s) : Canon (State.saveOne s b job) := by
  unfold State.saveOne
  try dsimp only
  repeat' first
    | with_reducible (first
        | assumption | apply State.mergeWarp_canon | apply State.savePins_canon | apply State.writeSave_canon
        | apply State.readImage_canon | apply State.wakePans_canon | apply State.jobSwapped_canon
        | apply State.forgetEarly_canon | apply State.modBlock_canon | apply foldl_canon)
    | intro _ | split

theorem State.restoreBlock_canon (s : State) (block : ℕ) (hs : Canon s) : Canon (State.restoreBlock s block) := by
  unfold State.restoreBlock
  try dsimp only
  repeat' first
    | with_reducible (first
        | assumption | apply State.restore_canon | apply State.readImage_canon | apply State.modBlock_canon)
    | intro _ | split

theorem State.drainAll_canon (s : State) (b : ℕ) (hs : Canon s) : Canon (State.drainAll s b) := by
  unfold State.drainAll
  try dsimp only
  repeat' first
    | with_reducible (first
        | assumption | apply State.arriveWhere_canon | apply State.releaseWhere_canon | apply State.startDrain_canon
        | apply State.landRedms_canon)


theorem State.saveAll_canon (s : State) (bs : List Block) (job : BitVec 16) (hs : Canon s) : Canon (State.saveAll s bs job) := by
  unfold State.saveAll
  try dsimp only
  repeat' first
    | with_reducible (first
        | assumption | apply State.drainAll_canon | apply State.saveOne_canon | apply foldl_canon)
    | intro _ | split

theorem State.retireRel_canon (s : State) (b : Block) (job : BitVec 16) (f : Frag) (hs : Canon s) : Canon (State.retireRel s b job f) := by
  unfold State.retireRel
  try dsimp only
  repeat' first
    | with_reducible (first
        | assumption | apply State.stepTrap_canon | apply State.modFab_canon | apply State.modSync_canon
        | apply State.setFrag_canon)
    | intro _ | split

theorem State.stopFrag_canon (s : State) (b : Block) (job : BitVec 16) (f : Frag) (hs : Canon s) : Canon (State.stopFrag s b job f) := by
  unfold State.stopFrag
  try dsimp only
  repeat' first
    | with_reducible (first
        | assumption | apply State.retireRel_canon | apply State.forgetWaits_canon | apply State.modFab_canon
        | apply State.modSync_canon | apply State.setFrag_canon)
    | intro _ | split

theorem State.stopHead_canon (s : State) (b : Block) (job : BitVec 16) (q : BitVec 3) (hs : Canon s) : Canon (State.stopHead s b job q) :=
    by
  unfold State.stopHead
  try dsimp only
  repeat' first
    | with_reducible (first
        | assumption | apply State.writeOp_canon | apply State.modOp_canon | apply State.dropOps_canon | apply State.draw_canon)
    | intro _ | split

theorem State.stopEngines_canon (s : State) (b : Block) (job : BitVec 16) (hs : Canon s) : Canon (State.stopEngines s b job) := by
  unfold State.stopEngines
  try dsimp only
  repeat' first
    | with_reducible (first
        | assumption | apply State.stopHead_canon | apply foldl_canon)
    | intro _ | split

theorem State.forceSave_canon (s : State) (bs : List Block) (job : BitVec 16) (hs : Canon s) : Canon (State.forceSave s bs job) := by
  unfold State.forceSave
  try dsimp only
  repeat' first
    | with_reducible (first
        | assumption | apply State.stopEngines_canon | apply State.stopFrag_canon | apply State.saveAll_canon
        | apply State.unwind_canon | apply State.modWork_canon | apply foldl_canon)
    | intro _

theorem State.forceBlocks_canon (s : State) (ids : List ℕ) (hs : Canon s) : Canon (State.forceBlocks s ids) := by
  unfold State.forceBlocks
  try dsimp only
  repeat' first
    | with_reducible (first
        | assumption | apply State.forceSave_canon | apply foldl_canon)
    | intro _ | split

theorem State.unbind_canon (s : State) (b : Block) (hs : Canon s) : Canon (State.unbind s b) := by
  unfold State.unbind
  try dsimp only
  repeat' first
    | with_reducible (first
        | assumption | apply State.unbindBlock_canon | apply State.modBlock_canon)


theorem State.removeBlock_canon (s : State) (b : Block) (hs : Canon s) : Canon (State.removeBlock s b) := by
  unfold State.removeBlock
  try dsimp only
  repeat' first
    | with_reducible (first
        | assumption | apply State.wakePans_canon | apply State.wakeReclaim_canon | apply State.checkGangBars_canon
        | apply State.modWork_canon | apply State.modSync_canon | apply State.modGrid_canon)


theorem State.killUnplaced_canon (s : State) (g : Grid) (cause : BitVec 8) (hs : Canon s) : Canon (State.killUnplaced s g cause) := by
  unfold State.killUnplaced
  try dsimp only
  repeat' first
    | with_reducible (first
        | assumption | apply State.modGrid_canon)


theorem State.recordErasure_canon (s : State) (cls : Unit9) (unit : BitVec 32) (hs : Canon s) : Canon (State.recordErasure s cls unit) := by
  unfold State.recordErasure
  try dsimp only
  repeat' first
    | with_reducible (first
        | assumption | apply State.modRepair_canon)
    | intro _ | split

theorem State.recheckGangs_canon (s : State) (hs : Canon s) : Canon (State.recheckGangs s) := by
  unfold State.recheckGangs
  try dsimp only
  repeat' first
    | with_reducible (first
        | assumption | apply State.killUnplaced_canon | apply State.killBlock_canon | apply foldl_canon)
    | intro _ | split

theorem State.finishMend_canon (s : State) (m : Mend) (hs : Canon s) : Canon (State.finishMend s m) := by
  unfold State.finishMend
  dsimp only
  repeat' (first
    | with_reducible assumption
    | with_reducible apply State.logError_canon
    | with_reducible apply State.modRepair_canon
    | with_reducible apply State.recheckGangs_canon
    | with_reducible apply State.modWork_canon
    | with_reducible apply State.draw_canon
    | with_reducible apply State.modMem_canon
    | exact Memory.wf_filter _ (by assumption)
    | intro _
    | split)

theorem State.mend_canon (s : State) (hs : Canon s) : Canon (State.mend s) := by
  unfold State.mend
  try dsimp only
  repeat' first
    | with_reducible (first
        | assumption | apply State.finishMend_canon | apply State.forceBlocks_canon | apply State.modRepair_canon
        | apply foldl_canon)
    | intro _ | split

theorem State.schedule_canon (s : State) (m : Mend) (hs : Canon s) : Canon (State.schedule s m) := by
  unfold State.schedule
  try dsimp only
  repeat' first
    | with_reducible (first
        | assumption | apply State.mend_canon | apply State.modRepair_canon)


theorem State.retireCore_canon (s : State) (core : ℕ) (hs : Canon s) : Canon (State.retireCore s core) := by
  unfold State.retireCore
  try dsimp only
  repeat' first
    | with_reducible (first
        | assumption | apply State.schedule_canon)
    | intro _ | split

theorem State.remapLane_canon (s : State) (core : ℕ) (part : ℕ) (lane : ℕ) (hs : Canon s) : Canon (State.remapLane s core part lane) := by
  unfold State.remapLane
  try dsimp only
  repeat' first
    | with_reducible (first
        | assumption | apply State.retireCore_canon | apply State.schedule_canon)
    | intro _ | split

theorem State.retireChannel_canon (s : State) (channel : ℕ) (hs : Canon s) : Canon (State.retireChannel s channel) := by
  unfold State.retireChannel
  try dsimp only
  repeat' first
    | with_reducible (first
        | assumption | apply State.schedule_canon)
    | intro _ | split

theorem State.actOn_canon (s : State) (cls : Unit9) (unit : BitVec 32) (action : BitVec 8) (hs : Canon s) : Canon (State.actOn s cls unit
    action) := by
  unfold State.actOn
  try dsimp only
  repeat' first
    | with_reducible (first
        | assumption | apply State.retireChannel_canon | apply State.remapLane_canon | apply State.retireCore_canon
        | apply State.restrict_canon | apply State.draw_canon | apply State.modRepair_canon)
    | intro _ | split

theorem State.failUnit_canon (s : State) (cls : Unit9) (unit : BitVec 32) (hs : Canon s) : Canon (State.failUnit s cls unit) := by
  unfold State.failUnit
  try dsimp only
  repeat' first
    | with_reducible (first
        | assumption | apply State.actOn_canon | apply State.recordErasure_canon | apply State.logError_canon)


theorem State.correctError_canon (s : State) (hs : Canon s) : Canon (State.correctError s) := by
  unfold State.correctError
  try dsimp only
  repeat' first
    | with_reducible (first
        | assumption | apply State.startTest_canon | apply State.logError_canon | apply State.drawN_canon)
    | intro _ | split

theorem State.setSlice_canon (s : State) (x : Slice) (hs : Canon s) : Canon (State.setSlice s x) := by
  unfold State.setSlice
  try dsimp only
  repeat' first
    | with_reducible (first
        | assumption | apply State.modColl_canon)


theorem State.sendMgt_canon (s : State) (g : Group) (mk : Arrival → Instr) (hs : Canon s) : Canon (State.sendMgt s g mk) := by
  unfold State.sendMgt
  try dsimp only
  repeat' first
    | with_reducible (first
        | assumption | apply State.send_canon | apply foldl_canon)
    | intro _

theorem State.tryMembers_canon (s : State) (g : Group) (hs : Canon s) : Canon (State.tryMembers s g) := by
  unfold State.tryMembers
  try dsimp only
  repeat' first
    | with_reducible (first
        | assumption | apply State.flushEngines_canon | apply State.clearCovered_canon | apply foldl_canon)
    | intro _

theorem State.abortSlice_canon (s : State) (x : Slice) (g : Group) (hs : Canon s) : Canon (State.abortSlice s x g) := by
  unfold State.abortSlice
  try dsimp only
  repeat' first
    | with_reducible (first
        | assumption | apply State.tryMembers_canon | apply State.setSlice_canon | apply State.forceBlocks_canon
        | apply State.closeColl_canon | apply State.modFw_canon | apply State.modWork_canon | apply foldl_canon)
    | intro _

theorem State.sendAbort_canon (s : State) (x : Slice) (g : Group) (reason : BitVec 8) (hs : Canon s) : Canon (State.sendAbort s x g
    reason) := by
  unfold State.sendAbort
  try dsimp only
  repeat' first
    | with_reducible (first
        | assumption | apply State.abortSlice_canon | apply State.sendMgt_canon)


theorem State.signal_canon (s : State) (bs : List Block) (hs : Canon s) : Canon (State.signal s bs) := by
  unfold State.signal
  try dsimp only
  repeat' first
    | with_reducible (first
        | assumption | apply State.modWork_canon)


theorem State.fwReply_canon (s : State) (result : ℕ) (reply : List Byte) (after : optParam ℕ 0) (hs : Canon s) : Canon (State.fwReply s
    result reply after) := by
  unfold State.fwReply
  try dsimp only
  repeat' first
    | with_reducible (first
        | assumption | apply State.modFw_canon)


theorem State.firmware_canon (s : State) (code : ℕ) (k : FwAnswer) (hs : Canon s) (hk : CanonFw k) : CanonAfter (State.firmware s code k)
    := by
  unfold State.firmware
  split
  · exact hs
  split
  · exact State.fwReply_canon _ _ _ _ hs
  cases k with
  | done t r n => exact State.fwReply_canon _ _ _ _ hk
  | refused => exact State.fwReply_canon _ _ _ _ hs
  | invalid => exact State.fwReply_canon _ _ _ _ hs
  | wait => exact hs

theorem refuseIf_canon (c : Bool) (s : State) (hs : Canon s) : CanonFw (refuseIf c s) := by
  unfold refuseIf
  try dsimp only
  repeat' first
    | with_reducible (first
        | assumption | apply canonFw_done | apply canonFw_refused)
    | intro _ | split

theorem State.resetQueue_canon (s : State) (q : Queue) (hs : Canon s) : Canon (State.resetQueue s q) := by
  unfold State.resetQueue
  try dsimp only
  repeat' first
    | with_reducible (first
        | assumption | apply State.settleGrids_canon | apply State.endGrid_canon | apply State.modWork_canon
        | apply State.setQueue_canon | apply foldl_canon)
    | intro _

theorem State.takeNode_canon (s : State) (pa : ℕ) (a : ℕ) (hs : Canon s) : Canon (State.takeNode s pa a) := by
  exact State.putPte_canon _ _ _ (State.modMem_canon _ _ hs (fun _ hy => Memory.wf_filter _ hy))

theorem State.entryFor_canon (s : State) (avoid : List (ℕ × ℕ)) (va : DWord) (shift : ℕ) (a : List (ℕ × ℕ)) (x5 : ℕ) (hs : Canon s) : ∀ t,
    (State.entryFor s avoid va shift a x5) = some t → Canon t.2 := by
  induction a generalizing s x5 with
  | nil => intro t ht; cases ht
  | cons x rest ih =>
    obtain ⟨sh, w⟩ := x
    unfold State.entryFor
    intro t ht
    dsimp only at ht
    repeat' split at ht
    all_goals first
      | (cases ht; done)
      | (obtain rfl := Option.some.inj ht; (show Canon s; exact hs))
      | exact ih _ _ hs _ ht
      | (obtain ⟨n, _, ht⟩ := Option.bind_eq_some_iff.mp ht; exact ih _ _ (State.takeNode_canon _ _ _ hs) _ ht)

theorem State.settlePage_canon (s : State) (lf : Leaf) (hs : Canon s) : Canon (State.settlePage s lf) := by
  unfold State.settlePage
  try dsimp only
  repeat' first
    | with_reducible (first
        | assumption | apply State.publishHeld_canon | apply State.releaseWhere_canon | apply State.landRedms_canon
        | apply foldl_canon)
    | intro _

theorem State.lay_canon (s : State) (job : BitVec 16) (va : DWord) (e : BitVec 128) (hs : Canon s) : Canon (State.lay s job va e) := by
  unfold State.lay
  try dsimp only
  repeat' first
    | with_reducible (first
        | assumption | apply State.modMem_canon)
    | intro _

theorem State.unmap_canon (s : State) (lf : Leaf) (e : BitVec 128) (hs : Canon s) : Canon (State.unmap s lf e) := by
  unfold State.unmap
  try dsimp only
  repeat' first
    | with_reducible (first
        | assumption | apply State.lay_canon | apply State.wakePages_canon | apply State.dropFrame_canon
        | apply State.setLeaf_canon)


theorem State.settleOld_canon (s : State) (old : Option Leaf) (hs : Canon s) : Canon (State.settleOld s old) := by
  unfold State.settleOld
  try dsimp only
  repeat' first
    | with_reducible (first
        | assumption | apply State.settlePage_canon)
    | intro _ | split

theorem State.unmapOld_canon (s : State) (old : Option Leaf) (e : BitVec 128) (hs : Canon s) : Canon (State.unmapOld s old e) := by
  unfold State.unmapOld
  try dsimp only
  repeat' first
    | with_reducible (first
        | assumption | apply State.unmap_canon)
    | intro _ | split

theorem State.install_canon (s : State) (job : BitVec 16) (va : DWord) (leaf : BitVec 128) (root : ℕ) (old : Option Leaf) (hs : Canon s) :
    CanonFw (State.install s job va leaf root old) := by
  unfold State.install
  split
  · split
    · exact State.unmap_canon _ _ _ hs
    · trivial
  · split
    · trivial
    · rename_i heq
      exact State.wakePages_canon _ (State.lay_canon _ _ _ _ (State.putPte_canon _ _ _ (State.entryFor_canon _ _ _ _ _ _ hs _ heq)))

theorem State.commitRoutes_canon (s : State) (hs : Canon s) : Canon (State.commitRoutes s) := by
  unfold State.commitRoutes
  try dsimp only
  repeat' first
    | with_reducible (first
        | assumption | apply State.fabReady_canon | apply State.restartAllowance_canon | apply State.flush_canon
        | apply State.modFab_canon | apply foldl_canon)
    | intro _ | split

theorem State.endStop_canon (s : State) (w : Warp) (skip : Bool) (hs : Canon s) : ∀ t, (State.endStop s w skip) = some t → Canon t := by
  unfold State.endStop
  intro t ht
  repeat' split at ht
  all_goals first | cases ht; done | (obtain rfl := Option.some.inj ht; exact State.modFw_canon _ _ (State.setFrag_canon _ _ hs) (fun _ => id)) | (obtain rfl := Option.some.inj ht; exact State.modFw_canon _ _ (State.setFrag_canon _ _ hs))

theorem State.endStopOf_canon (s : State) (w : Warp) (skip : Bool) (hs : Canon s) : ∀ t, (State.endStopOf s w skip) = some t → Canon t := by
  unfold State.endStopOf
  intro t ht
  dsimp only at ht
  split at ht
  · cases ht
  · obtain rfl := Option.some.inj ht
    refine State.throughImage_canon _ _ _ hs (fun s hs => ?_)
    cases hw : (s.warp? w.id).bind (fun w => s.endStop w skip) with
    | none => exact hs
    | some x =>
      obtain ⟨y, -, hy⟩ := Option.bind_eq_some_iff.mp hw
      exact State.endStop_canon _ _ _ hs _ hy

theorem sfuUnary_canon (s : State) (h : Head) (d : BitVec 6) (a : BitVec 6) (g : Word → ℕ × Flags) (hs : Canon s) : CanonAfter (sfuUnary s
    h d a g) := by
  unfold sfuUnary
  try dsimp only
  repeat' first
    | with_reducible (first
        | assumption | apply Ctx.fpVec_canon | apply issue_canon)
    | intro _

theorem writeSpecial_canon (c : Ctx) (sl : BitVec 12) (x : DWord) (hc : Canon c.s) : Canon (writeSpecial c sl x).1 := by
  unfold writeSpecial
  try dsimp only
  repeat' first
    | with_reducible (first
        | assumption | apply State.setBlock_canon | apply State.setWarp_canon)
    | intro _ | split

theorem writeSpecial_canon_eq {x__ : _} {t__ : State} {c : Ctx} {sl : BitVec 12} {x : DWord} (hc : Canon c.s) (h__ : (writeSpecial c sl x)
    = (t__, x__)) : Canon t__ := by
  have := writeSpecial_canon c sl x hc; rw [h__] at this; exact this

theorem uniBinary_canon (s : State) (ch : Bool) (d : BitVec 6) (a : BitVec 6) (b : BitVec 6) (g : DWord → DWord → DWord) (hs : Canon s) :
    CanonAfter (uniBinary s ch d a b g) := by
  unfold uniBinary
  try dsimp only
  repeat' first
    | with_reducible (first
        | assumption | apply Ctx.uniform_canon | apply issueU_canon)
    | intro _

theorem vecBinary_canon (s : State) (h : Head) (d : BitVec 6) (a : BitVec 6) (b : BitVec 6) (g : Word → Word → Word) (hs : Canon s) :
    CanonAfter (vecBinary s h d a b g) := by
  unfold vecBinary
  try dsimp only
  repeat' first
    | with_reducible (first
        | assumption | apply Ctx.vec2_canon | apply issue_canon)
    | intro _

theorem vecUnary_canon (s : State) (h : Head) (d : BitVec 6) (a : BitVec 6) (g : Word → Word) (hs : Canon s) : CanonAfter (vecUnary s h d
    a g) := by
  unfold vecUnary
  try dsimp only
  repeat' first
    | with_reducible (first
        | assumption | apply Ctx.vec1_canon | apply issue_canon)
    | intro _

theorem State.upkeep_canon (s : State) (hs : Canon s) : Canon (State.upkeep s) := by
  unfold State.upkeep
  try dsimp only
  repeat' first
    | with_reducible (first
        | assumption | apply State.kickColls_canon | apply State.threshold_canon | apply foldl_canon)


theorem State.tick_canon (s : State) (cycles : ℕ) (ns : ℕ) (hs : Canon s) : Canon (State.tick s cycles ns) := by
  unfold State.tick
  apply State.upkeep_canon
  exact (State.noteFirst_canon _ hs : Canon s.noteFirst)

theorem State.placeTables_canon (s : State) (hs : Canon s) : Canon (State.placeTables s) := by
  exact State.putPte_canon _ _ _ (State.putPte_canon _ _ _ (State.putPte_canon _ _ _ hs))

end Sys2Proof.Machine
end

