-- ==== Sys2Proof/Laws/CanonExec.lean ====
section
/-! SUPPORT. Main memory keeps its canonical form (log 2): the meanings of the instructions and events, one lemma each. -/

namespace Sys2Proof.Machine

open Sys2Proof

theorem execAtom_canon (h : Head) (d : BitVec 6) (m : MemOp) (s : State) (hs : Canon s) : CanonAfter (execAtom h d m s) := by
  unfold execAtom
  try dsimp only
  repeat' first
    | with_reducible (first
        | assumption | apply Ctx.applyAtoms_canon | apply Ctx.sendAtoms_canon | apply Ctx.soiled_canon | apply Ctx.settled_canon
        | apply Ctx.forgetLanes_canon | apply Ctx.replyTrap_canon | apply Ctx.resolveHome_canon | apply Ctx.poisonBy_canon
        | apply issue_canon | apply Ctx.retireIn_canon | apply Ctx.park_canon | apply Ctx.parkIn_canon)
    | intro _ | split | exact State.pay_canon_eq (h__ := by assumption) (by assumption)

theorem execRed_canon (h : Head) (d : BitVec 6) (m : MemOp) (s : State) (hs : Canon s) : CanonAfter (execRed h d m s) := by
  unfold execRed
  try dsimp only
  repeat' first
    | with_reducible (first
        | assumption | apply Ctx.posted_canon | apply Ctx.soiled_canon | apply State.atomicAt_canon | apply Ctx.settled_canon
        | apply Ctx.forgetLanes_canon | apply Ctx.paid_canon | apply Ctx.resolveHome_canon | apply Ctx.poisonBy_canon
        | apply State.request_canon | apply issue_canon | apply Ctx.retireIn_canon | apply foldl_canon)
    | intro _ | split

theorem execRedm_canon (h : Head) (d : BitVec 6) (m : MemOp) (s : State) (hs : Canon s) : CanonAfter (execRedm h d m s) := by
  unfold execRedm
  try dsimp only
  repeat' first
    | with_reducible (first
        | assumption | apply Ctx.sendWords_canon | apply Ctx.posted_canon | apply Ctx.settled_canon | apply Ctx.paid_canon
        | apply Ctx.resolveHome_canon | apply Ctx.poisonBy_canon | apply State.request_canon | apply issue_canon
        | apply Ctx.retireIn_canon | apply State.soil_canon | apply foldl_canon)
    | intro _ | split

theorem execMst_canon (h : Head) (d : BitVec 6) (m : MemOp) (s : State) (hs : Canon s) : CanonAfter (execMst h d m s) := by
  unfold execMst
  try dsimp only
  repeat' first
    | with_reducible (first
        | assumption | apply Ctx.storePieces_canon | apply Ctx.paid_canon | apply Ctx.resolve_canon | apply issue_canon
        | apply Ctx.retire_canon)
    | intro _ | split

theorem execBra_canon (h : Head) (o : BitVec 20) (s : State) (hs : Canon s) : CanonAfter (execBra h o s) := by
  unfold execBra
  try dsimp only
  repeat' first
    | with_reducible (first
        | assumption | apply Ctx.jump_canon | apply issue_canon)
    | intro _

theorem execBru_canon (h : Head) (o : BitVec 20) (s : State) (hs : Canon s) : CanonAfter (execBru h o s) := by
  unfold execBru
  try dsimp only
  repeat' first
    | with_reducible (first
        | assumption | apply Ctx.jump_canon | apply issue_canon | apply Ctx.retire_canon | apply Ctx.trap_canon)
    | intro _ | split

theorem execCall_canon (h : Head) (o : BitVec 20) (s : State) (hs : Canon s) : CanonAfter (execCall h o s) := by
  unfold execCall
  try dsimp only
  repeat' first
    | with_reducible (first
        | assumption | apply Ctx.calls_canon | apply issue_canon)
    | intro _

theorem execCalli_canon (h : Head) (a : BitVec 6) (b : BitVec 6) (ix : Bool) (s : State) (hs : Canon s) : CanonAfter (execCalli h a b ix
    s) := by
  unfold execCalli
  try dsimp only
  repeat' first
    | with_reducible (first
        | assumption | apply Ctx.calls_canon | apply issue_canon)
    | intro _

theorem execJmpi_canon (h : Head) (a : BitVec 6) (b : BitVec 6) (ix : Bool) (s : State) (hs : Canon s) : CanonAfter (execJmpi h a b ix s)
    := by
  unfold execJmpi
  try dsimp only
  repeat' first
    | with_reducible (first
        | assumption | apply Ctx.jump_canon | apply issue_canon)
    | intro _

theorem execRet_canon (h : Head) (s : State) (hs : Canon s) : CanonAfter (execRet h s) := by
  unfold execRet
  try dsimp only
  repeat' first
    | with_reducible (first
        | assumption | apply State.modThreads_canon | apply Ctx.oneWay_canon | apply Ctx.transfer_canon
        | apply Ctx.checkTargets_canon | apply Ctx.loadOk_canon | apply Ctx.resolveBy_canon | apply issue_canon
        | apply Ctx.trap_canon)
    | intro _ | split

theorem execBalw_canon (ch : Bool) (a : BitVec 6) (b : BitVec 6) (o : BitVec 20) (s : State) (hs : Canon s) : CanonAfter (execBalw ch a b
    o s) := by
  unfold execBalw
  try dsimp only
  repeat' first
    | with_reducible (first
        | assumption | apply Ctx.jump_canon | apply issueU_canon | apply Ctx.retire_canon)
    | intro _ | split

theorem execReform_canon (h : Head) (n : BitVec 5) (m : BitVec 4) (s : State) (hs : Canon s) : CanonAfter (execReform h n m s) := by
  unfold execReform
  try dsimp only
  repeat' first
    | with_reducible (first
        | assumption | apply Ctx.file_canon | apply issueWhen_canon)
    | intro _

theorem execYield_canon (h : Head) (n : BitVec 5) (m : BitVec 4) (s : State) (hs : Canon s) : CanonAfter (execYield h n m s) := by
  unfold execYield
  try dsimp only
  repeat' first
    | with_reducible (first
        | assumption | apply Ctx.file_canon | apply issueWhen_canon | apply Ctx.retire_canon)
    | intro _ | split

theorem execSpawn_canon (h : Head) (d : BitVec 3) (o : BitVec 20) (s : State) (hs : Canon s) : CanonAfter (execSpawn h d o s) := by
  unfold execSpawn
  try dsimp only
  repeat' first
    | with_reducible (first
        | assumption | apply spawnLane_canon | apply Ctx.checkTargets_canon | apply State.fenceWork_canon | apply issue_canon
        | apply Ctx.retire_canon | apply Ctx.retireIn_canon | apply Ctx.waitIn_canon | apply State.forgetEarly_canon
        | apply State.soil_canon | apply foldl_canon_fst)
    | intro _ | split

theorem execExit_canon (h : Head) (s : State) (hs : Canon s) : CanonAfter (execExit h s) := by
  unfold execExit
  try dsimp only
  repeat' first
    | with_reducible (first
        | assumption | apply Ctx.departTo_canon | apply issue_canon | apply Ctx.retire_canon)
    | intro _ | split

theorem execPanTimerExpire_canon (pan : ℕ) (s : State) (hs : Canon s) : CanonAfter (execPanTimerExpire pan s) := by
  unfold execPanTimerExpire
  try dsimp only
  repeat' first
    | with_reducible (first
        | assumption | apply State.setPan_canon | apply canonAfter_next)
    | intro _ | split

theorem execPanYield_canon (pan : ℕ) (ctx : ℕ) (s : State) (hs : Canon s) : CanonAfter (execPanYield pan ctx s) := by
  unfold execPanYield
  try dsimp only
  repeat' first
    | with_reducible (first
        | assumption | apply State.adoptStores_canon | apply State.wakePans_canon | apply State.drawN_canon
        | apply State.fresh_canon | apply State.modWork_canon | apply canonAfter_next)
    | intro _ | split

theorem execFence_canon (h : Head) (full : Bool) (scope : BitVec 3) (cmask : BitVec 8) (s : State) (hs : Canon s) : CanonAfter (execFence
    h full scope cmask s) := by
  unfold execFence
  try dsimp only
  repeat' first
    | with_reducible (first
        | assumption | apply Ctx.fullFence_canon | apply Ctx.fence_canon | apply issue_canon | apply Ctx.retire_canon
        | apply Ctx.retireIn_canon)
    | intro _ | split

theorem execAcq_canon (h : Head) (d : BitVec 6) (a : BitVec 6) (imm : BitVec 12) (s : State) (hs : Canon s) : CanonAfter (execAcq h d a
    imm s) := by
  unfold execAcq
  try dsimp only
  repeat' first
    | with_reducible (first
        | assumption | apply Ctx.readHome_canon | apply State.acquire_canon | apply issue_canon | apply Ctx.retire_canon
        | apply Ctx.retireIn_canon | apply State.forgetEarly_canon)
    | intro _ | split

theorem execRel_canon (h : Head) (a : BitVec 6) (b : BitVec 6) (scope : BitVec 3) (add : Bool) (imm : BitVec 12) (s : State) (hs : Canon
    s) : CanonAfter (execRel h a b scope add imm s) := by
  unfold execRel
  try dsimp only
  repeat' first
    | with_reducible (first
        | assumption | apply Ctx.relLost_canon | apply Ctx.relRemote_canon | apply Ctx.release_canon | apply Ctx.settled_canon
        | apply Ctx.resolve_canon | apply Ctx.poisonBy_canon | apply State.startDrain_canon | apply issue_canon
        | apply Ctx.retireIn_canon | apply Ctx.park_canon | apply State.performAt_canon | apply canonAfter_next)
    | intro _ | split

theorem execBind_canon (ch : Bool) (d : BitVec 6) (a : BitVec 6) (b : BitVec 6) (entry : BitVec 6) (s : State) (hs : Canon s) : CanonAfter
    (execBind ch d a b entry s) := by
  unfold execBind
  try dsimp only
  repeat' first
    | with_reducible (first
        | assumption | apply issueU_canon | apply Ctx.retireIn_canon | apply Ctx.trapWith_canon | apply State.soil_canon
        | apply State.modBlock_canon)
    | intro _ | split

theorem execBar_canon (h : Head) (b : BitVec 6) (id : BitVec 4) (s : State) (hs : Canon s) : CanonAfter (execBar h b id s) := by
  unfold execBar
  try dsimp only
  repeat' first
    | with_reducible (first
        | assumption | apply Ctx.barrier_canon | apply issue_canon)
    | intro _

theorem execGbar_canon (h : Head) (b : BitVec 6) (id : BitVec 2) (s : State) (hs : Canon s) : CanonAfter (execGbar h b id s) := by
  unfold execGbar
  try dsimp only
  repeat' first
    | with_reducible (first
        | assumption | apply Ctx.barrier_canon | apply issue_canon)
    | intro _

theorem execBarm_canon (ch : Bool) (a : BitVec 6) (b : BitVec 6) (imm : BitVec 12) (s : State) (hs : Canon s) : CanonAfter (execBarm ch a
    b imm s) := by
  unfold execBarm
  try dsimp only
  repeat' first
    | with_reducible (first
        | assumption | apply Ctx.countRange_canon | apply Ctx.withBar_canon | apply State.putByteBar_canon | apply issueU_canon
        | apply Ctx.retireIn_canon)
    | intro _ | split

theorem execBara_canon (ch : Bool) (a : BitVec 6) (b : BitVec 6) (imm : BitVec 12) (s : State) (hs : Canon s) : CanonAfter (execBara ch a
    b imm s) := by
  unfold execBara
  try dsimp only
  repeat' first
    | with_reducible (first
        | assumption | apply Ctx.countRange_canon | apply Ctx.withBar_canon | apply State.putByteBar_canon
        | apply Ctx.fence_canon | apply issueU_canon | apply Ctx.retireIn_canon)
    | intro _ | split

theorem execBarw_canon (ch : Bool) (a : BitVec 6) (b : BitVec 6) (imm : BitVec 12) (s : State) (hs : Canon s) : CanonAfter (execBarw ch a
    b imm s) := by
  unfold execBarw
  try dsimp only
  repeat' first
    | with_reducible (first
        | assumption | apply State.watch_canon | apply Ctx.withBar_canon | apply issueU_canon | apply Ctx.retireIn_canon
        | apply Ctx.parkIn_canon | apply State.forgetEarly_canon)
    | intro _ | split

theorem execBart_canon (ch : Bool) (d : BitVec 3) (a : BitVec 6) (b : BitVec 6) (imm : BitVec 12) (s : State) (hs : Canon s) : CanonAfter
    (execBart ch d a b imm s) := by
  unfold execBart
  try dsimp only
  repeat' first
    | with_reducible (first
        | assumption | apply Ctx.withBar_canon | apply issueU_canon | apply Ctx.retireIn_canon | apply State.forgetEarly_canon)
    | intro _

theorem execWaitc_canon (ch : Bool) (a : BitVec 6) (b : BitVec 6) (inA : Bool) (imm : BitVec 12) (s : State) (hs : Canon s) : CanonAfter
    (execWaitc ch a b inA imm s) := by
  unfold execWaitc
  try dsimp only
  repeat' first
    | with_reducible (first
        | assumption | apply State.watch_canon | apply Ctx.readHome_canon | apply issueU_canon | apply Ctx.retireIn_canon
        | apply Ctx.parkIn_canon | apply State.forgetEarly_canon)
    | intro _ | split

theorem execWaitcPoll_canon (frag : ℕ) (s : State) (hs : Canon s) : CanonAfter (execWaitcPoll frag s) := by
  unfold execWaitcPoll
  try dsimp only
  repeat' first
    | with_reducible (first
        | assumption | apply State.modSync_canon | apply State.modFrag_canon | apply canonAfter_next)
    | intro _ | split

theorem execPin_canon (ch : Bool) (k : BitVec 3) (a : BitVec 6) (s : State) (hs : Canon s) : CanonAfter (execPin ch k a s) := by
  unfold execPin
  try dsimp only
  repeat' first
    | with_reducible (first
        | assumption | apply Ctx.setPin_canon | apply issueU_canon | apply Ctx.retireIn_canon | apply State.forgetEarly_canon
        | apply State.soil_canon)
    | intro _

theorem execUnpin_canon (ch : Bool) (k : BitVec 3) (s : State) (hs : Canon s) : CanonAfter (execUnpin ch k s) := by
  unfold execUnpin
  try dsimp only
  repeat' first
    | with_reducible (first
        | assumption | apply Ctx.setPin_canon | apply issueU_canon | apply Ctx.retireIn_canon)
    | intro _

theorem execReclaim_canon (ch : Bool) (d : BitVec 6) (a : BitVec 6) (s : State) (hs : Canon s) : CanonAfter (execReclaim ch d a s) := by
  unfold execReclaim
  try dsimp only
  repeat' first
    | with_reducible (first
        | assumption | apply State.setBittern_canon | apply Ctx.unboundDone_canon | apply issueU_canon | apply Ctx.retire_canon
        | apply Ctx.retireIn_canon | apply Ctx.park_canon)
    | intro _ | split

theorem execReclaimd_canon (ch : Bool) (d : BitVec 6) (s : State) (hs : Canon s) : CanonAfter (execReclaimd ch d s) := by
  unfold execReclaimd
  try dsimp only
  repeat' first
    | with_reducible (first
        | assumption | apply State.setBittern_canon | apply Ctx.unboundDone_canon | apply issueU_canon | apply Ctx.retire_canon
        | apply Ctx.retireIn_canon)
    | intro _ | split

theorem execAlw_canon (ch : Bool) (d : BitVec 6) (a : BitVec 6) (s : State) (hs : Canon s) : CanonAfter (execAlw ch d a s) := by
  unfold execAlw
  try dsimp only
  repeat' first
    | with_reducible (first
        | assumption | apply Ctx.uniform_canon | apply issueU_canon)
    | intro _

theorem execCpy_canon (ch : Bool) (d : BitVec 6) (a : BitVec 6) (b : BitVec 6) (e : BitVec 6) (dsp : Space) (ssp : Space) (q : BitVec 3)
    (ck : Ck) (s : State) (hs : Canon s) : CanonAfter (execCpy ch d a b e dsp ssp q ck s) := by
  unfold execCpy
  try dsimp only
  repeat' first
    | with_reducible (first
        | assumption | apply Ctx.enqueue_canon | apply Ctx.resolve_canon | apply issueU_canon | apply Ctx.waitIn_canon)
    | intro _ | split

theorem execCpyt_canon (ch : Bool) (d : BitVec 6) (a : BitVec 6) (b : BitVec 6) (e : BitVec 6) (st : Bool) (w : Bool) (q : BitVec 3) (ck :
    Ck) (box1 : BitVec 5) (box0 : BitVec 10) (s : State) (hs : Canon s) : CanonAfter (execCpyt ch d a b e st w q ck box1 box0 s) := by
  unfold execCpyt
  try dsimp only
  repeat' first
    | with_reducible (first
        | assumption | apply Ctx.copyBox_canon | apply Ctx.loadLanes_canon | apply issueU_canon | apply Ctx.waitIn_canon
        | apply Ctx.trapWith_canon)
    | intro _ | split

theorem execQfence_canon (ch : Bool) (e : BitVec 6) (q : BitVec 3) (ck : Ck) (mask : BitVec 8) (s : State) (hs : Canon s) : CanonAfter
    (execQfence ch e q ck mask s) := by
  unfold execQfence
  try dsimp only
  repeat' first
    | with_reducible (first
        | assumption | apply Ctx.enqueue_canon | apply Ctx.resolve_canon | apply issueU_canon | apply Ctx.waitIn_canon)
    | intro _ | split

theorem execEnginePerform_canon (block : ℕ) (q : BitVec 3) (s : State) (hs : Canon s) : CanonAfter (execEnginePerform block q s) := by
  unfold execEnginePerform
  try dsimp only
  repeat' first
    | with_reducible (first
        | assumption | apply State.writeOp_canon | apply State.completeOp_canon | apply State.modOp_canon
        | apply State.engineError_canon | apply State.carryPoison_canon | apply State.publishHeld_canon
        | apply State.arriveWhere_canon | apply State.releaseWhere_canon | apply State.engineRequest_canon
        | apply canonAfter_next | apply foldl_canon)
    | intro _ | split

theorem execEngineRemoteTimeout_canon (block : ℕ) (q : BitVec 3) (s : State) (hs : Canon s) : CanonAfter (execEngineRemoteTimeout block q
    s) := by
  unfold execEngineRemoteTimeout
  try dsimp only
  repeat' first
    | with_reducible (first
        | assumption | apply State.stopOp_canon | apply State.killBlock_canon | apply canonAfter_next)
    | intro _ | split

theorem execRead_canon (p : Arrival) (tag : BitVec 12) (addr : BitVec 52) (lines : BitVec 4) (s : State) (hs : Canon s) : CanonAfter
    (execRead p tag addr lines s) := by
  unfold execRead
  try dsimp only
  repeat' first
    | with_reducible (first
        | assumption | apply State.homeBytes_canon | apply State.reply_canon | apply State.ingress_canon | apply foldl_canon_snd)
    | intro _ | split

theorem execWrite_canon (p : Arrival) (tag : BitVec 12) (addr : BitVec 52) (bytes : List (ℕ × Byte)) (mstVa : Option DWord) (s : State)
    (hs : Canon s) : CanonAfter (execWrite p tag addr bytes mstVa s) := by
  unfold execWrite
  try dsimp only
  repeat' first
    | with_reducible (first
        | assumption | apply State.writeMasked_canon | apply State.answer_canon | apply State.ingress_canon)
    | intro _ | split

theorem execAtomReq_canon (p : Arrival) (tag : BitVec 12) (addr : BitVec 52) (aop : BitVec 4) (form : AtomForm) (x : DWord) (y : DWord) (s
    : State) (hs : Canon s) : CanonAfter (execAtomReq p tag addr aop form x y s) := by
  unfold execAtomReq
  try dsimp only
  repeat' first
    | with_reducible (first
        | assumption | apply State.reply_canon | apply State.ingress_canon | apply State.atomicAt_canon)
    | intro _ | split

theorem execRedReq_canon (p : Arrival) (tag : BitVec 12) (addr : BitVec 52) (aop : BitVec 4) (form : AtomForm) (x : DWord) (s : State) (hs
    : Canon s) : CanonAfter (execRedReq p tag addr aop form x s) := by
  unfold execRedReq
  try dsimp only
  repeat' first
    | with_reducible (first
        | assumption | apply State.answer_canon | apply State.ingress_canon | apply State.atomicAt_canon)
    | intro _ | split

theorem execRedmReq_canon (p : Arrival) (tag : BitVec 12) (addr : BitVec 52) (aop : BitVec 4) (words : List (ℕ × Word)) (s : State) (hs :
    Canon s) : CanonAfter (execRedmReq p tag addr aop words s) := by
  unfold execRedmReq
  try dsimp only
  repeat' first
    | with_reducible (first
        | assumption | apply State.answer_canon | apply State.ingress_canon | apply State.redmAt_canon | apply foldl_canon)
    | intro _ | split

theorem execEread_canon (p : Arrival) (tag : BitVec 12) (addr : BitVec 52) (count : ℕ) (s : State) (hs : Canon s) : CanonAfter (execEread
    p tag addr count s) := by
  unfold execEread
  try dsimp only
  repeat' first
    | with_reducible (first
        | assumption | apply State.homeBytes_canon | apply State.reply_canon | apply State.ingress_canon)
    | intro _ | split

theorem execEwrite_canon (p : Arrival) (tag : BitVec 12) (addr : BitVec 52) (bytes : List Byte) (s : State) (hs : Canon s) : CanonAfter
    (execEwrite p tag addr bytes s) := by
  unfold execEwrite
  try dsimp only
  repeat' first
    | with_reducible (first
        | assumption | apply State.answer_canon | apply State.ingress_canon | apply State.performAt_canon)
    | intro _ | split

theorem execRdata_canon (p : Arrival) (tag : BitVec 12) (status : BitVec 8) (bytes : List Byte) (s : State) (hs : Canon s) : CanonAfter
    (execRdata p tag status bytes s) := by
  unfold execRdata
  try dsimp only
  repeat' first
    | with_reducible (first
        | assumption | apply State.replied_canon | apply State.collFetched_canon | apply State.engineAnswer_canon
        | apply State.addReplies_canon | apply State.ingress_canon)
    | intro _ | split

theorem execAreply_canon (p : Arrival) (tag : BitVec 12) (status : BitVec 8) (old : DWord) (s : State) (hs : Canon s) : CanonAfter
    (execAreply p tag status old s) := by
  unfold execAreply
  try dsimp only
  repeat' first
    | with_reducible (first
        | assumption | apply State.replied_canon | apply State.addReplies_canon | apply State.ingress_canon)
    | intro _ | split

theorem execAck_canon (p : Arrival) (tag : BitVec 12) (s : State) (hs : Canon s) : CanonAfter (execAck p tag s) := by
  unfold execAck
  try dsimp only
  repeat' first
    | with_reducible (first
        | assumption | apply State.replied_canon | apply State.modDelivery_canon | apply State.recordAnswered_canon
        | apply State.collWritten_canon | apply State.engineAnswer_canon | apply State.addReplies_canon
        | apply State.ingress_canon)
    | intro _ | split

theorem execNack_canon (p : Arrival) (tag : BitVec 12) (status : BitVec 8) (s : State) (hs : Canon s) : CanonAfter (execNack p tag status
    s) := by
  unfold execNack
  try dsimp only
  repeat' first
    | with_reducible (first
        | assumption | apply State.replied_canon | apply State.failDelivery_canon | apply State.recordAnswered_canon
        | apply State.collWritten_canon | apply State.collFetched_canon | apply State.engineAnswer_canon
        | apply State.addReplies_canon | apply State.ingress_canon | apply State.dropPacket_canon)
    | intro _ | split

theorem execRemoteLoadTimeout_canon (frag : ℕ) (s : State) (hs : Canon s) : CanonAfter (execRemoteLoadTimeout frag s) := by
  unfold execRemoteLoadTimeout
  try dsimp only
  repeat' first
    | with_reducible (first
        | assumption | apply State.addReplies_canon | apply State.dropRequest_canon | apply canonAfter_next | apply foldl_canon)
    | intro _ | split

theorem execStoreAckTimeout_canon (tag : BitVec 12) (s : State) (hs : Canon s) : CanonAfter (execStoreAckTimeout tag s) := by
  unfold execStoreAckTimeout
  try dsimp only
  repeat' first
    | with_reducible (first
        | assumption | apply State.failDelivery_canon | apply State.recordAnswered_canon | apply State.dropRequest_canon
        | apply canonAfter_next)
    | intro _ | split

theorem execAret_canon (p : Arrival) (retReq : Half) (retPage : Half) (delReq : Word) (delRsp : Word) (delPage : Word) (s : State) (hs :
    Canon s) : CanonAfter (execAret p retReq retPage delReq delRsp delPage s) := by
  unfold execAret
  try dsimp only
  repeat' first
    | with_reducible (first
        | assumption | apply State.endHolds_canon | apply State.ingress_canon | apply State.returnFlits_canon
        | apply State.flushPages_canon | apply State.modFab_canon)
    | intro _

theorem execAllowanceReturnTimer_canon (peer : BitVec 11) (s : State) (hs : Canon s) : CanonAfter (execAllowanceReturnTimer peer s) := by
  unfold execAllowanceReturnTimer
  try dsimp only
  repeat' first
    | with_reducible (first
        | assumption | apply State.modReturns_canon | apply State.inject_canon | apply canonAfter_next)
    | intro _ | split

theorem execRouteHoldTimeout_canon (dst : BitVec 11) (cls : BitVec 2) (s : State) (hs : Canon s) : CanonAfter (execRouteHoldTimeout dst
    cls s) := by
  unfold execRouteHoldTimeout
  try dsimp only
  repeat' first
    | with_reducible (first
        | assumption | apply State.endHolds_canon | apply canonAfter_next)


theorem execLinkRestrict_canon (port : BitVec 5) (missing : List ℕ) (s : State) (hs : Canon s) : CanonAfter (execLinkRestrict port missing
    s) := by
  unfold execLinkRestrict
  try dsimp only
  repeat' first
    | with_reducible (first
        | assumption | apply State.restrict_canon | apply State.logError_canon | apply canonAfter_next)
    | intro _ | split

theorem execRead64_canon (tag : BitVec 12) (channel : BitVec 8) (offset : BitVec 31) (s : State) (hs : Canon s) : CanonAfter (execRead64
    tag channel offset s) := by
  unfold execRead64
  try dsimp only
  repeat' first
    | with_reducible (first
        | assumption | apply State.readLines_canon | apply canonAfter_next)
    | intro _ | split

theorem execRead256_canon (tag : BitVec 12) (channel : BitVec 8) (offset : BitVec 31) (s : State) (hs : Canon s) : CanonAfter (execRead256
    tag channel offset s) := by
  unfold execRead256
  try dsimp only
  repeat' first
    | with_reducible (first
        | assumption | apply State.readLines_canon | apply canonAfter_next)
    | intro _ | split

theorem execHbmWrite_canon (tag : BitVec 12) (channel : BitVec 8) (offset : BitVec 31) (bytes : List (ℕ × Byte)) (s : State) (hs : Canon
    s) : CanonAfter (execHbmWrite tag channel offset bytes s) := by
  unfold execHbmWrite
  try dsimp only
  repeat' first
    | with_reducible (first
        | assumption | apply State.dieReply_canon | apply State.writeMasked_canon | apply canonAfter_next)
    | intro _ | split

theorem execHbmAtom_canon (tag : BitVec 12) (channel : BitVec 8) (offset : BitVec 31) (aop : BitVec 4) (wide : Bool) (x : DWord) (y :
    DWord) (s : State) (hs : Canon s) : CanonAfter (execHbmAtom tag channel offset aop wide x y s) := by
  unfold execHbmAtom
  try dsimp only
  repeat' first
    | with_reducible (first
        | assumption | apply State.dieReply_canon | apply State.atomicAt_canon | apply canonAfter_next)
    | intro _ | split

theorem execHbmRedm_canon (tag : BitVec 12) (channel : BitVec 8) (offset : BitVec 31) (aop : BitVec 4) (words : List (ℕ × Word)) (s :
    State) (hs : Canon s) : CanonAfter (execHbmRedm tag channel offset aop words s) := by
  unfold execHbmRedm
  try dsimp only
  repeat' first
    | with_reducible (first
        | assumption | apply State.dieReply_canon | apply State.redmAt_canon | apply canonAfter_next | apply foldl_canon)
    | intro _ | split

theorem execLdt_canon (h : Head) (d : BitVec 2) (a : BitVec 6) (sp : Space) (pitch : BitVec 11) (imm : BitVec 12) (s : State) (hs : Canon
    s) : CanonAfter (execLdt h d a sp pitch imm s) := by
  unfold execLdt
  try dsimp only
  repeat' first
    | with_reducible (first
        | assumption | apply Ctx.loadLanes_canon | apply issue_canon | apply Ctx.retireIn_canon)
    | intro _

theorem execStt_canon (h : Head) (d : BitVec 2) (a : BitVec 6) (pitch : BitVec 11) (imm : BitVec 12) (s : State) (hs : Canon s) :
    CanonAfter (execStt h d a pitch imm s) := by
  unfold execStt
  try dsimp only
  repeat' first
    | with_reducible (first
        | assumption | apply Ctx.storePieces_canon | apply Ctx.resolve_canon | apply issue_canon)
    | intro _

theorem execMma_canon (h : Head) (d : BitVec 2) (a : BitVec 2) (b : BitVec 6) (e : BitVec 6) (x : Bool) (bsrc : BSrc) (bf : BitVec 4) (af
    : BitVec 4) (s : State) (hs : Canon s) : CanonAfter (execMma h d a b e x bsrc bf af s) := by
  unfold execMma
  try dsimp only
  repeat' first
    | with_reducible (first
        | assumption | apply Ctx.mma_canon | apply issue_canon)
    | intro _

theorem execMmaz_canon (h : Head) (d : BitVec 2) (a : BitVec 2) (b : BitVec 6) (e : BitVec 6) (x : Bool) (bsrc : BSrc) (bf : BitVec 4) (af
    : BitVec 4) (s : State) (hs : Canon s) : CanonAfter (execMmaz h d a b e x bsrc bf af s) := by
  unfold execMmaz
  try dsimp only
  repeat' first
    | with_reducible (first
        | assumption | apply Ctx.mma_canon | apply issue_canon)
    | intro _

theorem execAccrd_canon (h : Head) (d : BitVec 6) (a : BitVec 2) (b : BitVec 6) (cv : Bool) (s : State) (hs : Canon s) : CanonAfter
    (execAccrd h d a b cv s) := by
  unfold execAccrd
  try dsimp only
  repeat' first
    | with_reducible (first
        | assumption | apply issue_canon | apply Ctx.retire_canon)
    | intro _

theorem execAccwr_canon (h : Head) (d : BitVec 2) (a : BitVec 6) (b : BitVec 6) (cv : Bool) (s : State) (hs : Canon s) : CanonAfter
    (execAccwr h d a b cv s) := by
  unfold execAccwr
  try dsimp only
  repeat' first
    | with_reducible (first
        | assumption | apply issue_canon | apply Ctx.retire_canon)
    | intro _

theorem execAccld_canon (h : Head) (d : BitVec 2) (a : BitVec 6) (imm : BitVec 12) (s : State) (hs : Canon s) : CanonAfter (execAccld h d
    a imm s) := by
  unfold execAccld
  try dsimp only
  repeat' first
    | with_reducible (first
        | assumption | apply Ctx.readAll_canon | apply Ctx.resolve_canon | apply Ctx.poisonCheck_canon | apply issue_canon
        | apply Ctx.retire_canon | apply Ctx.retireIn_canon)
    | intro _ | split

theorem execAccst_canon (h : Head) (d : BitVec 2) (a : BitVec 6) (imm : BitVec 12) (s : State) (hs : Canon s) : CanonAfter (execAccst h d
    a imm s) := by
  unfold execAccst
  try dsimp only
  repeat' first
    | with_reducible (first
        | assumption | apply Ctx.storePieces_canon | apply Ctx.resolve_canon | apply issue_canon | apply Ctx.retire_canon)
    | intro _ | split

theorem execAccz_canon (h : Head) (d : BitVec 2) (s : State) (hs : Canon s) : CanonAfter (execAccz h d s) := by
  unfold execAccz
  try dsimp only
  repeat' first
    | with_reducible (first
        | assumption | apply issue_canon | apply Ctx.retire_canon)
    | intro _

theorem execTxp_canon (h : Head) (d : BitVec 2) (a : BitVec 2) (b16 : Bool) (s : State) (hs : Canon s) : CanonAfter (execTxp h d a b16 s)
    := by
  unfold execTxp
  try dsimp only
  repeat' first
    | with_reducible (first
        | assumption | apply issue_canon | apply Ctx.retire_canon)
    | intro _ | split

theorem execColl_canon (ch : Bool) (a : BitVec 6) (s : State) (hs : Canon s) : CanonAfter (execColl ch a s) := by
  unfold execColl
  apply issueU_canon _ _ _ _ _ _ hs
  intro c hc
  dsimp only
  split
  · exact Ctx.waitIn_canon _ _ hc hc
  split
  · apply Ctx.trapWith_canon; exact hc
  refine Ctx.fetchB_canon _ _ _ hc ?_
  intro s got hs
  generalize (List.range 128).map _ = bs
  generalize readParams bs = p
  split
  · apply Ctx.trapWith_canon; exact hc
  split
  · apply Ctx.trapWith_canon; exact hc
  split
  · apply Ctx.trapWith_canon; exact hc
  split
  · apply Ctx.trapWith_canon; exact hc
  refine Ctx.resolve_canon _ _ _ _ ?_ ?_
  · exact hs
  · intro ok
    apply Ctx.openColl_canon
    exact hs

theorem execCollw_canon (ch : Bool) (d : BitVec 6) (a : BitVec 6) (s : State) (hs : Canon s) : CanonAfter (execCollw ch d a s) := by
  unfold execCollw
  try dsimp only
  repeat' first
    | with_reducible (first
        | assumption | apply Ctx.collWait_canon | apply Ctx.readHome_canon | apply issueU_canon)
    | intro _

theorem execCstep_canon (p : Arrival) (tag : BitVec 12) (m : CStep) (s : State) (hs : Canon s) : CanonAfter (execCstep p tag m s) := by
  unfold execCstep
  try dsimp only
  repeat' first
    | with_reducible (first
        | assumption | apply State.kickColls_canon | apply State.onStep_canon | apply State.setColl_canon
        | apply State.answer_canon | apply State.ingress_canon | apply State.dropPacket_canon | apply State.modColl_canon)
    | intro _ | split

theorem execCmatch_canon (p : Arrival) (tag : BitVec 12) (sgid : BitVec 12) (pair : Word) (srcRank : BitVec 6) (t : CTuple) (s : State)
    (hs : Canon s) : CanonAfter (execCmatch p tag sgid pair srcRank t s) := by
  unfold execCmatch
  try dsimp only
  repeat' first
    | with_reducible (first
        | assumption | apply State.kickColls_canon | apply State.setColl_canon | apply State.answer_canon
        | apply State.ingress_canon | apply State.modColl_canon)
    | intro _ | split

theorem execCollTimeout_canon (sgid : BitVec 12) (pair : Word) (s : State) (hs : Canon s) : CanonAfter (execCollTimeout sgid pair s) := by
  unfold execCollTimeout
  try dsimp only
  repeat' first
    | with_reducible (first
        | assumption | apply State.kickColls_canon | apply State.failColl_canon | apply State.modFab_canon
        | apply canonAfter_next)
    | intro _ | split

theorem execTide_canon (p : Arrival) (sgid : BitVec 12) (pair : Word) (t0 : DWord) (s : State) (hs : Canon s) : CanonAfter (execTide p
    sgid pair t0 s) := by
  unfold execTide
  try dsimp only
  repeat' first
    | with_reducible (first
        | assumption | apply State.setTide_canon | apply State.setColl_canon | apply State.ingress_canon)
    | intro _ | split

theorem execTideFallback_canon (sgid : BitVec 12) (pair : Word) (s : State) (hs : Canon s) : CanonAfter (execTideFallback sgid pair s) := by
  unfold execTideFallback
  try dsimp only
  repeat' first
    | with_reducible (first
        | assumption | apply State.setTide_canon | apply canonAfter_next)


theorem execTideHoldEnd_canon (job : BitVec 16) (s : State) (hs : Canon s) : CanonAfter (execTideHoldEnd job s) := by
  unfold execTideHoldEnd
  try dsimp only
  repeat' first
    | with_reducible (first
        | assumption | apply State.modColl_canon | apply canonAfter_next)


theorem execApertureRead_canon (host : ℕ) (loc : BitVec 40) (count : ℕ) (s : State) (hs : Canon s) : CanonAfter (execApertureRead host loc
    count s) := by
  unfold execApertureRead
  try dsimp only
  repeat' first
    | with_reducible (first
        | assumption | apply State.homeBytes_canon | apply State.modFw_canon | apply canonAfter_next)
    | intro _ | split

theorem execApertureWrite_canon (host : ℕ) (loc : BitVec 40) (bytes : List Byte) (s : State) (hs : Canon s) : CanonAfter
    (execApertureWrite host loc bytes s) := by
  unfold execApertureWrite
  try dsimp only
  repeat' first
    | with_reducible (first
        | assumption | apply State.performAt_canon | apply canonAfter_next)
    | intro _ | split

theorem execRegisterWrite_canon (off : BitVec 40) (write : HostWrite DWord) (s : State) (hs : Canon s) : CanonAfter (execRegisterWrite off
    write s) := by
  unfold execRegisterWrite
  try dsimp only
  repeat' first
    | with_reducible (first
        | assumption | apply State.modFw_canon | apply canonAfter_next)
    | intro _ | split

theorem execStagingWrite_canon (port : BitVec 3) (off : BitVec 24) (bytes : List Byte) (s : State) (hs : Canon s) : CanonAfter
    (execStagingWrite port off bytes s) := by
  unfold execStagingWrite
  try dsimp only
  repeat' first
    | with_reducible (first
        | assumption | apply State.modFw_canon | apply canonAfter_next)
    | intro _ | split

theorem execBootgo_canon (write : PortWrite) (s : State) (hs : Canon s) : CanonAfter (execBootgo write s) := by
  unfold execBootgo
  try dsimp only
  repeat' first
    | with_reducible (first
        | assumption | apply State.modFw_canon | apply canonAfter_next)
    | intro _ | split

theorem execWarmReset_canon (s : State) (hs : Canon s) : CanonAfter (execWarmReset s) := by
  unfold execWarmReset
  try dsimp only
  repeat' first
    | with_reducible (first
        | assumption | apply State.afterReset_canon | apply canonAfter_next)
    | intro _ | split

theorem execColdReset_canon (s : State) (hs : Canon s) : CanonAfter (execColdReset s) := by
  unfold execColdReset
  try dsimp only
  repeat' first
    | with_reducible (first
        | assumption | apply State.afterReset_canon | apply canonAfter_next)


theorem execResetPin_canon (s : State) (hs : Canon s) : CanonAfter (execResetPin s) := by
  unfold execResetPin
  try dsimp only
  repeat' first
    | with_reducible (first
        | assumption | apply State.afterReset_canon | apply canonAfter_next)


theorem execLinkTraining_canon (link : LinkKind) (ok : Bool) (s : State) (hs : Canon s) : CanonAfter (execLinkTraining link ok s) := by
  unfold execLinkTraining
  try dsimp only
  repeat' first
    | with_reducible (first
        | assumption | apply State.fabReady_canon | apply State.modFw_canon | apply canonAfter_next)
    | intro _ | split

theorem execLd_canon (h : Head) (d : BitVec 6) (m : MemOp) (s : State) (hs : Canon s) : CanonAfter (execLd h d m s) := by
  unfold execLd
  try dsimp only
  repeat' first
    | with_reducible (first
        | assumption | apply Ctx.loadLanes_canon | apply issue_canon | apply Ctx.retireIn_canon)
    | intro _

theorem execSt_canon (h : Head) (d : BitVec 6) (m : MemOp) (s : State) (hs : Canon s) : CanonAfter (execSt h d m s) := by
  unfold execSt
  try dsimp only
  repeat' first
    | with_reducible (first
        | assumption | apply Ctx.storePieces_canon | apply Ctx.paid_canon | apply Ctx.resolve_canon | apply issue_canon)
    | intro _

theorem execSld_canon (ch : Bool) (d : BitVec 6) (m : MemOp) (s : State) (hs : Canon s) : CanonAfter (execSld ch d m s) := by
  unfold execSld
  try dsimp only
  repeat' first
    | with_reducible (first
        | assumption | apply Ctx.loadLanes_canon | apply issueU_canon | apply Ctx.retireIn_canon)
    | intro _

theorem execSst_canon (ch : Bool) (d : BitVec 6) (m : MemOp) (s : State) (hs : Canon s) : CanonAfter (execSst ch d m s) := by
  unfold execSst
  try dsimp only
  repeat' first
    | with_reducible (first
        | assumption | apply Ctx.storePieces_canon | apply Ctx.paid_canon | apply Ctx.resolve_canon | apply issueU_canon)
    | intro _

theorem execLdf_canon (h : Head) (d : BitVec 6) (m : MemOp) (s : State) (hs : Canon s) : CanonAfter (execLdf h d m s) := by
  unfold execLdf
  try dsimp only
  repeat' first
    | with_reducible (first
        | assumption | apply Ctx.settled_canon | apply Ctx.resolveRead_canon | apply Ctx.poisonCheck_canon
        | apply Ctx.laneTrap_canon | apply State.readNow_canon | apply issue_canon | apply Ctx.retireIn_canon
        | apply Ctx.park_canon | apply State.modBlock_canon | apply foldl_canon | apply foldl_canon_snd)
    | intro _ | split

theorem execStf_canon (h : Head) (d : BitVec 6) (m : MemOp) (s : State) (hs : Canon s) : CanonAfter (execStf h d m s) := by
  unfold execStf
  try dsimp only
  repeat' first
    | with_reducible (first
        | assumption | apply Ctx.storePieces_canon | apply Ctx.resolve_canon | apply issue_canon)
    | intro _

theorem execLde_canon (h : Head) (d : BitVec 6) (m : MemOp) (s : State) (hs : Canon s) : CanonAfter (execLde h d m s) := by
  unfold execLde
  try dsimp only
  repeat' first
    | with_reducible (first
        | assumption | apply Ctx.replyTrap_canon | apply Ctx.fetchLines_canon | apply Ctx.resolveRead_canon
        | apply Ctx.poisonCheck_canon | apply State.loadBytes_canon | apply issue_canon | apply Ctx.retireIn_canon
        | apply foldl_canon_snd)
    | intro _

theorem execTouch_canon (h : Head) (m : MemOp) (s : State) (hs : Canon s) : CanonAfter (execTouch h m s) := by
  unfold execTouch
  try dsimp only
  repeat' first
    | with_reducible (first
        | assumption | apply State.touchPage_canon | apply Ctx.paid_canon | apply Ctx.replyTrap_canon
        | apply Ctx.fetchLines_canon | apply State.sendReads_canon | apply Ctx.resolve_canon | apply State.startWait_canon
        | apply issue_canon | apply Ctx.retire_canon | apply Ctx.retireIn_canon | apply foldl_canon)
    | intro _ | split

theorem execEvict_canon (h : Head) (m : MemOp) (s : State) (hs : Canon s) : CanonAfter (execEvict h m s) := by
  unfold execEvict
  try dsimp only
  repeat' first
    | with_reducible (first
        | assumption | apply Ctx.resolve_canon | apply State.evictPage_canon | apply issue_canon | apply Ctx.retireIn_canon
        | apply Ctx.waitIn_canon | apply Ctx.park_canon | apply foldl_canon)
    | intro _ | split

theorem execPref_canon (h : Head) (m : MemOp) (s : State) (hs : Canon s) : CanonAfter (execPref h m s) := by
  unfold execPref
  try dsimp only
  repeat' first
    | with_reducible (first
        | assumption | apply issue_canon | apply Ctx.retire_canon)
    | intro _

theorem execFsbRelease_canon (frag : ℕ) (s : State) (hs : Canon s) : CanonAfter (execFsbRelease frag s) := by
  unfold execFsbRelease
  try dsimp only
  repeat' first
    | with_reducible (first
        | assumption | apply State.releaseEntry_canon | apply State.draw_canon | apply canonAfter_next)
    | intro _ | split

theorem execBsbDrain_canon (block : ℕ) (index : ℕ) (s : State) (hs : Canon s) : CanonAfter (execBsbDrain block index s) := by
  unfold execBsbDrain
  try dsimp only
  repeat' first
    | with_reducible (first
        | assumption | apply State.drainEntry_canon | apply canonAfter_next)
    | intro _ | split

theorem execEmptyTimeout_canon (frag : ℕ) (s : State) (hs : Canon s) : CanonAfter (execEmptyTimeout frag s) := by
  unfold execEmptyTimeout
  repeat' (first
    | with_reducible assumption
    | with_reducible apply State.afterIssue_canon
    | with_reducible apply canonAfter_next
    | with_reducible apply canonAfter_fault
    | with_reducible apply canonAfter_refused
    | split)
  all_goals exact canonAfter_of (execLdf_canon _ _ _ _ (State.dispatch_canon _ _ _ _ _ _ (State.fetch_canon_eq (h__ := by assumption) (by assumption)))) (by assumption)

theorem execFadd_canon (h : Head) (d : BitVec 6) (a : BitVec 6) (b : BitVec 6) (rm : BitVec 2) (s : State) (hs : Canon s) : CanonAfter
    (execFadd h d a b rm s) := by
  unfold execFadd
  try dsimp only
  repeat' first
    | with_reducible (first
        | assumption | apply fpBinary_canon)


theorem execFsub_canon (h : Head) (d : BitVec 6) (a : BitVec 6) (b : BitVec 6) (rm : BitVec 2) (s : State) (hs : Canon s) : CanonAfter
    (execFsub h d a b rm s) := by
  unfold execFsub
  try dsimp only
  repeat' first
    | with_reducible (first
        | assumption | apply fpBinary_canon)


theorem execFmul_canon (h : Head) (d : BitVec 6) (a : BitVec 6) (b : BitVec 6) (rm : BitVec 2) (s : State) (hs : Canon s) : CanonAfter
    (execFmul h d a b rm s) := by
  unfold execFmul
  try dsimp only
  repeat' first
    | with_reducible (first
        | assumption | apply fpBinary_canon)


theorem execFmac_canon (h : Head) (d : BitVec 6) (a : BitVec 6) (b : BitVec 6) (rm : BitVec 2) (s : State) (hs : Canon s) : CanonAfter
    (execFmac h d a b rm s) := by
  unfold execFmac
  try dsimp only
  repeat' first
    | with_reducible (first
        | assumption | apply Ctx.fpVec_canon | apply issue_canon)
    | intro _

theorem execFfma_canon (h : Head) (d : BitVec 6) (a : BitVec 6) (b : BitVec 6) (e : BitVec 6) (rm : BitVec 2) (np : Bool) (nc : Bool) (s :
    State) (hs : Canon s) : CanonAfter (execFfma h d a b e rm np nc s) := by
  unfold execFfma
  try dsimp only
  repeat' first
    | with_reducible (first
        | assumption | apply Ctx.fpVec_canon | apply issue_canon)
    | intro _

theorem execFmin_canon (h : Head) (d : BitVec 6) (a : BitVec 6) (b : BitVec 6) (s : State) (hs : Canon s) : CanonAfter (execFmin h d a b
    s) := by
  unfold execFmin
  try dsimp only
  repeat' first
    | with_reducible (first
        | assumption | apply fpMinmax_canon)


theorem execFmax_canon (h : Head) (d : BitVec 6) (a : BitVec 6) (b : BitVec 6) (s : State) (hs : Canon s) : CanonAfter (execFmax h d a b
    s) := by
  unfold execFmax
  try dsimp only
  repeat' first
    | with_reducible (first
        | assumption | apply fpMinmax_canon)


theorem execFsgn_canon (h : Head) (d : BitVec 6) (a : BitVec 6) (m : SgnOp) (s : State) (hs : Canon s) : CanonAfter (execFsgn h d a m s)
    := by
  unfold execFsgn
  try dsimp only
  repeat' first
    | with_reducible (first
        | assumption | apply Ctx.vec1_canon | apply issue_canon)
    | intro _

theorem execFcmp_canon (h : Head) (d : BitVec 3) (a : BitVec 6) (b : BitVec 6) (cond : BitVec 3) (s : State) (hs : Canon s) : CanonAfter
    (execFcmp h d a b cond s) := by
  unfold execFcmp
  try dsimp only
  repeat' first
    | with_reducible (first
        | assumption | apply Ctx.fpPred_canon | apply issue_canon)
    | intro _

theorem execFclass_canon (h : Head) (d : BitVec 3) (a : BitVec 6) (mask : BitVec 10) (s : State) (hs : Canon s) : CanonAfter (execFclass h
    d a mask s) := by
  unfold execFclass
  try dsimp only
  repeat' first
    | with_reducible (first
        | assumption | apply Ctx.predicate_canon | apply issue_canon)
    | intro _

theorem execFrnd_canon (h : Head) (d : BitVec 6) (a : BitVec 6) (rm : BitVec 2) (s : State) (hs : Canon s) : CanonAfter (execFrnd h d a rm
    s) := by
  unfold execFrnd
  try dsimp only
  repeat' first
    | with_reducible (first
        | assumption | apply Ctx.fpVec_canon | apply issue_canon)
    | intro _

theorem execFscl_canon (h : Head) (d : BitVec 6) (a : BitVec 6) (b : BitVec 6) (rm : BitVec 2) (s : State) (hs : Canon s) : CanonAfter
    (execFscl h d a b rm s) := by
  unfold execFscl
  try dsimp only
  repeat' first
    | with_reducible (first
        | assumption | apply Ctx.fpVec_canon | apply issue_canon)
    | intro _

theorem execHadd2_canon (h : Head) (d : BitVec 6) (a : BitVec 6) (b : BitVec 6) (f16 : Bool) (s : State) (hs : Canon s) : CanonAfter
    (execHadd2 h d a b f16 s) := by
  unfold execHadd2
  try dsimp only
  repeat' first
    | with_reducible (first
        | assumption | apply halfBinary_canon)


theorem execHmul2_canon (h : Head) (d : BitVec 6) (a : BitVec 6) (b : BitVec 6) (f16 : Bool) (s : State) (hs : Canon s) : CanonAfter
    (execHmul2 h d a b f16 s) := by
  unfold execHmul2
  try dsimp only
  repeat' first
    | with_reducible (first
        | assumption | apply halfBinary_canon)


theorem execHmin2_canon (h : Head) (d : BitVec 6) (a : BitVec 6) (b : BitVec 6) (f16 : Bool) (s : State) (hs : Canon s) : CanonAfter
    (execHmin2 h d a b f16 s) := by
  unfold execHmin2
  try dsimp only
  repeat' first
    | with_reducible (first
        | assumption | apply halfMinmax_canon)


theorem execHmax2_canon (h : Head) (d : BitVec 6) (a : BitVec 6) (b : BitVec 6) (f16 : Bool) (s : State) (hs : Canon s) : CanonAfter
    (execHmax2 h d a b f16 s) := by
  unfold execHmax2
  try dsimp only
  repeat' first
    | with_reducible (first
        | assumption | apply halfMinmax_canon)


theorem execHfma2_canon (h : Head) (d : BitVec 6) (a : BitVec 6) (b : BitVec 6) (e : BitVec 6) (rm : BitVec 2) (f16 : Bool) (s : State)
    (hs : Canon s) : CanonAfter (execHfma2 h d a b e rm f16 s) := by
  unfold execHfma2
  try dsimp only
  repeat' first
    | with_reducible (first
        | assumption | apply Ctx.fpVec_canon | apply issue_canon)
    | intro _

theorem execDot2h_canon (h : Head) (d : BitVec 6) (a : BitVec 6) (b : BitVec 6) (e : BitVec 6) (rm : BitVec 2) (f16 : Bool) (s : State)
    (hs : Canon s) : CanonAfter (execDot2h h d a b e rm f16 s) := by
  unfold execDot2h
  try dsimp only
  repeat' first
    | with_reducible (first
        | assumption | apply Ctx.fpVec_canon | apply issue_canon)
    | intro _

theorem execCvt_canon (h : Head) (d : BitVec 6) (a : BitVec 6) (src : BitVec 4) (dst : BitVec 4) (mode : BitVec 3) (sat : Bool) (s :
    State) (hs : Canon s) : CanonAfter (execCvt h d a src dst mode sat s) := by
  unfold execCvt
  try dsimp only
  repeat' first
    | with_reducible (first
        | assumption | apply Ctx.fpVec_canon | apply issue_canon)
    | intro _

theorem execCvtp_canon (h : Head) (d : BitVec 6) (a : BitVec 6) (b : BitVec 6) (dst : BitVec 4) (mode : BitVec 3) (sat : Bool) (hi : Bool)
    (s : State) (hs : Canon s) : CanonAfter (execCvtp h d a b dst mode sat hi s) := by
  unfold execCvtp
  try dsimp only
  repeat' first
    | with_reducible (first
        | assumption | apply Ctx.fpVec_canon | apply issue_canon)
    | intro _

theorem execCvtu_canon (h : Head) (d : BitVec 6) (a : BitVec 6) (src : BitVec 4) (idx : BitVec 3) (s : State) (hs : Canon s) : CanonAfter
    (execCvtu h d a src idx s) := by
  unfold execCvtu
  try dsimp only
  repeat' first
    | with_reducible (first
        | assumption | apply Ctx.fpVec_canon | apply issue_canon)
    | intro _

theorem execQdec_canon (h : Head) (d : BitVec 6) (a : BitVec 6) (b : BitVec 6) (idx : BitVec 3) (s : State) (hs : Canon s) : CanonAfter
    (execQdec h d a b idx s) := by
  unfold execQdec
  try dsimp only
  repeat' first
    | with_reducible (first
        | assumption | apply Ctx.vec2_canon | apply issue_canon)
    | intro _

theorem execQenc_canon (h : Head) (d : BitVec 6) (a : BitVec 6) (type : BitVec 2) (q16 : Bool) (s : State) (hs : Canon s) : CanonAfter
    (execQenc h d a type q16 s) := by
  unfold execQenc
  try dsimp only
  repeat' first
    | with_reducible (first
        | assumption | apply Ctx.fpVec_canon | apply issue_canon)
    | intro _

theorem execShfl_canon (h : Head) (d : BitVec 6) (a : BitVec 6) (b : BitVec 6) (e : BitVec 6) (seg : BitVec 3) (edge : Edge) (ln : Bool)
    (mm : Bool) (imm : BitVec 10) (im : Bool) (mode : ShflMode) (s : State) (hs : Canon s) : CanonAfter (execShfl h d a b e seg edge ln mm
    imm im mode s) := by
  unfold execShfl
  try dsimp only
  repeat' first
    | with_reducible (first
        | assumption | apply Ctx.withMembers_canon | apply issue_canon | apply Ctx.retire_canon)
    | intro _

theorem execVote_canon (h : Head) (d : BitVec 6) (a : BitVec 3) (e : BitVec 6) (mode : VoteMode) (mm : Bool) (ln : Bool) (s : State) (hs :
    Canon s) : CanonAfter (execVote h d a e mode mm ln s) := by
  unfold execVote
  try dsimp only
  repeat' first
    | with_reducible (first
        | assumption | apply Ctx.withMembers_canon | apply Ctx.uniform_canon | apply issue_canon | apply Ctx.retire_canon)
    | intro _ | split

theorem execRedw_canon (h : Head) (d : BitVec 6) (a : BitVec 6) (e : BitVec 6) (op : RedOp) (mm : Bool) (ln : Bool) (s : State) (hs :
    Canon s) : CanonAfter (execRedw h d a e op mm ln s) := by
  unfold execRedw
  try dsimp only
  repeat' first
    | with_reducible (first
        | assumption | apply Ctx.withMembers_canon | apply Ctx.fpRetire_canon | apply issue_canon)
    | intro _

theorem execScanw_canon (h : Head) (d : BitVec 6) (a : BitVec 6) (b : BitVec 6) (e : BitVec 6) (op : RedOp) (ex : Bool) (mm : Bool) (ln :
    Bool) (s : State) (hs : Canon s) : CanonAfter (execScanw h d a b e op ex mm ln s) := by
  unfold execScanw
  try dsimp only
  repeat' first
    | with_reducible (first
        | assumption | apply Ctx.withMembers_canon | apply Ctx.fpRetire_canon | apply issue_canon | apply Ctx.retire_canon)
    | intro _ | split

theorem execElect_canon (h : Head) (d : BitVec 3) (s : State) (hs : Canon s) : CanonAfter (execElect h d s) := by
  unfold execElect
  try dsimp only
  repeat' first
    | with_reducible (first
        | assumption | apply Ctx.predicate_canon | apply issue_canon)
    | intro _

theorem execRdlane_canon (h : Head) (d : BitVec 6) (a : BitVec 6) (lane : BitVec 5) (s : State) (hs : Canon s) : CanonAfter (execRdlane h
    d a lane s) := by
  unfold execRdlane
  try dsimp only
  repeat' first
    | with_reducible (first
        | assumption | apply Ctx.uniform_canon | apply issue_canon | apply Ctx.retire_canon)
    | intro _ | split

theorem execBcast_canon (h : Head) (d : BitVec 6) (a : BitVec 6) (lane : BitVec 5) (s : State) (hs : Canon s) : CanonAfter (execBcast h d
    a lane s) := by
  unfold execBcast
  try dsimp only
  repeat' first
    | with_reducible (first
        | assumption | apply issue_canon | apply Ctx.retire_canon)
    | intro _

theorem execTailWrite_canon (queue : BitVec 12) (write : HostWrite DWord) (s : State) (hs : Canon s) : CanonAfter (execTailWrite queue
    write s) := by
  unfold execTailWrite
  try dsimp only
  repeat' first
    | with_reducible (first
        | assumption | apply State.setQueue_canon | apply canonAfter_next)
    | intro _ | split

theorem execQueueSlotWrite_canon (queue : BitVec 12) (slot : ℕ) (write : HostWrite (BitVec 2048)) (s : State) (hs : Canon s) : CanonAfter
    (execQueueSlotWrite queue slot write s) := by
  unfold execQueueSlotWrite
  try dsimp only
  repeat' first
    | with_reducible (first
        | assumption | apply State.setQueue_canon | apply canonAfter_next)
    | intro _ | split

theorem execRecordAccept_canon (queue : BitVec 12) (s : State) (hs : Canon s) : CanonAfter (execRecordAccept queue s) := by
  unfold execRecordAccept
  try dsimp only
  repeat' first
    | with_reducible (first
        | assumption | apply State.readHeader_canon | apply State.finishGrid_canon | apply State.settleGrids_canon
        | apply State.fresh_canon | apply State.modWork_canon | apply State.setQueue_canon | apply canonAfter_next)
    | intro _ | split

theorem execGridComplete_canon (grid : GridId) (s : State) (hs : Canon s) : CanonAfter (execGridComplete grid s) := by
  unfold execGridComplete
  try dsimp only
  repeat' first
    | with_reducible (first
        | assumption | apply State.finishGrid_canon | apply canonAfter_next)
    | intro _ | split

theorem execBlockPlace_canon (grid : GridId) (core : ℕ) (parts : List ℕ) (s : State) (hs : Canon s) : CanonAfter (execBlockPlace grid core
    parts s) := by
  unfold execBlockPlace
  try dsimp only
  repeat' first
    | with_reducible (first
        | assumption | apply State.placeBlock_canon | apply State.modGrid_canon | apply canonAfter_next)
    | intro _ | split

theorem execGangPlace_canon (grid : GridId) (cores : List ℕ) (s : State) (hs : Canon s) : CanonAfter (execGangPlace grid cores s) := by
  unfold execGangPlace
  try dsimp only
  repeat' first
    | with_reducible (first
        | assumption | apply State.dropHold_canon | apply State.placeBlock_canon | apply State.modGrid_canon
        | apply canonAfter_next | apply foldl_canon)
    | intro _ | split

theorem execGangHold_canon (grid : GridId) (cluster : ℕ) (s : State) (hs : Canon s) : CanonAfter (execGangHold grid cluster s) := by
  unfold execGangHold
  try dsimp only
  repeat' first
    | with_reducible (first
        | assumption | apply State.modWork_canon | apply canonAfter_next)
    | intro _ | split

theorem execBlockResume_canon (block : ℕ) (cores : List ℕ) (s : State) (hs : Canon s) : CanonAfter (execBlockResume block cores s) := by
  unfold execBlockResume
  try dsimp only
  repeat' first
    | with_reducible (first
        | assumption | apply State.resumeOne_canon | apply State.dropHold_canon | apply canonAfter_next | apply foldl_canon)
    | intro _ | split

theorem execPageWalkDone_canon (job : BitVec 16) (va : DWord) (s : State) (hs : Canon s) : CanonAfter (execPageWalkDone job va s) := by
  unfold execPageWalkDone
  try dsimp only
  repeat' first
    | with_reducible (first
        | assumption | apply State.fillTlbs_canon | apply State.wakePages_canon | apply State.modMem_canon
        | apply canonAfter_next | apply foldl_canon)
    | intro _ | split

theorem execMemoryPressureEvict_canon (job : BitVec 16) (va : DWord) (s : State) (hs : Canon s) : CanonAfter (execMemoryPressureEvict job
    va s) := by
  unfold execMemoryPressureEvict
  try dsimp only
  repeat' first
    | with_reducible (first
        | assumption | apply State.evictPage_canon | apply State.wakePages_canon | apply canonAfter_next)
    | intro _ | split

theorem execGreq_canon (p : Arrival) (m : PageMsg) (s : State) (hs : Canon s) : CanonAfter (execGreq p m s) := by
  unfold execGreq
  try dsimp only
  repeat' first
    | with_reducible (first
        | assumption | apply State.onRequest_canon | apply State.onPage_canon)
    | intro _

theorem execDreq_canon (p : Arrival) (m : PageMsg) (s : State) (hs : Canon s) : CanonAfter (execDreq p m s) := by
  unfold execDreq
  try dsimp only
  repeat' first
    | with_reducible (first
        | assumption | apply State.onRequest_canon | apply State.onPage_canon)
    | intro _

theorem execGather_canon (p : Arrival) (m : PageMsg) (s : State) (hs : Canon s) : CanonAfter (execGather p m s) := by
  unfold execGather
  try dsimp only
  repeat' first
    | with_reducible (first
        | assumption | apply State.onPage_canon | apply State.sayBusy_canon | apply State.onGather_canon)
    | intro _ | split

theorem execGdata_canon (p : Arrival) (m : PageMsg) (s : State) (hs : Canon s) : CanonAfter (execGdata p m s) := by
  unfold execGdata
  try dsimp only
  repeat' first
    | with_reducible (first
        | assumption | apply State.landGranules_canon | apply State.onPage_canon | apply State.sayBusy_canon
        | apply State.memberDone_canon | apply State.setShst_canon | apply State.setTransition_canon)
    | intro _ | split

theorem execGdone_canon (p : Arrival) (m : PageMsg) (s : State) (hs : Canon s) : CanonAfter (execGdone p m s) := by
  unfold execGdone
  try dsimp only
  repeat' first
    | with_reducible (first
        | assumption | apply State.onPage_canon | apply State.onDone_canon)
    | intro _ | split

theorem execDrain_canon (p : Arrival) (m : PageMsg) (s : State) (hs : Canon s) : CanonAfter (execDrain p m s) := by
  unfold execDrain
  try dsimp only
  repeat' first
    | with_reducible (first
        | assumption | apply State.onPage_canon | apply State.sayBusy_canon | apply State.onDrain_canon)
    | intro _ | split

theorem execDsum_canon (p : Arrival) (m : PageMsg) (s : State) (hs : Canon s) : CanonAfter (execDsum p m s) := by
  unfold execDsum
  try dsimp only
  repeat' first
    | with_reducible (first
        | assumption | apply State.onPage_canon | apply State.sayBusy_canon | apply State.onDsum_canon)
    | intro _ | split

theorem execDdone_canon (p : Arrival) (m : PageMsg) (s : State) (hs : Canon s) : CanonAfter (execDdone p m s) := by
  unfold execDdone
  try dsimp only
  repeat' first
    | with_reducible (first
        | assumption | apply State.onPage_canon | apply State.onDone_canon)
    | intro _ | split

theorem execPageEnd_canon (p : Arrival) (m : PageMsg) (s : State) (hs : Canon s) : CanonAfter (execPageEnd p m s) := by
  unfold execPageEnd
  try dsimp only
  repeat' first
    | with_reducible (first
        | assumption | apply State.onPage_canon | apply State.onEnd_canon)
    | intro _ | split

theorem execFetch_canon (p : Arrival) (m : PageMsg) (s : State) (hs : Canon s) : CanonAfter (execFetch p m s) := by
  unfold execFetch
  try dsimp only
  repeat' first
    | with_reducible (first
        | assumption | apply State.serveFetch_canon | apply State.onPage_canon)
    | intro _

theorem execFdata_canon (p : Arrival) (m : PageMsg) (s : State) (hs : Canon s) : CanonAfter (execFdata p m s) := by
  unfold execFdata
  try dsimp only
  repeat' first
    | with_reducible (first
        | assumption | apply State.filled_canon | apply State.landGranules_canon | apply State.onPage_canon
        | apply State.setShst_canon | apply State.closeFill_canon | apply State.setTransition_canon
        | apply State.dropFrame_canon)
    | intro _ | split

theorem execDeferredFill_canon (job : BitVec 16) (s : State) (hs : Canon s) : CanonAfter (execDeferredFill job s) := by
  unfold execDeferredFill
  try dsimp only
  repeat' first
    | with_reducible (first
        | assumption | apply State.openTransition_canon | apply State.copyOwn_canon | apply State.sendOthers_canon
        | apply State.takeFrame_canon | apply State.setJob_canon | apply canonAfter_next)
    | intro _ | split

theorem execBusy_canon (p : Arrival) (m : PageMsg) (s : State) (hs : Canon s) : CanonAfter (execBusy p m s) := by
  unfold execBusy
  try dsimp only
  repeat' first
    | with_reducible (first
        | assumption | apply State.keepBusy_canon | apply State.onPage_canon)
    | intro _

theorem execBusyRetry_canon (index : ℕ) (s : State) (hs : Canon s) : CanonAfter (execBusyRetry index s) := by
  unfold execBusyRetry
  try dsimp only
  repeat' first
    | with_reducible (first
        | assumption | apply State.post_canon | apply State.modMem_canon | apply canonAfter_next)
    | intro _ | split

theorem execFail_canon (p : Arrival) (m : PageMsg) (s : State) (hs : Canon s) : CanonAfter (execFail p m s) := by
  unfold execFail
  try dsimp only
  repeat' first
    | with_reducible (first
        | assumption | apply State.onPage_canon | apply State.sayBusy_canon | apply State.failPage_canon)
    | intro _ | split

theorem execPageTimeout_canon (job : BitVec 16) (va : DWord) (rank : BitVec 6) (s : State) (hs : Canon s) : CanonAfter (execPageTimeout
    job va rank s) := by
  unfold execPageTimeout
  try dsimp only
  repeat' first
    | with_reducible (first
        | assumption | apply State.failPage_canon | apply canonAfter_next)
    | intro _ | split

theorem execGovernorPeriod_canon (s : State) (hs : Canon s) : CanonAfter (execGovernorPeriod s) := by
  unfold execGovernorPeriod
  try dsimp only
  repeat' first
    | with_reducible (first
        | assumption | apply canonAfter_next)
    | intro _ | split | assumption

theorem execCooperativeSave_canon (block : ℕ) (s : State) (hs : Canon s) : CanonAfter (execCooperativeSave block s) := by
  unfold execCooperativeSave
  try dsimp only
  repeat' first
    | with_reducible (first
        | assumption | apply State.saveAll_canon | apply canonAfter_next)
    | intro _ | split

theorem execForcedSave_canon (block : ℕ) (s : State) (hs : Canon s) : CanonAfter (execForcedSave block s) := by
  unfold execForcedSave
  try dsimp only
  repeat' first
    | with_reducible (first
        | assumption | apply State.forceBlocks_canon | apply canonAfter_next)
    | intro _ | split

theorem execBlockEnd_canon (block : ℕ) (s : State) (hs : Canon s) : CanonAfter (execBlockEnd block s) := by
  unfold execBlockEnd
  try dsimp only
  repeat' first
    | with_reducible (first
        | assumption | apply State.removeBlock_canon | apply State.unbind_canon | apply State.drainAll_canon
        | apply State.publishHeld_canon | apply State.arriveWhere_canon | apply State.landRedms_canon | apply canonAfter_next)
    | intro _ | split

theorem execGridEndRequest_canon (grid : GridId) (s : State) (hs : Canon s) : CanonAfter (execGridEndRequest grid s) := by
  unfold execGridEndRequest
  try dsimp only
  repeat' first
    | with_reducible (first
        | assumption | apply State.killUnplaced_canon | apply State.finishGrid_canon | apply State.killBlock_canon
        | apply State.draw_canon | apply canonAfter_next | apply foldl_canon)
    | intro _ | split

theorem execErrorConsume_canon (frag : ℕ) (addr : DWord) (s : State) (hs : Canon s) : CanonAfter (execErrorConsume frag addr s) := by
  unfold execErrorConsume
  repeat' (first
    | with_reducible assumption
    | with_reducible apply canonAfter_next
    | split
    | exact (State.addPoison_canon _ _ _ hs : Canon (State.addPoison _ _ _))
    | exact hs)

theorem execCoreRetire_canon (core : ℕ) (s : State) (hs : Canon s) : CanonAfter (execCoreRetire core s) := by
  unfold execCoreRetire
  try dsimp only
  repeat' first
    | with_reducible (first
        | assumption | apply State.retireCore_canon | apply canonAfter_next)


theorem execLaneRemap_canon (core : ℕ) (part : BitVec 2) (lane : BitVec 6) (s : State) (hs : Canon s) : CanonAfter (execLaneRemap core
    part lane s) := by
  unfold execLaneRemap
  try dsimp only
  repeat' first
    | with_reducible (first
        | assumption | apply State.remapLane_canon | apply canonAfter_next)


theorem execChannelRetire_canon (channel : BitVec 8) (s : State) (hs : Canon s) : CanonAfter (execChannelRetire channel s) := by
  unfold execChannelRetire
  try dsimp only
  repeat' first
    | with_reducible (first
        | assumption | apply State.retireChannel_canon | apply canonAfter_next)


theorem execSelfTest_canon (cls : Unit9) (unit : BitVec 32) (pass : Bool) (s : State) (hs : Canon s) : CanonAfter (execSelfTest cls unit
    pass s) := by
  unfold execSelfTest
  try dsimp only
  repeat' first
    | with_reducible (first
        | assumption | apply State.failUnit_canon | apply State.logError_canon | apply State.modRepair_canon
        | apply canonAfter_next)
    | intro _ | split

theorem execScrub_canon (line : ℕ) (wrong : BitVec 72) (s : State) (hs : Canon s) : CanonAfter (execScrub line wrong s) := by
  unfold execScrub
  try dsimp only
  repeat' first
    | with_reducible (first
        | assumption | apply State.startTest_canon | apply State.logError_canon | apply State.addPoison_canon
        | apply State.drawN_canon | apply canonAfter_next)
    | intro _ | split

theorem execSliceStart_canon (sgid : BitVec 12) (s : State) (hs : Canon s) : CanonAfter (execSliceStart sgid s) := by
  unfold execSliceStart
  try dsimp only
  repeat' first
    | with_reducible (first
        | assumption | apply State.sendMgt_canon | apply State.setSlice_canon | apply State.modWork_canon
        | apply canonAfter_next)
    | intro _ | split

theorem execReady_canon (p : Arrival) (sgid : BitVec 12) (start : DWord) (s : State) (hs : Canon s) : CanonAfter (execReady p sgid start
    s) := by
  unfold execReady
  try dsimp only
  repeat' first
    | with_reducible (first
        | assumption | apply State.tryMembers_canon | apply State.setSlice_canon | apply State.ingress_canon)
    | intro _ | split

theorem execSabort_canon (p : Arrival) (sgid : BitVec 12) (x2 : BitVec 8) (start : DWord) (x4 : DWord) (s : State) (hs : Canon s) :
    CanonAfter (execSabort p sgid x2 start x4 s) := by
  unfold execSabort
  try dsimp only
  repeat' first
    | with_reducible (first
        | assumption | apply State.abortSlice_canon | apply State.ingress_canon)
    | intro _ | split

theorem execSliceGraceExpire_canon (sgid : BitVec 12) (s : State) (hs : Canon s) : CanonAfter (execSliceGraceExpire sgid s) := by
  unfold execSliceGraceExpire
  try dsimp only
  repeat' first
    | with_reducible (first
        | assumption | apply State.sendAbort_canon | apply canonAfter_next)
    | intro _ | split

theorem execSliceAbortRequest_canon (sgid : BitVec 12) (s : State) (hs : Canon s) : CanonAfter (execSliceAbortRequest sgid s) := by
  unfold execSliceAbortRequest
  try dsimp only
  repeat' first
    | with_reducible (first
        | assumption | apply State.sendAbort_canon | apply canonAfter_next)
    | intro _ | split

theorem execTimeqSend_canon (peer : BitVec 11) (s : State) (hs : Canon s) : CanonAfter (execTimeqSend peer s) := by
  unfold execTimeqSend
  try dsimp only
  repeat' first
    | with_reducible (first
        | assumption | apply State.send_canon | apply canonAfter_next)
    | intro _ | split

theorem execTimeq_canon (p : Arrival) (t1 : DWord) (s : State) (hs : Canon s) : CanonAfter (execTimeq p t1 s) := by
  unfold execTimeq
  try dsimp only
  repeat' first
    | with_reducible (first
        | assumption | apply State.ingress_canon | apply State.send_canon)
    | intro _

theorem execTimer_canon (p : Arrival) (t1 : DWord) (t2 : DWord) (t3 : DWord) (s : State) (hs : Canon s) : CanonAfter (execTimer p t1 t2 t3
    s) := by
  unfold execTimer
  try dsimp only
  repeat' first
    | with_reducible (first
        | assumption | apply State.ingress_canon)
    | intro _ | split | assumption

theorem execTrap_canon (h : Head) (imm : Half) (s : State) (hs : Canon s) : CanonAfter (execTrap h imm s) := by
  unfold execTrap
  try dsimp only
  repeat' first
    | with_reducible (first
        | assumption | apply issue_canon | apply Ctx.retire_canon | apply Ctx.trapWith_canon)
    | intro _ | split

theorem execBrk_canon (h : Head) (imm : Half) (s : State) (hs : Canon s) : CanonAfter (execBrk h imm s) := by
  unfold execBrk
  try dsimp only
  repeat' first
    | with_reducible (first
        | assumption | apply issue_canon | apply Ctx.retire_canon | apply Ctx.trapWith_canon)
    | intro _ | split

theorem execTrapEntry_canon (frag : ℕ) (s : State) (hs : Canon s) : CanonAfter (execTrapEntry frag s) := by
  unfold execTrapEntry
  try dsimp only
  repeat' first
    | with_reducible (first
        | assumption | apply State.enterTrap_canon | apply canonAfter_next)
    | intro _ | split

theorem execRett_canon (ch : Bool) (form : RettForm) (s : State) (hs : Canon s) : CanonAfter (execRett ch form s) := by
  unfold execRett
  try dsimp only
  repeat' first
    | with_reducible (first
        | assumption | apply issueU_canon | apply State.markRetired_canon | apply Ctx.trap_canon | apply Ctx.trapWith_canon
        | apply State.setFrag_canon | apply canonAfter_next)
    | intro _ | split

theorem execPreq_canon (ch : Bool) (d : BitVec 6) (s : State) (hs : Canon s) : CanonAfter (execPreq ch d s) := by
  unfold execPreq
  try dsimp only
  repeat' first
    | with_reducible (first
        | assumption | apply State.signal_canon | apply issueU_canon | apply Ctx.retireIn_canon | apply Ctx.trap_canon
        | apply State.soil_canon)
    | intro _ | split

theorem execJobOpen_canon (job : BitVec 16) (root : BitVec 52) (key : BitVec 32) (s : State) (hs : Canon s) : CanonAfter (execJobOpen job
    root key s) := by
  unfold execJobOpen
  try dsimp only
  repeat' first
    | with_reducible (first
        | assumption | apply refuseIf_canon | apply State.firmware_canon | apply State.modWork_canon)


theorem execJobClose_canon (job : BitVec 16) (s : State) (hs : Canon s) : CanonAfter (execJobClose job s) := by
  unfold execJobClose
  try dsimp only
  repeat' first
    | with_reducible (first
        | assumption | apply refuseIf_canon | apply State.firmware_canon | apply State.dropTranslations_canon
        | apply State.modWork_canon | apply State.modMem_canon)
    | intro _

theorem execQueueConfig_canon (queue : BitVec 16) (size : ℕ) (job : BitVec 16) (preempt : Bool) (pdl : ℕ) (enable : Bool) (s : State) (hs
    : Canon s) : CanonAfter (execQueueConfig queue size job preempt pdl enable s) := by
  unfold execQueueConfig
  try dsimp only
  repeat' first
    | with_reducible (first
        | assumption | apply refuseIf_canon | apply State.firmware_canon | apply State.modWork_canon
        | apply State.setQueue_canon)
    | intro _ | split

theorem execQueueReset_canon (queue : BitVec 12) (s : State) (hs : Canon s) : CanonAfter (execQueueReset queue s) := by
  unfold execQueueReset
  try dsimp only
  repeat' first
    | with_reducible (first
        | assumption | apply State.resetQueue_canon | apply State.firmware_canon | apply canonFw_done)


theorem execKeyLoad_canon (job : BitVec 16) (handle : BitVec 16) (key : Option (BitVec 512)) (s : State) (hs : Canon s) : CanonAfter
    (execKeyLoad job handle key s) := by
  unfold execKeyLoad
  try dsimp only
  repeat' first
    | with_reducible (first
        | assumption | apply refuseIf_canon | apply State.firmware_canon | apply State.setJob_canon | apply canonFw_refused)
    | intro _ | split

theorem execGroupWrite_canon (sgid : BitVec 12) (entry : BitVec 2048) (s : State) (hs : Canon s) : CanonAfter (execGroupWrite sgid entry
    s) := by
  unfold execGroupWrite
  try dsimp only
  repeat' first
    | with_reducible (first
        | assumption | apply refuseIf_canon | apply State.firmware_canon | apply State.modColl_canon | apply State.modWork_canon
        | apply canonFw_invalid)
    | intro _ | split

theorem execMap_canon (job : BitVec 16) (va : DWord) (given : BitVec 128) (s : State) (hs : Canon s) : CanonAfter (execMap job va given s)
    := by
  unfold execMap
  try dsimp only
  repeat' first
    | with_reducible (first
        | assumption | apply State.install_canon | apply State.unmapOld_canon | apply State.settleOld_canon
        | apply State.firmware_canon | apply canonAfter_next | apply canonFw_done | apply canonFw_refused)
    | intro _ | split

theorem execGrant_canon (host : ℕ) (frame : ℕ) (count : ℕ) (give : Bool) (s : State) (hs : Canon s) : CanonAfter (execGrant host frame
    count give s) := by
  unfold execGrant
  try dsimp only
  repeat' first
    | with_reducible (first
        | assumption | apply refuseIf_canon | apply State.firmware_canon | apply State.modFw_canon | apply canonFw_done)
    | intro _ | split

theorem execRouteLoad_canon (first : BitVec 11) (entries : List RouteEntry) (commit : Bool) (s : State) (hs : Canon s) : CanonAfter
    (execRouteLoad first entries commit s) := by
  unfold execRouteLoad
  try dsimp only
  repeat' first
    | with_reducible (first
        | assumption | apply State.commitRoutes_canon | apply refuseIf_canon | apply State.firmware_canon
        | apply State.modFab_canon)
    | intro _ | split

theorem execAdmitKeys_canon (port : BitVec 5) (keys : List (BitVec 32)) (s : State) (hs : Canon s) : CanonAfter (execAdmitKeys port keys
    s) := by
  unfold execAdmitKeys
  try dsimp only
  repeat' first
    | with_reducible (first
        | assumption | apply refuseIf_canon | apply State.firmware_canon | apply State.modFab_canon)


theorem execSlice_canon (sgid : BitVec 12) (start : DWord) (grace : Word) (s : State) (hs : Canon s) : CanonAfter (execSlice sgid start
    grace s) := by
  unfold execSlice
  try dsimp only
  repeat' first
    | with_reducible (first
        | assumption | apply State.firmware_canon | apply State.tryMembers_canon | apply State.modColl_canon
        | apply canonFw_done | apply canonFw_refused)
    | intro _ | split

theorem execPreempt_canon (who : PreemptTarget) (s : State) (hs : Canon s) : CanonAfter (execPreempt who s) := by
  unfold execPreempt
  try dsimp only
  repeat' first
    | with_reducible (first
        | assumption | apply refuseIf_canon | apply State.firmware_canon | apply State.signal_canon)


theorem execPgovWrite_canon (value : DWord) (s : State) (hs : Canon s) : CanonAfter (execPgovWrite value s) := by
  unfold execPgovWrite
  try dsimp only
  repeat' first
    | with_reducible (first
        | assumption | apply State.firmware_canon | apply State.modPower_canon | apply canonFw_done)


theorem execPgovRead_canon (s : State) (hs : Canon s) : CanonAfter (execPgovRead s) := by
  unfold execPgovRead
  try dsimp only
  repeat' first
    | with_reducible (first
        | assumption | apply State.firmware_canon | apply canonFw_done)


theorem execQuote_canon (nonce : BitVec 256) (s : State) (hs : Canon s) : CanonAfter (execQuote nonce s) := by
  unfold execQuote
  try dsimp only
  repeat' first
    | with_reducible (first
        | assumption | apply State.firmware_canon | apply canonFw_done)


theorem execDebug_canon (warp : ℕ) (act : DebugAct) (s : State) (hs : Canon s) : CanonAfter (execDebug warp act s) := by
  unfold execDebug
  split
  · exact State.firmware_canon _ _ _ hs canonFw_refused
  split
  · exact State.firmware_canon _ _ _ hs (canonFw_done (State.throughImage_canon _ _ _ hs (fun s hs => State.modWarp_canon _ _ _ hs)) _ _)
  · refine State.firmware_canon _ _ _ hs ?_
    split
    · exact canonFw_done (State.endStopOf_canon _ _ _ hs _ (by assumption)) _ _
    · trivial
  · refine State.firmware_canon _ _ _ hs ?_
    split
    · exact canonFw_done (State.endStopOf_canon _ _ _ hs _ (by assumption)) _ _
    · trivial

theorem execSaveArea_canon (job : BitVec 16) (va : DWord) (len : DWord) (s : State) (hs : Canon s) : CanonAfter (execSaveArea job va len
    s) := by
  unfold execSaveArea
  try dsimp only
  repeat' first
    | with_reducible (first
        | assumption | apply refuseIf_canon | apply State.firmware_canon | apply State.setJob_canon | apply canonFw_refused)
    | intro _ | split

theorem execReset_canon (s : State) (hs : Canon s) : CanonAfter (execReset s) := by
  unfold execReset
  try dsimp only
  repeat' first
    | with_reducible (first
        | assumption | apply State.firmware_canon | apply State.modFw_canon | apply canonFw_done)


theorem execReservedRequest_canon (code : BitVec 16) (s : State) (hs : Canon s) : CanonAfter (execReservedRequest code s) := by
  unfold execReservedRequest
  try dsimp only
  repeat' first
    | with_reducible (first
        | assumption | apply State.firmware_canon | apply canonAfter_next | apply canonFw_invalid)
    | intro _ | split

theorem execRcp_canon (h : Head) (d : BitVec 6) (a : BitVec 6) (s : State) (hs : Canon s) : CanonAfter (execRcp h d a s) := by
  unfold execRcp
  try dsimp only
  repeat' first
    | with_reducible (first
        | assumption | apply sfuUnary_canon)


theorem execRsq_canon (h : Head) (d : BitVec 6) (a : BitVec 6) (s : State) (hs : Canon s) : CanonAfter (execRsq h d a s) := by
  unfold execRsq
  try dsimp only
  repeat' first
    | with_reducible (first
        | assumption | apply sfuUnary_canon)


theorem execSqrt_canon (h : Head) (d : BitVec 6) (a : BitVec 6) (s : State) (hs : Canon s) : CanonAfter (execSqrt h d a s) := by
  unfold execSqrt
  try dsimp only
  repeat' first
    | with_reducible (first
        | assumption | apply sfuUnary_canon)


theorem execExp2_canon (h : Head) (d : BitVec 6) (a : BitVec 6) (s : State) (hs : Canon s) : CanonAfter (execExp2 h d a s) := by
  unfold execExp2
  try dsimp only
  repeat' first
    | with_reducible (first
        | assumption | apply sfuUnary_canon)


theorem execLog2_canon (h : Head) (d : BitVec 6) (a : BitVec 6) (s : State) (hs : Canon s) : CanonAfter (execLog2 h d a s) := by
  unfold execLog2
  try dsimp only
  repeat' first
    | with_reducible (first
        | assumption | apply sfuUnary_canon)


theorem execSinp_canon (h : Head) (d : BitVec 6) (a : BitVec 6) (s : State) (hs : Canon s) : CanonAfter (execSinp h d a s) := by
  unfold execSinp
  try dsimp only
  repeat' first
    | with_reducible (first
        | assumption | apply sfuUnary_canon)


theorem execCosp_canon (h : Head) (d : BitVec 6) (a : BitVec 6) (s : State) (hs : Canon s) : CanonAfter (execCosp h d a s) := by
  unfold execCosp
  try dsimp only
  repeat' first
    | with_reducible (first
        | assumption | apply sfuUnary_canon)


theorem execTanh_canon (h : Head) (d : BitVec 6) (a : BitVec 6) (s : State) (hs : Canon s) : CanonAfter (execTanh h d a s) := by
  unfold execTanh
  try dsimp only
  repeat' first
    | with_reducible (first
        | assumption | apply sfuUnary_canon)


theorem execSrr_canon (ch : Bool) (d : BitVec 6) (sl : BitVec 12) (s : State) (hs : Canon s) : CanonAfter (execSrr ch d sl s) := by
  unfold execSrr
  try dsimp only
  repeat' first
    | with_reducible (first
        | assumption | apply Ctx.uniform_canon | apply issueWhen_canon)
    | intro _

theorem execSrw_canon (ch : Bool) (a : BitVec 6) (sl : BitVec 12) (s : State) (hs : Canon s) : CanonAfter (execSrw ch a sl s) := by
  unfold execSrw
  try dsimp only
  repeat' first
    | with_reducible (first
        | assumption | apply writeSpecial_canon | apply issueWhen_canon | apply Ctx.retireIn_canon | apply Ctx.trap_canon)
    | intro _ | split

theorem execSadd_canon (ch : Bool) (d : BitVec 6) (a : BitVec 6) (b : BitVec 6) (s : State) (hs : Canon s) : CanonAfter (execSadd ch d a b
    s) := by
  unfold execSadd
  try dsimp only
  repeat' first
    | with_reducible (first
        | assumption | apply uniBinary_canon)


theorem execSsub_canon (ch : Bool) (d : BitVec 6) (a : BitVec 6) (b : BitVec 6) (s : State) (hs : Canon s) : CanonAfter (execSsub ch d a b
    s) := by
  unfold execSsub
  try dsimp only
  repeat' first
    | with_reducible (first
        | assumption | apply uniBinary_canon)


theorem execSmul_canon (ch : Bool) (d : BitVec 6) (a : BitVec 6) (b : BitVec 6) (s : State) (hs : Canon s) : CanonAfter (execSmul ch d a b
    s) := by
  unfold execSmul
  try dsimp only
  repeat' first
    | with_reducible (first
        | assumption | apply uniBinary_canon)


theorem execSshf_canon (ch : Bool) (d : BitVec 6) (a : BitVec 6) (b : BitVec 6) (m : ShfOp) (s : State) (hs : Canon s) : CanonAfter
    (execSshf ch d a b m s) := by
  unfold execSshf
  try dsimp only
  repeat' first
    | with_reducible (first
        | assumption | apply uniBinary_canon)


theorem execSlog_canon (ch : Bool) (d : BitVec 6) (a : BitVec 6) (b : BitVec 6) (m : BitVec 2) (s : State) (hs : Canon s) : CanonAfter
    (execSlog ch d a b m s) := by
  unfold execSlog
  try dsimp only
  repeat' first
    | with_reducible (first
        | assumption | apply uniBinary_canon)


theorem execSminmax_canon (ch : Bool) (d : BitVec 6) (a : BitVec 6) (b : BitVec 6) (m : BitVec 2) (s : State) (hs : Canon s) : CanonAfter
    (execSminmax ch d a b m s) := by
  unfold execSminmax
  try dsimp only
  repeat' first
    | with_reducible (first
        | assumption | apply uniBinary_canon)


theorem execSmov_canon (ch : Bool) (d : BitVec 6) (a : BitVec 6) (s : State) (hs : Canon s) : CanonAfter (execSmov ch d a s) := by
  unfold execSmov
  try dsimp only
  repeat' first
    | with_reducible (first
        | assumption | apply Ctx.uniform_canon | apply issueU_canon)
    | intro _

theorem execSmovi_canon (ch : Bool) (d : BitVec 6) (i : BitVec 8) (s : State) (hs : Canon s) : CanonAfter (execSmovi ch d i s) := by
  unfold execSmovi
  try dsimp only
  repeat' first
    | with_reducible (first
        | assumption | apply Ctx.uniform_canon | apply issueU_canon)
    | intro _

theorem execSmad_canon (ch : Bool) (d : BitVec 6) (a : BitVec 6) (b : BitVec 6) (e : BitVec 6) (s : State) (hs : Canon s) : CanonAfter
    (execSmad ch d a b e s) := by
  unfold execSmad
  try dsimp only
  repeat' first
    | with_reducible (first
        | assumption | apply Ctx.uniform_canon | apply issueU_canon)
    | intro _

theorem execSlea_canon (ch : Bool) (d : BitVec 6) (a : BitVec 6) (b : BitVec 6) (sh : BitVec 6) (disp : BitVec 20) (s : State) (hs : Canon
    s) : CanonAfter (execSlea ch d a b sh disp s) := by
  unfold execSlea
  try dsimp only
  repeat' first
    | with_reducible (first
        | assumption | apply Ctx.uniform_canon | apply issueU_canon)
    | intro _

theorem execSlimm_canon (ch : Bool) (d : BitVec 6) (hi : Bool) (i : Word) (s : State) (hs : Canon s) : CanonAfter (execSlimm ch d hi i s)
    := by
  unfold execSlimm
  try dsimp only
  repeat' first
    | with_reducible (first
        | assumption | apply Ctx.uniform_canon | apply issueU_canon)
    | intro _

theorem execScmp_canon (ch : Bool) (d : BitVec 3) (a : BitVec 6) (b : BitVec 6) (sg : Bool) (cond : Cmp) (s : State) (hs : Canon s) :
    CanonAfter (execScmp ch d a b sg cond s) := by
  unfold execScmp
  try dsimp only
  repeat' first
    | with_reducible (first
        | assumption | apply Ctx.predicate_canon | apply issueU_canon)
    | intro _

theorem execNop_canon (ch : Bool) (s : State) (hs : Canon s) : CanonAfter (execNop ch s) := by
  unfold execNop
  try dsimp only
  repeat' first
    | with_reducible (first
        | assumption | apply issue_canon | apply Ctx.retire_canon)
    | intro _

theorem execIadd_canon (h : Head) (d : BitVec 6) (a : BitVec 6) (b : BitVec 6) (s : State) (hs : Canon s) : CanonAfter (execIadd h d a b
    s) := by
  unfold execIadd
  try dsimp only
  repeat' first
    | with_reducible (first
        | assumption | apply vecBinary_canon)


theorem execIsub_canon (h : Head) (d : BitVec 6) (a : BitVec 6) (b : BitVec 6) (s : State) (hs : Canon s) : CanonAfter (execIsub h d a b
    s) := by
  unfold execIsub
  try dsimp only
  repeat' first
    | with_reducible (first
        | assumption | apply vecBinary_canon)


theorem execImul_canon (h : Head) (d : BitVec 6) (a : BitVec 6) (b : BitVec 6) (s : State) (hs : Canon s) : CanonAfter (execImul h d a b
    s) := by
  unfold execImul
  try dsimp only
  repeat' first
    | with_reducible (first
        | assumption | apply vecBinary_canon)


theorem execImulh_canon (h : Head) (d : BitVec 6) (a : BitVec 6) (b : BitVec 6) (m : MulSign) (s : State) (hs : Canon s) : CanonAfter
    (execImulh h d a b m s) := by
  unfold execImulh
  try dsimp only
  repeat' first
    | with_reducible (first
        | assumption | apply vecBinary_canon)


theorem execImin_canon (h : Head) (d : BitVec 6) (a : BitVec 6) (b : BitVec 6) (sg : Bool) (s : State) (hs : Canon s) : CanonAfter
    (execImin h d a b sg s) := by
  unfold execImin
  try dsimp only
  repeat' first
    | with_reducible (first
        | assumption | apply vecBinary_canon)


theorem execImax_canon (h : Head) (d : BitVec 6) (a : BitVec 6) (b : BitVec 6) (sg : Bool) (s : State) (hs : Canon s) : CanonAfter
    (execImax h d a b sg s) := by
  unfold execImax
  try dsimp only
  repeat' first
    | with_reducible (first
        | assumption | apply vecBinary_canon)


theorem execIabs_canon (h : Head) (d : BitVec 6) (a : BitVec 6) (s : State) (hs : Canon s) : CanonAfter (execIabs h d a s) := by
  unfold execIabs
  try dsimp only
  repeat' first
    | with_reducible (first
        | assumption | apply vecUnary_canon)


theorem execIshl_canon (h : Head) (d : BitVec 6) (a : BitVec 6) (b : BitVec 6) (s : State) (hs : Canon s) : CanonAfter (execIshl h d a b
    s) := by
  unfold execIshl
  try dsimp only
  repeat' first
    | with_reducible (first
        | assumption | apply vecBinary_canon)


theorem execIshr_canon (h : Head) (d : BitVec 6) (a : BitVec 6) (b : BitVec 6) (s : State) (hs : Canon s) : CanonAfter (execIshr h d a b
    s) := by
  unfold execIshr
  try dsimp only
  repeat' first
    | with_reducible (first
        | assumption | apply vecBinary_canon)


theorem execIsar_canon (h : Head) (d : BitVec 6) (a : BitVec 6) (b : BitVec 6) (s : State) (hs : Canon s) : CanonAfter (execIsar h d a b
    s) := by
  unfold execIsar
  try dsimp only
  repeat' first
    | with_reducible (first
        | assumption | apply vecBinary_canon)


theorem execAnd_canon (h : Head) (d : BitVec 6) (a : BitVec 6) (b : BitVec 6) (s : State) (hs : Canon s) : CanonAfter (execAnd h d a b s)
    := by
  unfold execAnd
  try dsimp only
  repeat' first
    | with_reducible (first
        | assumption | apply vecBinary_canon)


theorem execOr_canon (h : Head) (d : BitVec 6) (a : BitVec 6) (b : BitVec 6) (s : State) (hs : Canon s) : CanonAfter (execOr h d a b s) :=
    by
  unfold execOr
  try dsimp only
  repeat' first
    | with_reducible (first
        | assumption | apply vecBinary_canon)


theorem execXor_canon (h : Head) (d : BitVec 6) (a : BitVec 6) (b : BitVec 6) (s : State) (hs : Canon s) : CanonAfter (execXor h d a b s)
    := by
  unfold execXor
  try dsimp only
  repeat' first
    | with_reducible (first
        | assumption | apply vecBinary_canon)


theorem execAndn_canon (h : Head) (d : BitVec 6) (a : BitVec 6) (b : BitVec 6) (s : State) (hs : Canon s) : CanonAfter (execAndn h d a b
    s) := by
  unfold execAndn
  try dsimp only
  repeat' first
    | with_reducible (first
        | assumption | apply vecBinary_canon)


theorem execPopc_canon (h : Head) (d : BitVec 6) (a : BitVec 6) (s : State) (hs : Canon s) : CanonAfter (execPopc h d a s) := by
  unfold execPopc
  try dsimp only
  repeat' first
    | with_reducible (first
        | assumption | apply vecUnary_canon)


theorem execClz_canon (h : Head) (d : BitVec 6) (a : BitVec 6) (s : State) (hs : Canon s) : CanonAfter (execClz h d a s) := by
  unfold execClz
  try dsimp only
  repeat' first
    | with_reducible (first
        | assumption | apply vecUnary_canon)


theorem execBrev_canon (h : Head) (d : BitVec 6) (a : BitVec 6) (s : State) (hs : Canon s) : CanonAfter (execBrev h d a s) := by
  unfold execBrev
  try dsimp only
  repeat' first
    | with_reducible (first
        | assumption | apply vecUnary_canon)


theorem execMov_canon (h : Head) (d : BitVec 6) (a : BitVec 6) (s : State) (hs : Canon s) : CanonAfter (execMov h d a s) := by
  unfold execMov
  try dsimp only
  repeat' first
    | with_reducible (first
        | assumption | apply vecUnary_canon)


theorem execMovi_canon (h : Head) (d : BitVec 6) (i : BitVec 8) (s : State) (hs : Canon s) : CanonAfter (execMovi h d i s) := by
  unfold execMovi
  try dsimp only
  repeat' first
    | with_reducible (first
        | assumption | apply issue_canon | apply Ctx.retire_canon)
    | intro _

theorem execIaddi_canon (h : Head) (d : BitVec 6) (a : BitVec 6) (i : BitVec 8) (s : State) (hs : Canon s) : CanonAfter (execIaddi h d a i
    s) := by
  unfold execIaddi
  try dsimp only
  repeat' first
    | with_reducible (first
        | assumption | apply vecUnary_canon)


theorem execLimm_canon (h : Head) (d : BitVec 6) (i : Word) (s : State) (hs : Canon s) : CanonAfter (execLimm h d i s) := by
  unfold execLimm
  try dsimp only
  repeat' first
    | with_reducible (first
        | assumption | apply issue_canon | apply Ctx.retire_canon)
    | intro _

theorem execFmovi_canon (h : Head) (d : BitVec 6) (i : BitVec 8) (s : State) (hs : Canon s) : CanonAfter (execFmovi h d i s) := by
  unfold execFmovi
  try dsimp only
  repeat' first
    | with_reducible (first
        | assumption | apply issue_canon | apply Ctx.retire_canon)
    | intro _

theorem execPlog_canon (h : Head) (d : BitVec 3) (a : BitVec 3) (b : BitVec 3) (m : BitVec 2) (s : State) (hs : Canon s) : CanonAfter
    (execPlog h d a b m s) := by
  unfold execPlog
  try dsimp only
  repeat' first
    | with_reducible (first
        | assumption | apply issue_canon | apply Ctx.retire_canon)
    | intro _

theorem execImad_canon (h : Head) (d : BitVec 6) (a : BitVec 6) (b : BitVec 6) (e : BitVec 6) (s : State) (hs : Canon s) : CanonAfter
    (execImad h d a b e s) := by
  unfold execImad
  try dsimp only
  repeat' first
    | with_reducible (first
        | assumption | apply issue_canon | apply Ctx.retire_canon)
    | intro _

theorem execLea_canon (h : Head) (d : BitVec 6) (a : BitVec 6) (b : BitVec 6) (sh : BitVec 5) (s : State) (hs : Canon s) : CanonAfter
    (execLea h d a b sh s) := by
  unfold execLea
  try dsimp only
  repeat' first
    | with_reducible (first
        | assumption | apply Ctx.vec2_canon | apply issue_canon)
    | intro _

theorem execBfx_canon (h : Head) (d : BitVec 6) (a : BitVec 6) (pos : BitVec 5) (len : BitVec 6) (sg : Bool) (s : State) (hs : Canon s) :
    CanonAfter (execBfx h d a pos len sg s) := by
  unfold execBfx
  try dsimp only
  repeat' first
    | with_reducible (first
        | assumption | apply Ctx.vec1_canon | apply issue_canon)
    | intro _

theorem execBfi_canon (h : Head) (d : BitVec 6) (a : BitVec 6) (b : BitVec 6) (pos : BitVec 5) (len : BitVec 6) (s : State) (hs : Canon s)
    : CanonAfter (execBfi h d a b pos len s) := by
  unfold execBfi
  try dsimp only
  repeat' first
    | with_reducible (first
        | assumption | apply Ctx.vec2_canon | apply issue_canon)
    | intro _

theorem execSel_canon (h : Head) (d : BitVec 6) (a : BitVec 6) (b : BitVec 6) (pc : BitVec 3) (s : State) (hs : Canon s) : CanonAfter
    (execSel h d a b pc s) := by
  unfold execSel
  try dsimp only
  repeat' first
    | with_reducible (first
        | assumption | apply issue_canon | apply Ctx.retire_canon)
    | intro _

theorem execIcmp_canon (h : Head) (d : BitVec 3) (a : BitVec 6) (b : BitVec 6) (sg : Bool) (cond : Cmp) (s : State) (hs : Canon s) :
    CanonAfter (execIcmp h d a b sg cond s) := by
  unfold execIcmp
  try dsimp only
  repeat' first
    | with_reducible (first
        | assumption | apply Ctx.predicate_canon | apply issue_canon)
    | intro _

theorem execDot4i_canon (h : Head) (d : BitVec 6) (a : BitVec 6) (b : BitVec 6) (e : BitVec 6) (sa : Bool) (sb : Bool) (s : State) (hs :
    Canon s) : CanonAfter (execDot4i h d a b e sa sb s) := by
  unfold execDot4i
  try dsimp only
  repeat' first
    | with_reducible (first
        | assumption | apply issue_canon | apply Ctx.retire_canon)
    | intro _

theorem execVsrr_canon (h : Head) (d : BitVec 6) (sl : BitVec 12) (s : State) (hs : Canon s) : CanonAfter (execVsrr h d sl s) := by
  unfold execVsrr
  try dsimp only
  repeat' first
    | with_reducible (first
        | assumption | apply issueWhen_canon | apply Ctx.retire_canon)
    | intro _

theorem execVsrw_canon (h : Head) (d : BitVec 6) (sl : BitVec 12) (s : State) (hs : Canon s) : CanonAfter (execVsrw h d sl s) := by
  unfold execVsrw
  try dsimp only
  repeat' first
    | with_reducible (first
        | assumption | apply issueWhen_canon | apply Ctx.retire_canon | apply Ctx.retireIn_canon | apply Ctx.trap_canon
        | apply State.setWarp_canon)
    | intro _ | split

end Sys2Proof.Machine
end

