-- ==== Sys2Proof/Laws/Events.lean ====
section
/-! SUPPORT. What taking a packet in, answering a firmware request, a step of a shadow, reading a shard frame and closing a
collective can do. -/

namespace Sys2Proof.Machine

open Sys2Proof

/-- Counting an arrival changes nothing that admits packets. -/
@[simp] theorem modReturns_admits (s : State) (d : BitVec 11) (g : Returns → Returns) (p : Arrival) :
    (s.modReturns d g).admits p = s.admits p := by
  simp only [State.admits, State.modReturns, State.modFab]
  split <;> rfl

/-- Nor does it change whether main memory takes accesses. -/
@[simp] theorem modReturns_shut (s : State) (d : BitVec 11) (g : Returns → Returns) (cls : BitVec 2) :
    (s.modReturns d g).shut cls = s.shut cls := rfl

/-- A packet that is in order, admitted, and met by a memory that takes accesses goes on, with its returned flits credited. -/
theorem ingress_taken {s : State} {p : Arrival} {cls : BitVec 2} {data : Nat} (hg : malformed p data = false) (ha : s.admits p = true)
    (ho : s.shut cls = false) (k : State → State) :
    s.ingress p cls data k =
      .next (k ((if cls == clsMgt then s else s.modReturns p.src (fun r => r.arrive cls (1 + data) s.time)).returnFlits p.src p.aret.toNat)) := by
  unfold State.ingress
  split <;> simp [hg, ha, ho]

/-- Any other packet is counted and dropped. -/
theorem ingress_dropped {s : State} {p : Arrival} {cls : BitVec 2} {data : Nat} (h : malformed p data = true ∨ s.admits p = false ∨ s.shut cls = true)
    (k : State → State) :
    s.ingress p cls data k = .next (State.dropPacket (if cls == clsMgt then s else s.modReturns p.src (fun r => r.arrive cls (1 + data) s.time))) := by
  unfold State.ingress
  split <;> rcases h with h | h | h <;> simp [h]

theorem firmware_idle {s : State} {code : Nat} (h : s.fwReady = false ∨ s.fwField 0 ≠ code) (k : FwAnswer) : s.firmware code k = .next s := by
  rcases h with h | h <;> simp [State.firmware, h]
theorem firmware_reserved {s : State} {code : Nat} (hr : s.fwReady = true) (hc : s.fwField 0 = code) (h : s.fwField 2 ≠ 0 ∨ s.fwField 6 ≠ 0)
    (k : FwAnswer) : s.firmware code k = .next (s.fwReply 3 []) := by
  rcases h with h | h <;> simp [State.firmware, hr, hc, h]

theorem publishes_iff {s : State} {code : Nat} :
    s.publishes code = true ↔ s.fwReady = true ∧ s.fwField 0 = code ∧ s.fwField 2 = 0 ∧ s.fwField 6 = 0 := by
  simp [State.publishes, and_assoc]
theorem firmware_done {s t : State} {code : Nat} (h : s.publishes code = true) (r : List Byte) (after : Nat) :
    s.firmware code (.done t r after) = .next (t.fwReply 1 r after) := by
  obtain ⟨a, b, c, d⟩ := publishes_iff.mp h; simp [State.firmware, a, b, c, d]
theorem firmware_refused {s : State} {code : Nat} (h : s.publishes code = true) : s.firmware code .refused = .next (s.fwReply 2 []) := by
  obtain ⟨a, b, c, d⟩ := publishes_iff.mp h; simp [State.firmware, a, b, c, d]
theorem firmware_invalid {s : State} {code : Nat} (h : s.publishes code = true) : s.firmware code .invalid = .next (s.fwReply 3 []) := by
  obtain ⟨a, b, c, d⟩ := publishes_iff.mp h; simp [State.firmware, a, b, c, d]
theorem firmware_wait {s : State} {code : Nat} (h : s.publishes code = true) (k : FwAnswer) (hk : k = .wait) : s.firmware code k = .next s := by
  obtain ⟨a, b, c, d⟩ := publishes_iff.mp h; subst hk; simp [State.firmware, a, b, c, d]
theorem refuseIf_false {c : Bool} {s : State} (h : c = false) : refuseIf c s = .done s [] := by simp [refuseIf, h]
theorem refuseIf_true {c : Bool} {s : State} (h : c = true) : refuseIf c s = .refused := by simp [refuseIf, h]

/-! ## Shadows, shard frames and collectives that close -/

/-- A step of a shadow touches nothing but what it has yet to retire and which leading warps are held up (R351). -/
theorem shadowStep_frame (s : State) (w : Nat) (stall : Bool) :
    ∃ u st, s.shadowStep w stall = s.modWork (fun y => { y with unmatched := u, stalled := st }) := by
  cases stall
  · exact ⟨_, s.work.stalled, rfl⟩
  · exact ⟨s.work.unmatched, _, rfl⟩

/-- What is discarded at a save is nothing where the shadow has retired all (R352). -/
theorem unwind_matched {s : State} {w : Nat} (h : s.behind w = []) : s.unwind w = s := by simp [State.unwind, h]

@[simp] theorem State.lay_hbm (s : State) (j : BitVec 16) (va : DWord) (e : BitVec 128) : (s.lay j va e).mem.hbm = s.mem.hbm := rfl
@[simp] theorem State.lay_frames (s : State) (j : BitVec 16) (va : DWord) (e : BitVec 128) : (s.lay j va e).mem.frames = s.mem.frames := rfl
@[simp] theorem State.lay_work (s : State) (j : BitVec 16) (va : DWord) (e : BitVec 128) : (s.lay j va e).work = s.work := rfl
@[simp] theorem State.lay_sync (s : State) (j : BitVec 16) (va : DWord) (e : BitVec 128) : (s.lay j va e).sync = s.sync := rfl
@[simp] theorem State.lay_fab (s : State) (j : BitVec 16) (va : DWord) (e : BitVec 128) : (s.lay j va e).fab = s.fab := rfl

/-- A granule of a frame that is laid out for its group is read where R202 puts it, and reading it changes nothing. -/
theorem shardGranule_home {s : State} {lf : Leaf} {g : Group} (h : s.stray lf g = false) (q : Nat) :
    s.shardGranule lf g q = (s.getAt (lf.shard (16 * (q / g.n))) 16, s) := by simp [State.shardGranule, h]

/-- Of any other frame free bytes are read. -/
theorem shardGranule_stray {s : State} {lf : Leaf} {g : Group} (h : s.stray lf g = true) (q : Nat) :
    s.shardGranule lf g q = ((List.range 16).map (fun i => BitVec.ofNat 8 ((s.drawN 16).1 i)), (s.drawN 16).2) := by simp [State.shardGranule, h]

/-- A collective that ends early sends nothing more; it writes its record at once, or when its landing is over (R307, R311). -/
theorem closeColl_cases (s : State) (k : Coll) (status : Nat) (failed : DWord) :
    ((s.dropColl k).landingOut k = true ∧ s.closeColl k status failed = (s.dropColl k).setColl { k with closing := some (status, failed) })
      ∨ ((s.dropColl k).landingOut k = false ∧ s.closeColl k status failed = (s.dropColl k).endColl k status failed) := by
  cases h : (s.dropColl k).landingOut k
  · exact .inr ⟨rfl, by simp [State.closeColl, h]⟩
  · exact .inl ⟨rfl, by simp [State.closeColl, h]⟩

end Sys2Proof.Machine
end

