-- ==== Sys2Proof/Laws/Exec.lean ====
section
/-! SUPPORT. What `exec` runs for each instruction: its meaning. -/

namespace Sys2Proof.Machine

open Sys2Proof

theorem exec_nop (c : Bool) (s : State) : exec (.nop c) s = execNop c s := rfl
theorem exec_iadd (h : Head) (d a b : BitVec 6) (s : State) : exec (.iadd h d a b) s = execIadd h d a b s := rfl
theorem exec_isub (h : Head) (d a b : BitVec 6) (s : State) : exec (.isub h d a b) s = execIsub h d a b s := rfl
theorem exec_imul (h : Head) (d a b : BitVec 6) (s : State) : exec (.imul h d a b) s = execImul h d a b s := rfl
theorem exec_imulh (h : Head) (d a b : BitVec 6) (m : MulSign) (s : State) : exec (.imulh h d a b m) s = execImulh h d a b m s := rfl
theorem exec_imin (h : Head) (d a b : BitVec 6) (sg : Bool) (s : State) : exec (.imin h d a b sg) s = execImin h d a b sg s := rfl
theorem exec_imax (h : Head) (d a b : BitVec 6) (sg : Bool) (s : State) : exec (.imax h d a b sg) s = execImax h d a b sg s := rfl
theorem exec_iabs (h : Head) (d a : BitVec 6) (s : State) : exec (.iabs h d a) s = execIabs h d a s := rfl
theorem exec_ishl (h : Head) (d a b : BitVec 6) (s : State) : exec (.ishl h d a b) s = execIshl h d a b s := rfl
theorem exec_ishr (h : Head) (d a b : BitVec 6) (s : State) : exec (.ishr h d a b) s = execIshr h d a b s := rfl
theorem exec_isar (h : Head) (d a b : BitVec 6) (s : State) : exec (.isar h d a b) s = execIsar h d a b s := rfl
theorem exec_and (h : Head) (d a b : BitVec 6) (s : State) : exec (.and h d a b) s = execAnd h d a b s := rfl
theorem exec_or (h : Head) (d a b : BitVec 6) (s : State) : exec (.or h d a b) s = execOr h d a b s := rfl
theorem exec_xor (h : Head) (d a b : BitVec 6) (s : State) : exec (.xor h d a b) s = execXor h d a b s := rfl
theorem exec_andn (h : Head) (d a b : BitVec 6) (s : State) : exec (.andn h d a b) s = execAndn h d a b s := rfl
theorem exec_popc (h : Head) (d a : BitVec 6) (s : State) : exec (.popc h d a) s = execPopc h d a s := rfl
theorem exec_clz (h : Head) (d a : BitVec 6) (s : State) : exec (.clz h d a) s = execClz h d a s := rfl
theorem exec_brev (h : Head) (d a : BitVec 6) (s : State) : exec (.brev h d a) s = execBrev h d a s := rfl
theorem exec_mov (h : Head) (d a : BitVec 6) (s : State) : exec (.mov h d a) s = execMov h d a s := rfl
theorem exec_movi (h : Head) (d : BitVec 6) (i : BitVec 8) (s : State) : exec (.movi h d i) s = execMovi h d i s := rfl
theorem exec_iaddi (h : Head) (d a : BitVec 6) (i : BitVec 8) (s : State) : exec (.iaddi h d a i) s = execIaddi h d a i s := rfl
theorem exec_limm (h : Head) (d : BitVec 6) (i : Word) (s : State) : exec (.limm h d i) s = execLimm h d i s := rfl
theorem exec_fmovi (h : Head) (d : BitVec 6) (i : BitVec 8) (s : State) : exec (.fmovi h d i) s = execFmovi h d i s := rfl
theorem exec_plog (h : Head) (d a b : BitVec 3) (m : BitVec 2) (s : State) : exec (.plog h d a b m) s = execPlog h d a b m s := rfl
theorem exec_vsrr (h : Head) (d : BitVec 6) (sel : BitVec 12) (s : State) : exec (.vsrr h d sel) s = execVsrr h d sel s := rfl
theorem exec_vsrw (h : Head) (d : BitVec 6) (sel : BitVec 12) (s : State) : exec (.vsrw h d sel) s = execVsrw h d sel s := rfl
theorem exec_imad (h : Head) (d a b e : BitVec 6) (s : State) : exec (.imad h d a b e) s = execImad h d a b e s := rfl
theorem exec_lea (h : Head) (d a b : BitVec 6) (sh : BitVec 5) (s : State) : exec (.lea h d a b sh) s = execLea h d a b sh s := rfl
theorem exec_bfx (h : Head) (d a : BitVec 6) (pos : BitVec 5) (len : BitVec 6) (sg : Bool) (s : State) : exec (.bfx h d a pos len sg) s = execBfx h d a pos len sg s := rfl
theorem exec_bfi (h : Head) (d a b : BitVec 6) (pos : BitVec 5) (len : BitVec 6) (s : State) : exec (.bfi h d a b pos len) s = execBfi h d a b pos len s := rfl
theorem exec_sel (h : Head) (d a b : BitVec 6) (pc : BitVec 3) (s : State) : exec (.sel h d a b pc) s = execSel h d a b pc s := rfl
theorem exec_icmp (h : Head) (d : BitVec 3) (a b : BitVec 6) (sg : Bool) (cond : Cmp) (s : State) : exec (.icmp h d a b sg cond) s = execIcmp h d a b sg cond s := rfl
theorem exec_dot4i (h : Head) (d a b e : BitVec 6) (sa sb : Bool) (s : State) : exec (.dot4i h d a b e sa sb) s = execDot4i h d a b e sa sb s := rfl
theorem exec_dot2h (h : Head) (d a b e : BitVec 6) (rm : BitVec 2) (f16 : Bool) (s : State) : exec (.dot2h h d a b e rm f16) s = execDot2h h d a b e rm f16 s := rfl
theorem exec_fadd (h : Head) (d a b : BitVec 6) (rm : BitVec 2) (s : State) : exec (.fadd h d a b rm) s = execFadd h d a b rm s := rfl
theorem exec_fsub (h : Head) (d a b : BitVec 6) (rm : BitVec 2) (s : State) : exec (.fsub h d a b rm) s = execFsub h d a b rm s := rfl
theorem exec_fmul (h : Head) (d a b : BitVec 6) (rm : BitVec 2) (s : State) : exec (.fmul h d a b rm) s = execFmul h d a b rm s := rfl
theorem exec_fmac (h : Head) (d a b : BitVec 6) (rm : BitVec 2) (s : State) : exec (.fmac h d a b rm) s = execFmac h d a b rm s := rfl
theorem exec_ffma (h : Head) (d a b e : BitVec 6) (rm : BitVec 2) (np nc : Bool) (s : State) : exec (.ffma h d a b e rm np nc) s = execFfma h d a b e rm np nc s := rfl
theorem exec_fmin (h : Head) (d a b : BitVec 6) (s : State) : exec (.fmin h d a b) s = execFmin h d a b s := rfl
theorem exec_fmax (h : Head) (d a b : BitVec 6) (s : State) : exec (.fmax h d a b) s = execFmax h d a b s := rfl
theorem exec_fsgn (h : Head) (d a : BitVec 6) (m : SgnOp) (s : State) : exec (.fsgn h d a m) s = execFsgn h d a m s := rfl
theorem exec_fcmp (h : Head) (d : BitVec 3) (a b : BitVec 6) (cond : BitVec 3) (s : State) : exec (.fcmp h d a b cond) s = execFcmp h d a b cond s := rfl
theorem exec_fclass (h : Head) (d : BitVec 3) (a : BitVec 6) (mask : BitVec 10) (s : State) : exec (.fclass h d a mask) s = execFclass h d a mask s := rfl
theorem exec_frnd (h : Head) (d a : BitVec 6) (rm : BitVec 2) (s : State) : exec (.frnd h d a rm) s = execFrnd h d a rm s := rfl
theorem exec_fscl (h : Head) (d a b : BitVec 6) (rm : BitVec 2) (s : State) : exec (.fscl h d a b rm) s = execFscl h d a b rm s := rfl
theorem exec_hadd2 (h : Head) (d a b : BitVec 6) (f16 : Bool) (s : State) : exec (.hadd2 h d a b f16) s = execHadd2 h d a b f16 s := rfl
theorem exec_hmul2 (h : Head) (d a b : BitVec 6) (f16 : Bool) (s : State) : exec (.hmul2 h d a b f16) s = execHmul2 h d a b f16 s := rfl
theorem exec_hmin2 (h : Head) (d a b : BitVec 6) (f16 : Bool) (s : State) : exec (.hmin2 h d a b f16) s = execHmin2 h d a b f16 s := rfl
theorem exec_hmax2 (h : Head) (d a b : BitVec 6) (f16 : Bool) (s : State) : exec (.hmax2 h d a b f16) s = execHmax2 h d a b f16 s := rfl
theorem exec_hfma2 (h : Head) (d a b e : BitVec 6) (rm : BitVec 2) (f16 : Bool) (s : State) : exec (.hfma2 h d a b e rm f16) s = execHfma2 h d a b e rm f16 s := rfl
theorem exec_cvt (h : Head) (d a : BitVec 6) (src dst : BitVec 4) (mode : BitVec 3) (sat : Bool) (s : State) : exec (.cvt h d a src dst mode sat) s = execCvt h d a src dst mode sat s := rfl
theorem exec_cvtp (h : Head) (d a b : BitVec 6) (dst : BitVec 4) (mode : BitVec 3) (sat hi : Bool) (s : State) : exec (.cvtp h d a b dst mode sat hi) s = execCvtp h d a b dst mode sat hi s := rfl
theorem exec_cvtu (h : Head) (d a : BitVec 6) (src : BitVec 4) (idx : BitVec 3) (s : State) : exec (.cvtu h d a src idx) s = execCvtu h d a src idx s := rfl
theorem exec_qdec (h : Head) (d a b : BitVec 6) (idx : BitVec 3) (s : State) : exec (.qdec h d a b idx) s = execQdec h d a b idx s := rfl
theorem exec_qenc (h : Head) (d a : BitVec 6) (type : BitVec 2) (q16 : Bool) (s : State) : exec (.qenc h d a type q16) s = execQenc h d a type q16 s := rfl
theorem exec_rcp (h : Head) (d a : BitVec 6) (s : State) : exec (.rcp h d a) s = execRcp h d a s := rfl
theorem exec_rsq (h : Head) (d a : BitVec 6) (s : State) : exec (.rsq h d a) s = execRsq h d a s := rfl
theorem exec_sqrt (h : Head) (d a : BitVec 6) (s : State) : exec (.sqrt h d a) s = execSqrt h d a s := rfl
theorem exec_exp2 (h : Head) (d a : BitVec 6) (s : State) : exec (.exp2 h d a) s = execExp2 h d a s := rfl
theorem exec_log2 (h : Head) (d a : BitVec 6) (s : State) : exec (.log2 h d a) s = execLog2 h d a s := rfl
theorem exec_sinp (h : Head) (d a : BitVec 6) (s : State) : exec (.sinp h d a) s = execSinp h d a s := rfl
theorem exec_cosp (h : Head) (d a : BitVec 6) (s : State) : exec (.cosp h d a) s = execCosp h d a s := rfl
theorem exec_tanh (h : Head) (d a : BitVec 6) (s : State) : exec (.tanh h d a) s = execTanh h d a s := rfl
theorem exec_sadd (c : Bool) (d a b : BitVec 6) (s : State) : exec (.sadd c d a b) s = execSadd c d a b s := rfl
theorem exec_ssub (c : Bool) (d a b : BitVec 6) (s : State) : exec (.ssub c d a b) s = execSsub c d a b s := rfl
theorem exec_smul (c : Bool) (d a b : BitVec 6) (s : State) : exec (.smul c d a b) s = execSmul c d a b s := rfl
theorem exec_sshf (c : Bool) (d a b : BitVec 6) (m : ShfOp) (s : State) : exec (.sshf c d a b m) s = execSshf c d a b m s := rfl
theorem exec_slog (c : Bool) (d a b : BitVec 6) (m : BitVec 2) (s : State) : exec (.slog c d a b m) s = execSlog c d a b m s := rfl
theorem exec_sminmax (c : Bool) (d a b : BitVec 6) (m : BitVec 2) (s : State) : exec (.sminmax c d a b m) s = execSminmax c d a b m s := rfl
theorem exec_smov (c : Bool) (d a : BitVec 6) (s : State) : exec (.smov c d a) s = execSmov c d a s := rfl
theorem exec_smovi (c : Bool) (d : BitVec 6) (i : BitVec 8) (s : State) : exec (.smovi c d i) s = execSmovi c d i s := rfl
theorem exec_smad (c : Bool) (d a b e : BitVec 6) (s : State) : exec (.smad c d a b e) s = execSmad c d a b e s := rfl
theorem exec_slea (c : Bool) (d a b : BitVec 6) (sh : BitVec 6) (disp : BitVec 20) (s : State) : exec (.slea c d a b sh disp) s = execSlea c d a b sh disp s := rfl
theorem exec_slimm (c : Bool) (d : BitVec 6) (hi : Bool) (i : Word) (s : State) : exec (.slimm c d hi i) s = execSlimm c d hi i s := rfl
theorem exec_scmp (c : Bool) (d : BitVec 3) (a b : BitVec 6) (sg : Bool) (cond : Cmp) (s : State) : exec (.scmp c d a b sg cond) s = execScmp c d a b sg cond s := rfl
theorem exec_srr (c : Bool) (d : BitVec 6) (sel : BitVec 12) (s : State) : exec (.srr c d sel) s = execSrr c d sel s := rfl
theorem exec_srw (c : Bool) (a : BitVec 6) (sel : BitVec 12) (s : State) : exec (.srw c a sel) s = execSrw c a sel s := rfl
theorem exec_bra (h : Head) (o : BitVec 20) (s : State) : exec (.bra h o) s = execBra h o s := rfl
theorem exec_bru (h : Head) (o : BitVec 20) (s : State) : exec (.bru h o) s = execBru h o s := rfl
theorem exec_call (h : Head) (o : BitVec 20) (s : State) : exec (.call h o) s = execCall h o s := rfl
theorem exec_calli (h : Head) (a b : BitVec 6) (ix : Bool) (s : State) : exec (.calli h a b ix) s = execCalli h a b ix s := rfl
theorem exec_jmpi (h : Head) (a b : BitVec 6) (ix : Bool) (s : State) : exec (.jmpi h a b ix) s = execJmpi h a b ix s := rfl
theorem exec_ret (h : Head) (s : State) : exec (.ret h) s = execRet h s := rfl
theorem exec_reform (h : Head) (n : BitVec 5) (m : BitVec 4) (s : State) : exec (.reform h n m) s = execReform h n m s := rfl
theorem exec_spawn (h : Head) (d : BitVec 3) (o : BitVec 20) (s : State) : exec (.spawn h d o) s = execSpawn h d o s := rfl
theorem exec_exit (h : Head) (s : State) : exec (.exit h) s = execExit h s := rfl
theorem exec_yield (h : Head) (n : BitVec 5) (m : BitVec 4) (s : State) : exec (.yield h n m) s = execYield h n m s := rfl
theorem exec_balw (c : Bool) (a b : BitVec 6) (o : BitVec 20) (s : State) : exec (.balw c a b o) s = execBalw c a b o s := rfl
theorem exec_shfl (h : Head) (d a b e : BitVec 6) (seg : BitVec 3) (edge : Edge) (ln mm : Bool) (imm : BitVec 10) (im : Bool) (mode : ShflMode) (s : State) : exec (.shfl h d a b e seg edge ln mm imm im mode) s = execShfl h d a b e seg edge ln mm imm im mode s := rfl
theorem exec_vote (h : Head) (d : BitVec 6) (a : BitVec 3) (e : BitVec 6) (mode : VoteMode) (mm ln : Bool) (s : State) : exec (.vote h d a e mode mm ln) s = execVote h d a e mode mm ln s := rfl
theorem exec_redw (h : Head) (d a e : BitVec 6) (op : RedOp) (mm ln : Bool) (s : State) : exec (.redw h d a e op mm ln) s = execRedw h d a e op mm ln s := rfl
theorem exec_scanw (h : Head) (d a b e : BitVec 6) (op : RedOp) (ex mm ln : Bool) (s : State) : exec (.scanw h d a b e op ex mm ln) s = execScanw h d a b e op ex mm ln s := rfl
theorem exec_elect (h : Head) (d : BitVec 3) (s : State) : exec (.elect h d) s = execElect h d s := rfl
theorem exec_rdlane (h : Head) (d a : BitVec 6) (lane : BitVec 5) (s : State) : exec (.rdlane h d a lane) s = execRdlane h d a lane s := rfl
theorem exec_bcast (h : Head) (d a : BitVec 6) (lane : BitVec 5) (s : State) : exec (.bcast h d a lane) s = execBcast h d a lane s := rfl
theorem exec_ld (h : Head) (d : BitVec 6) (m : MemOp) (s : State) : exec (.ld h d m) s = execLd h d m s := rfl
theorem exec_st (h : Head) (d : BitVec 6) (m : MemOp) (s : State) : exec (.st h d m) s = execSt h d m s := rfl
theorem exec_sld (c : Bool) (d : BitVec 6) (m : MemOp) (s : State) : exec (.sld c d m) s = execSld c d m s := rfl
theorem exec_sst (c : Bool) (d : BitVec 6) (m : MemOp) (s : State) : exec (.sst c d m) s = execSst c d m s := rfl
theorem exec_ldf (h : Head) (d : BitVec 6) (m : MemOp) (s : State) : exec (.ldf h d m) s = execLdf h d m s := rfl
theorem exec_stf (h : Head) (d : BitVec 6) (m : MemOp) (s : State) : exec (.stf h d m) s = execStf h d m s := rfl
theorem exec_lde (h : Head) (d : BitVec 6) (m : MemOp) (s : State) : exec (.lde h d m) s = execLde h d m s := rfl
theorem exec_atom (h : Head) (d : BitVec 6) (m : MemOp) (s : State) : exec (.atom h d m) s = execAtom h d m s := rfl
theorem exec_red (h : Head) (d : BitVec 6) (m : MemOp) (s : State) : exec (.red h d m) s = execRed h d m s := rfl
theorem exec_redm (h : Head) (d : BitVec 6) (m : MemOp) (s : State) : exec (.redm h d m) s = execRedm h d m s := rfl
theorem exec_mst (h : Head) (d : BitVec 6) (m : MemOp) (s : State) : exec (.mst h d m) s = execMst h d m s := rfl
theorem exec_touch (h : Head) (m : MemOp) (s : State) : exec (.touch h m) s = execTouch h m s := rfl
theorem exec_evict (h : Head) (m : MemOp) (s : State) : exec (.evict h m) s = execEvict h m s := rfl
theorem exec_pref (h : Head) (m : MemOp) (s : State) : exec (.pref h m) s = execPref h m s := rfl
theorem exec_cpy (c : Bool) (d a b e : BitVec 6) (dsp ssp : Space) (queue : BitVec 3) (ck : Ck) (s : State) : exec (.cpy c d a b e dsp ssp queue ck) s = execCpy c d a b e dsp ssp queue ck s := rfl
theorem exec_cpyt (c : Bool) (d a b e : BitVec 6) (st w : Bool) (queue : BitVec 3) (ck : Ck) (box1 : BitVec 5) (box0 : BitVec 10) (s : State) : exec (.cpyt c d a b e st w queue ck box1 box0) s = execCpyt c d a b e st w queue ck box1 box0 s := rfl
theorem exec_qfence (c : Bool) (e : BitVec 6) (queue : BitVec 3) (ck : Ck) (mask : BitVec 8) (s : State) : exec (.qfence c e queue ck mask) s = execQfence c e queue ck mask s := rfl
theorem exec_ldt (h : Head) (d : BitVec 2) (a : BitVec 6) (sp : Space) (pitch : BitVec 11) (imm : BitVec 12) (s : State) : exec (.ldt h d a sp pitch imm) s = execLdt h d a sp pitch imm s := rfl
theorem exec_stt (h : Head) (d : BitVec 2) (a : BitVec 6) (pitch : BitVec 11) (imm : BitVec 12) (s : State) : exec (.stt h d a pitch imm) s = execStt h d a pitch imm s := rfl
theorem exec_mma (h : Head) (d a : BitVec 2) (b e : BitVec 6) (mc : Bool) (bsrc : BSrc) (bf af : BitVec 4) (s : State) : exec (.mma h d a b e mc bsrc bf af) s = execMma h d a b e mc bsrc bf af s := rfl
theorem exec_mmaz (h : Head) (d a : BitVec 2) (b e : BitVec 6) (mc : Bool) (bsrc : BSrc) (bf af : BitVec 4) (s : State) : exec (.mmaz h d a b e mc bsrc bf af) s = execMmaz h d a b e mc bsrc bf af s := rfl
theorem exec_accrd (h : Head) (d : BitVec 6) (a : BitVec 2) (b : BitVec 6) (cv : Bool) (s : State) : exec (.accrd h d a b cv) s = execAccrd h d a b cv s := rfl
theorem exec_accwr (h : Head) (d : BitVec 2) (a b : BitVec 6) (cv : Bool) (s : State) : exec (.accwr h d a b cv) s = execAccwr h d a b cv s := rfl
theorem exec_accld (h : Head) (d : BitVec 2) (a : BitVec 6) (imm : BitVec 12) (s : State) : exec (.accld h d a imm) s = execAccld h d a imm s := rfl
theorem exec_accst (h : Head) (d : BitVec 2) (a : BitVec 6) (imm : BitVec 12) (s : State) : exec (.accst h d a imm) s = execAccst h d a imm s := rfl
theorem exec_accz (h : Head) (d : BitVec 2) (s : State) : exec (.accz h d) s = execAccz h d s := rfl
theorem exec_txp (h : Head) (d a : BitVec 2) (b16 : Bool) (s : State) : exec (.txp h d a b16) s = execTxp h d a b16 s := rfl
theorem exec_fence (h : Head) (full : Bool) (scope : BitVec 3) (cmask : BitVec 8) (s : State) : exec (.fence h full scope cmask) s = execFence h full scope cmask s := rfl
theorem exec_acq (h : Head) (d a : BitVec 6) (imm : BitVec 12) (s : State) : exec (.acq h d a imm) s = execAcq h d a imm s := rfl
theorem exec_rel (h : Head) (a b : BitVec 6) (scope : BitVec 3) (add : Bool) (imm : BitVec 12) (s : State) : exec (.rel h a b scope add imm) s = execRel h a b scope add imm s := rfl
theorem exec_bind (c : Bool) (d a b : BitVec 6) (entry : BitVec 6) (s : State) : exec (.bind c d a b entry) s = execBind c d a b entry s := rfl
theorem exec_bar (h : Head) (b : BitVec 6) (id : BitVec 4) (s : State) : exec (.bar h b id) s = execBar h b id s := rfl
theorem exec_gbar (h : Head) (b : BitVec 6) (id : BitVec 2) (s : State) : exec (.gbar h b id) s = execGbar h b id s := rfl
theorem exec_barm (c : Bool) (a b : BitVec 6) (imm : BitVec 12) (s : State) : exec (.barm c a b imm) s = execBarm c a b imm s := rfl
theorem exec_bara (c : Bool) (a b : BitVec 6) (imm : BitVec 12) (s : State) : exec (.bara c a b imm) s = execBara c a b imm s := rfl
theorem exec_barw (c : Bool) (a b : BitVec 6) (imm : BitVec 12) (s : State) : exec (.barw c a b imm) s = execBarw c a b imm s := rfl
theorem exec_bart (c : Bool) (d : BitVec 3) (a b : BitVec 6) (imm : BitVec 12) (s : State) : exec (.bart c d a b imm) s = execBart c d a b imm s := rfl
theorem exec_waitc (c : Bool) (a b : BitVec 6) (inA : Bool) (imm : BitVec 12) (s : State) : exec (.waitc c a b inA imm) s = execWaitc c a b inA imm s := rfl
theorem exec_waitcPoll (frag : Nat) (s : State) : exec (.waitcPoll frag) s = execWaitcPoll frag s := rfl
theorem exec_pin (c : Bool) (k : BitVec 3) (a : BitVec 6) (s : State) : exec (.pin c k a) s = execPin c k a s := rfl
theorem exec_unpin (c : Bool) (k : BitVec 3) (s : State) : exec (.unpin c k) s = execUnpin c k s := rfl
theorem exec_reclaim (c : Bool) (d a : BitVec 6) (s : State) : exec (.reclaim c d a) s = execReclaim c d a s := rfl
theorem exec_reclaimd (c : Bool) (d : BitVec 6) (s : State) : exec (.reclaimd c d) s = execReclaimd c d s := rfl
theorem exec_alw (c : Bool) (d a : BitVec 6) (s : State) : exec (.alw c d a) s = execAlw c d a s := rfl
theorem exec_coll (c : Bool) (a : BitVec 6) (s : State) : exec (.coll c a) s = execColl c a s := rfl
theorem exec_collw (c : Bool) (d a : BitVec 6) (s : State) : exec (.collw c d a) s = execCollw c d a s := rfl
theorem exec_trap (h : Head) (imm : Half) (s : State) : exec (.trap h imm) s = execTrap h imm s := rfl
theorem exec_brk (h : Head) (imm : Half) (s : State) : exec (.brk h imm) s = execBrk h imm s := rfl
theorem exec_rett (c : Bool) (form : RettForm) (s : State) : exec (.rett c form) s = execRett c form s := rfl
theorem exec_preq (c : Bool) (d : BitVec 6) (s : State) : exec (.preq c d) s = execPreq c d s := rfl
theorem exec_trapEntry (frag : Nat) (s : State) : exec (.trapEntry frag) s = execTrapEntry frag s := rfl
theorem exec_tailWrite (queue : BitVec 12) (write : HostWrite DWord) (s : State) : exec (.tailWrite queue write) s = execTailWrite queue write s := rfl
theorem exec_queueSlotWrite (queue : BitVec 12) (slot : Nat) (write : HostWrite (BitVec 2048)) (s : State) : exec (.queueSlotWrite queue slot write) s = execQueueSlotWrite queue slot write s := rfl
theorem exec_recordAccept (queue : BitVec 12) (s : State) : exec (.recordAccept queue) s = execRecordAccept queue s := rfl
theorem exec_gridComplete (grid : GridId) (s : State) : exec (.gridComplete grid) s = execGridComplete grid s := rfl
theorem exec_blockPlace (grid : GridId) (core : Nat) (parts : List Nat) (s : State) : exec (.blockPlace grid core parts) s = execBlockPlace grid core parts s := rfl
theorem exec_gangPlace (grid : GridId) (cores : List Nat) (s : State) : exec (.gangPlace grid cores) s = execGangPlace grid cores s := rfl
theorem exec_gangHold (grid : GridId) (cluster : Nat) (s : State) : exec (.gangHold grid cluster) s = execGangHold grid cluster s := rfl
theorem exec_blockResume (block : Nat) (cores : List Nat) (s : State) : exec (.blockResume block cores) s = execBlockResume block cores s := rfl
theorem exec_panTimerExpire (pan : Nat) (s : State) : exec (.panTimerExpire pan) s = execPanTimerExpire pan s := rfl
theorem exec_panYield (pan : Nat) (ctx : Nat) (s : State) : exec (.panYield pan ctx) s = execPanYield pan ctx s := rfl
theorem exec_fsbRelease (frag : Nat) (s : State) : exec (.fsbRelease frag) s = execFsbRelease frag s := rfl
theorem exec_bsbDrain (block : Nat) (index : Nat) (s : State) : exec (.bsbDrain block index) s = execBsbDrain block index s := rfl
theorem exec_enginePerform (block : Nat) (queue : BitVec 3) (s : State) : exec (.enginePerform block queue) s = execEnginePerform block queue s := rfl
theorem exec_engineRemoteTimeout (block : Nat) (queue : BitVec 3) (s : State) : exec (.engineRemoteTimeout block queue) s = execEngineRemoteTimeout block queue s := rfl
theorem exec_emptyTimeout (frag : Nat) (s : State) : exec (.emptyTimeout frag) s = execEmptyTimeout frag s := rfl
theorem exec_pageWalkDone (job : BitVec 16) (va : DWord) (s : State) : exec (.pageWalkDone job va) s = execPageWalkDone job va s := rfl
theorem exec_memoryPressureEvict (job : BitVec 16) (va : DWord) (s : State) : exec (.memoryPressureEvict job va) s = execMemoryPressureEvict job va s := rfl
theorem exec_deferredFill (job : BitVec 16) (s : State) : exec (.deferredFill job) s = execDeferredFill job s := rfl
theorem exec_greq (p : Arrival) (m : PageMsg) (s : State) : exec (.greq p m) s = execGreq p m s := rfl
theorem exec_gather (p : Arrival) (m : PageMsg) (s : State) : exec (.gather p m) s = execGather p m s := rfl
theorem exec_gdata (p : Arrival) (m : PageMsg) (s : State) : exec (.gdata p m) s = execGdata p m s := rfl
theorem exec_gdone (p : Arrival) (m : PageMsg) (s : State) : exec (.gdone p m) s = execGdone p m s := rfl
theorem exec_dreq (p : Arrival) (m : PageMsg) (s : State) : exec (.dreq p m) s = execDreq p m s := rfl
theorem exec_drain (p : Arrival) (m : PageMsg) (s : State) : exec (.drain p m) s = execDrain p m s := rfl
theorem exec_dsum (p : Arrival) (m : PageMsg) (s : State) : exec (.dsum p m) s = execDsum p m s := rfl
theorem exec_ddone (p : Arrival) (m : PageMsg) (s : State) : exec (.ddone p m) s = execDdone p m s := rfl
theorem exec_pageEnd (p : Arrival) (m : PageMsg) (s : State) : exec (.pageEnd p m) s = execPageEnd p m s := rfl
theorem exec_fetch (p : Arrival) (m : PageMsg) (s : State) : exec (.fetch p m) s = execFetch p m s := rfl
theorem exec_fdata (p : Arrival) (m : PageMsg) (s : State) : exec (.fdata p m) s = execFdata p m s := rfl
theorem exec_busy (p : Arrival) (m : PageMsg) (s : State) : exec (.busy p m) s = execBusy p m s := rfl
theorem exec_busyRetry (index : Nat) (s : State) : exec (.busyRetry index) s = execBusyRetry index s := rfl
theorem exec_fail (p : Arrival) (m : PageMsg) (s : State) : exec (.fail p m) s = execFail p m s := rfl
theorem exec_pageTimeout (job : BitVec 16) (va : DWord) (rank : BitVec 6) (s : State) : exec (.pageTimeout job va rank) s = execPageTimeout job va rank s := rfl
theorem exec_read (p : Arrival) (tag : BitVec 12) (addr : BitVec 52) (lines : BitVec 4) (s : State) : exec (.read p tag addr lines) s = execRead p tag addr lines s := rfl
theorem exec_write (p : Arrival) (tag : BitVec 12) (addr : BitVec 52) (bytes : List (Nat × Byte)) (mstVa : Option DWord) (s : State) : exec (.write p tag addr bytes mstVa) s = execWrite p tag addr bytes mstVa s := rfl
theorem exec_atomReq (p : Arrival) (tag : BitVec 12) (addr : BitVec 52) (aop : BitVec 4) (form : AtomForm) (x y : DWord) (s : State) : exec (.atomReq p tag addr aop form x y) s = execAtomReq p tag addr aop form x y s := rfl
theorem exec_redReq (p : Arrival) (tag : BitVec 12) (addr : BitVec 52) (aop : BitVec 4) (form : AtomForm) (x : DWord) (s : State) : exec (.redReq p tag addr aop form x) s = execRedReq p tag addr aop form x s := rfl
theorem exec_redmReq (p : Arrival) (tag : BitVec 12) (addr : BitVec 52) (aop : BitVec 4) (words : List (Nat × Word)) (s : State) : exec (.redmReq p tag addr aop words) s = execRedmReq p tag addr aop words s := rfl
theorem exec_eread (p : Arrival) (tag : BitVec 12) (addr : BitVec 52) (count : Nat) (s : State) : exec (.eread p tag addr count) s = execEread p tag addr count s := rfl
theorem exec_ewrite (p : Arrival) (tag : BitVec 12) (addr : BitVec 52) (bytes : List Byte) (s : State) : exec (.ewrite p tag addr bytes) s = execEwrite p tag addr bytes s := rfl
theorem exec_cstep (p : Arrival) (tag : BitVec 12) (m : CStep) (s : State) : exec (.cstep p tag m) s = execCstep p tag m s := rfl
theorem exec_cmatch (p : Arrival) (tag : BitVec 12) (sgid : BitVec 12) (pair : Word) (srcRank : BitVec 6) (t : CTuple) (s : State) : exec (.cmatch p tag sgid pair srcRank t) s = execCmatch p tag sgid pair srcRank t s := rfl
theorem exec_collTimeout (sgid : BitVec 12) (pair : Word) (s : State) : exec (.collTimeout sgid pair) s = execCollTimeout sgid pair s := rfl
theorem exec_rdata (p : Arrival) (tag : BitVec 12) (status : BitVec 8) (bytes : List Byte) (s : State) : exec (.rdata p tag status bytes) s = execRdata p tag status bytes s := rfl
theorem exec_areply (p : Arrival) (tag : BitVec 12) (status : BitVec 8) (old : DWord) (s : State) : exec (.areply p tag status old) s = execAreply p tag status old s := rfl
theorem exec_ack (p : Arrival) (tag : BitVec 12) (s : State) : exec (.ack p tag) s = execAck p tag s := rfl
theorem exec_nack (p : Arrival) (tag : BitVec 12) (status : BitVec 8) (s : State) : exec (.nack p tag status) s = execNack p tag status s := rfl
theorem exec_remoteLoadTimeout (frag : Nat) (s : State) : exec (.remoteLoadTimeout frag) s = execRemoteLoadTimeout frag s := rfl
theorem exec_storeAckTimeout (tag : BitVec 12) (s : State) : exec (.storeAckTimeout tag) s = execStoreAckTimeout tag s := rfl
theorem exec_aret (p : Arrival) (retReq retPage : Half) (delReq delRsp delPage : Word) (s : State) : exec (.aret p retReq retPage delReq delRsp delPage) s = execAret p retReq retPage delReq delRsp delPage s := rfl
theorem exec_allowanceReturnTimer (peer : BitVec 11) (s : State) : exec (.allowanceReturnTimer peer) s = execAllowanceReturnTimer peer s := rfl
theorem exec_ready (p : Arrival) (sgid : BitVec 12) (start : DWord) (s : State) : exec (.ready p sgid start) s = execReady p sgid start s := rfl
theorem exec_sabort (p : Arrival) (sgid : BitVec 12) (reason : BitVec 8) (start : DWord) (late : DWord) (s : State) : exec (.sabort p sgid reason start late) s = execSabort p sgid reason start late s := rfl
theorem exec_tide (p : Arrival) (sgid : BitVec 12) (pair : Word) (t0 : DWord) (s : State) : exec (.tide p sgid pair t0) s = execTide p sgid pair t0 s := rfl
theorem exec_timeq (p : Arrival) (t1 : DWord) (s : State) : exec (.timeq p t1) s = execTimeq p t1 s := rfl
theorem exec_timer (p : Arrival) (t1 t2 t3 : DWord) (s : State) : exec (.timer p t1 t2 t3) s = execTimer p t1 t2 t3 s := rfl
theorem exec_sliceStart (sgid : BitVec 12) (s : State) : exec (.sliceStart sgid) s = execSliceStart sgid s := rfl
theorem exec_sliceGraceExpire (sgid : BitVec 12) (s : State) : exec (.sliceGraceExpire sgid) s = execSliceGraceExpire sgid s := rfl
theorem exec_routeHoldTimeout (dst : BitVec 11) (cls : BitVec 2) (s : State) : exec (.routeHoldTimeout dst cls) s = execRouteHoldTimeout dst cls s := rfl
theorem exec_linkRestrict (port : BitVec 5) (missing : List Nat) (s : State) : exec (.linkRestrict port missing) s = execLinkRestrict port missing s := rfl
theorem exec_tideFallback (sgid : BitVec 12) (pair : Word) (s : State) : exec (.tideFallback sgid pair) s = execTideFallback sgid pair s := rfl
theorem exec_tideHoldEnd (job : BitVec 16) (s : State) : exec (.tideHoldEnd job) s = execTideHoldEnd job s := rfl
theorem exec_cooperativeSave (block : Nat) (s : State) : exec (.cooperativeSave block) s = execCooperativeSave block s := rfl
theorem exec_forcedSave (block : Nat) (s : State) : exec (.forcedSave block) s = execForcedSave block s := rfl
theorem exec_blockEnd (block : Nat) (s : State) : exec (.blockEnd block) s = execBlockEnd block s := rfl
theorem exec_errorConsume (frag : Nat) (addr : DWord) (s : State) : exec (.errorConsume frag addr) s = execErrorConsume frag addr s := rfl
theorem exec_selfTest (cls : Unit9) (unit : BitVec 32) (pass : Bool) (s : State) : exec (.selfTest cls unit pass) s = execSelfTest cls unit pass s := rfl
theorem exec_coreRetire (core : Nat) (s : State) : exec (.coreRetire core) s = execCoreRetire core s := rfl
theorem exec_laneRemap (core : Nat) (part : BitVec 2) (lane : BitVec 6) (s : State) : exec (.laneRemap core part lane) s = execLaneRemap core part lane s := rfl
theorem exec_channelRetire (channel : BitVec 8) (s : State) : exec (.channelRetire channel) s = execChannelRetire channel s := rfl
theorem exec_read64 (tag : BitVec 12) (channel : BitVec 8) (offset : BitVec 31) (s : State) : exec (.read64 tag channel offset) s = execRead64 tag channel offset s := rfl
theorem exec_read256 (tag : BitVec 12) (channel : BitVec 8) (offset : BitVec 31) (s : State) : exec (.read256 tag channel offset) s = execRead256 tag channel offset s := rfl
theorem exec_hbmWrite (tag : BitVec 12) (channel : BitVec 8) (offset : BitVec 31) (bytes : List (Nat × Byte)) (s : State) : exec (.hbmWrite tag channel offset bytes) s = execHbmWrite tag channel offset bytes s := rfl
theorem exec_hbmAtom (tag : BitVec 12) (channel : BitVec 8) (offset : BitVec 31) (aop : BitVec 4) (wide : Bool) (x y : DWord) (s : State) : exec (.hbmAtom tag channel offset aop wide x y) s = execHbmAtom tag channel offset aop wide x y s := rfl
theorem exec_hbmRedm (tag : BitVec 12) (channel : BitVec 8) (offset : BitVec 31) (aop : BitVec 4) (words : List (Nat × Word)) (s : State) : exec (.hbmRedm tag channel offset aop words) s = execHbmRedm tag channel offset aop words s := rfl
theorem exec_apertureRead (host : Nat) (loc : BitVec 40) (count : Nat) (s : State) : exec (.apertureRead host loc count) s = execApertureRead host loc count s := rfl
theorem exec_apertureWrite (host : Nat) (loc : BitVec 40) (bytes : List Byte) (s : State) : exec (.apertureWrite host loc bytes) s = execApertureWrite host loc bytes s := rfl
theorem exec_stagingWrite (port : BitVec 3) (off : BitVec 24) (bytes : List Byte) (s : State) : exec (.stagingWrite port off bytes) s = execStagingWrite port off bytes s := rfl
theorem exec_bootgo (write : PortWrite) (s : State) : exec (.bootgo write) s = execBootgo write s := rfl
theorem exec_registerWrite (off : BitVec 40) (write : HostWrite DWord) (s : State) : exec (.registerWrite off write) s = execRegisterWrite off write s := rfl
theorem exec_jobOpen (job : BitVec 16) (root : BitVec 52) (key : BitVec 32) (s : State) : exec (.jobOpen job root key) s = execJobOpen job root key s := rfl
theorem exec_jobClose (job : BitVec 16) (s : State) : exec (.jobClose job) s = execJobClose job s := rfl
theorem exec_queueConfig (queue : BitVec 16) (size : Nat) (job : BitVec 16) (preempt : Bool) (pdl : Nat) (enable : Bool) (s : State) : exec (.queueConfig queue size job preempt pdl enable) s = execQueueConfig queue size job preempt pdl enable s := rfl
theorem exec_queueReset (queue : BitVec 12) (s : State) : exec (.queueReset queue) s = execQueueReset queue s := rfl
theorem exec_keyLoad (job : BitVec 16) (handle : BitVec 16) (key : Option (BitVec 512)) (s : State) : exec (.keyLoad job handle key) s = execKeyLoad job handle key s := rfl
theorem exec_groupWrite (sgid : BitVec 12) (entry : BitVec 2048) (s : State) : exec (.groupWrite sgid entry) s = execGroupWrite sgid entry s := rfl
theorem exec_map (job : BitVec 16) (va : DWord) (leaf : BitVec 128) (s : State) : exec (.map job va leaf) s = execMap job va leaf s := rfl
theorem exec_grant (host : Nat) (frame : Nat) (count : Nat) (give : Bool) (s : State) : exec (.grant host frame count give) s = execGrant host frame count give s := rfl
theorem exec_routeLoad (first : BitVec 11) (entries : List RouteEntry) (commit : Bool) (s : State) : exec (.routeLoad first entries commit) s = execRouteLoad first entries commit s := rfl
theorem exec_admitKeys (port : BitVec 5) (keys : List (BitVec 32)) (s : State) : exec (.admitKeys port keys) s = execAdmitKeys port keys s := rfl
theorem exec_slice (sgid : BitVec 12) (start : DWord) (grace : Word) (s : State) : exec (.slice sgid start grace) s = execSlice sgid start grace s := rfl
theorem exec_preempt (who : PreemptTarget) (s : State) : exec (.preempt who) s = execPreempt who s := rfl
theorem exec_pgovWrite (value : DWord) (s : State) : exec (.pgovWrite value) s = execPgovWrite value s := rfl
theorem exec_quote (nonce : BitVec 256) (s : State) : exec (.quote nonce) s = execQuote nonce s := rfl
theorem exec_debug (warp : Nat) (act : DebugAct) (s : State) : exec (.debug warp act) s = execDebug warp act s := rfl
theorem exec_saveArea (job : BitVec 16) (va : DWord) (len : DWord) (s : State) : exec (.saveArea job va len) s = execSaveArea job va len s := rfl
theorem exec_reservedRequest (code : BitVec 16) (s : State) : exec (.reservedRequest code) s = execReservedRequest code s := rfl
theorem exec_scrub (line : Nat) (wrong : BitVec 72) (s : State) : exec (.scrub line wrong) s = execScrub line wrong s := rfl
theorem exec_linkTraining (link : LinkKind) (ok : Bool) (s : State) : exec (.linkTraining link ok) s = execLinkTraining link ok s := rfl
theorem exec_timeqSend (peer : BitVec 11) (s : State) : exec (.timeqSend peer) s = execTimeqSend peer s := rfl
theorem exec_sliceAbortRequest (sgid : BitVec 12) (s : State) : exec (.sliceAbortRequest sgid) s = execSliceAbortRequest sgid s := rfl
theorem exec_gridEndRequest (grid : GridId) (s : State) : exec (.gridEndRequest grid) s = execGridEndRequest grid s := rfl
theorem exec_governorPeriod (s : State) : exec .governorPeriod s = execGovernorPeriod s := rfl
theorem exec_pgovRead (s : State) : exec .pgovRead s = execPgovRead s := rfl
theorem exec_reset (s : State) : exec .reset s = execReset s := rfl
theorem exec_warmReset (s : State) : exec .warmReset s = execWarmReset s := rfl
theorem exec_coldReset (s : State) : exec .coldReset s = execColdReset s := rfl
theorem exec_resetPin (s : State) : exec .resetPin s = execResetPin s := rfl

end Sys2Proof.Machine
end

