-- ==== Sys2Proof/Laws/State.lean ====
section
/-! SUPPORT. What each named update of the state changes: one lemma per field and update, and the lookups after
an update. -/

namespace Sys2Proof.Machine

/-! ## Rows of the work tables -/

@[simp] theorem State.setFrag_ctl (s : State) (f : Frag) : (s.setFrag f).ctl = s.ctl := rfl
@[simp] theorem State.setFrag_cycle (s : State) (f : Frag) : (s.setFrag f).cycle = s.cycle := rfl
@[simp] theorem State.setFrag_time (s : State) (f : Frag) : (s.setFrag f).time = s.time := rfl
@[simp] theorem State.setFrag_mem (s : State) (f : Frag) : (s.setFrag f).mem = s.mem := rfl
@[simp] theorem State.setFrag_sync (s : State) (f : Frag) : (s.setFrag f).sync = s.sync := rfl
@[simp] theorem State.setFrag_fab (s : State) (f : Frag) : (s.setFrag f).fab = s.fab := rfl
@[simp] theorem State.setFrag_coll (s : State) (f : Frag) : (s.setFrag f).coll = s.coll := rfl
@[simp] theorem State.setFrag_power (s : State) (f : Frag) : (s.setFrag f).power = s.power := rfl
@[simp] theorem State.setFrag_fw (s : State) (f : Frag) : (s.setFrag f).fw = s.fw := rfl
@[simp] theorem State.setFrag_repair (s : State) (f : Frag) : (s.setFrag f).repair = s.repair := rfl
@[simp] theorem State.setFrag_jobs (s : State) (f : Frag) : (s.setFrag f).work.jobs = s.work.jobs := rfl
@[simp] theorem State.setFrag_groups (s : State) (f : Frag) : (s.setFrag f).work.groups = s.work.groups := rfl
@[simp] theorem State.setFrag_queues (s : State) (f : Frag) : (s.setFrag f).work.queues = s.work.queues := rfl
@[simp] theorem State.setFrag_grids (s : State) (f : Frag) : (s.setFrag f).work.grids = s.work.grids := rfl
@[simp] theorem State.setFrag_records (s : State) (f : Frag) : (s.setFrag f).work.records = s.work.records := rfl
@[simp] theorem State.setFrag_blocks (s : State) (f : Frag) : (s.setFrag f).work.blocks = s.work.blocks := rfl
@[simp] theorem State.setFrag_warps (s : State) (f : Frag) : (s.setFrag f).work.warps = s.work.warps := rfl
@[simp] theorem State.setFrag_pans (s : State) (f : Frag) : (s.setFrag f).work.pans = s.work.pans := rfl
@[simp] theorem State.setFrag_gangs (s : State) (f : Frag) : (s.setFrag f).work.gangs = s.work.gangs := rfl
@[simp] theorem State.setFrag_holds (s : State) (f : Frag) : (s.setFrag f).work.holds = s.work.holds := rfl
@[simp] theorem State.setFrag_firstGangs (s : State) (f : Frag) : (s.setFrag f).work.firstGangs = s.work.firstGangs := rfl
@[simp] theorem State.setFrag_liveCores (s : State) (f : Frag) : (s.setFrag f).work.liveCores = s.work.liveCores := rfl
@[simp] theorem State.setFrag_unmatched (s : State) (f : Frag) : (s.setFrag f).work.unmatched = s.work.unmatched := rfl
@[simp] theorem State.setFrag_stalled (s : State) (f : Frag) : (s.setFrag f).work.stalled = s.work.stalled := rfl

@[simp] theorem State.setWarp_ctl (s : State) (w : Warp) : (s.setWarp w).ctl = s.ctl := rfl
@[simp] theorem State.setWarp_cycle (s : State) (w : Warp) : (s.setWarp w).cycle = s.cycle := rfl
@[simp] theorem State.setWarp_time (s : State) (w : Warp) : (s.setWarp w).time = s.time := rfl
@[simp] theorem State.setWarp_mem (s : State) (w : Warp) : (s.setWarp w).mem = s.mem := rfl
@[simp] theorem State.setWarp_sync (s : State) (w : Warp) : (s.setWarp w).sync = s.sync := rfl
@[simp] theorem State.setWarp_fab (s : State) (w : Warp) : (s.setWarp w).fab = s.fab := rfl
@[simp] theorem State.setWarp_coll (s : State) (w : Warp) : (s.setWarp w).coll = s.coll := rfl
@[simp] theorem State.setWarp_power (s : State) (w : Warp) : (s.setWarp w).power = s.power := rfl
@[simp] theorem State.setWarp_fw (s : State) (w : Warp) : (s.setWarp w).fw = s.fw := rfl
@[simp] theorem State.setWarp_repair (s : State) (w : Warp) : (s.setWarp w).repair = s.repair := rfl
@[simp] theorem State.setWarp_jobs (s : State) (w : Warp) : (s.setWarp w).work.jobs = s.work.jobs := rfl
@[simp] theorem State.setWarp_groups (s : State) (w : Warp) : (s.setWarp w).work.groups = s.work.groups := rfl
@[simp] theorem State.setWarp_queues (s : State) (w : Warp) : (s.setWarp w).work.queues = s.work.queues := rfl
@[simp] theorem State.setWarp_grids (s : State) (w : Warp) : (s.setWarp w).work.grids = s.work.grids := rfl
@[simp] theorem State.setWarp_records (s : State) (w : Warp) : (s.setWarp w).work.records = s.work.records := rfl
@[simp] theorem State.setWarp_blocks (s : State) (w : Warp) : (s.setWarp w).work.blocks = s.work.blocks := rfl
@[simp] theorem State.setWarp_frags (s : State) (w : Warp) : (s.setWarp w).work.frags = s.work.frags := rfl
@[simp] theorem State.setWarp_pans (s : State) (w : Warp) : (s.setWarp w).work.pans = s.work.pans := rfl
@[simp] theorem State.setWarp_gangs (s : State) (w : Warp) : (s.setWarp w).work.gangs = s.work.gangs := rfl
@[simp] theorem State.setWarp_holds (s : State) (w : Warp) : (s.setWarp w).work.holds = s.work.holds := rfl
@[simp] theorem State.setWarp_firstGangs (s : State) (w : Warp) : (s.setWarp w).work.firstGangs = s.work.firstGangs := rfl
@[simp] theorem State.setWarp_liveCores (s : State) (w : Warp) : (s.setWarp w).work.liveCores = s.work.liveCores := rfl
@[simp] theorem State.setWarp_unmatched (s : State) (w : Warp) : (s.setWarp w).work.unmatched = s.work.unmatched := rfl
@[simp] theorem State.setWarp_stalled (s : State) (w : Warp) : (s.setWarp w).work.stalled = s.work.stalled := rfl

@[simp] theorem State.setBlock_ctl (s : State) (b : Block) : (s.setBlock b).ctl = s.ctl := rfl
@[simp] theorem State.setBlock_cycle (s : State) (b : Block) : (s.setBlock b).cycle = s.cycle := rfl
@[simp] theorem State.setBlock_time (s : State) (b : Block) : (s.setBlock b).time = s.time := rfl
@[simp] theorem State.setBlock_mem (s : State) (b : Block) : (s.setBlock b).mem = s.mem := rfl
@[simp] theorem State.setBlock_sync (s : State) (b : Block) : (s.setBlock b).sync = s.sync := rfl
@[simp] theorem State.setBlock_fab (s : State) (b : Block) : (s.setBlock b).fab = s.fab := rfl
@[simp] theorem State.setBlock_coll (s : State) (b : Block) : (s.setBlock b).coll = s.coll := rfl
@[simp] theorem State.setBlock_power (s : State) (b : Block) : (s.setBlock b).power = s.power := rfl
@[simp] theorem State.setBlock_fw (s : State) (b : Block) : (s.setBlock b).fw = s.fw := rfl
@[simp] theorem State.setBlock_repair (s : State) (b : Block) : (s.setBlock b).repair = s.repair := rfl
@[simp] theorem State.setBlock_jobs (s : State) (b : Block) : (s.setBlock b).work.jobs = s.work.jobs := rfl
@[simp] theorem State.setBlock_groups (s : State) (b : Block) : (s.setBlock b).work.groups = s.work.groups := rfl
@[simp] theorem State.setBlock_queues (s : State) (b : Block) : (s.setBlock b).work.queues = s.work.queues := rfl
@[simp] theorem State.setBlock_grids (s : State) (b : Block) : (s.setBlock b).work.grids = s.work.grids := rfl
@[simp] theorem State.setBlock_records (s : State) (b : Block) : (s.setBlock b).work.records = s.work.records := rfl
@[simp] theorem State.setBlock_warps (s : State) (b : Block) : (s.setBlock b).work.warps = s.work.warps := rfl
@[simp] theorem State.setBlock_frags (s : State) (b : Block) : (s.setBlock b).work.frags = s.work.frags := rfl
@[simp] theorem State.setBlock_pans (s : State) (b : Block) : (s.setBlock b).work.pans = s.work.pans := rfl
@[simp] theorem State.setBlock_gangs (s : State) (b : Block) : (s.setBlock b).work.gangs = s.work.gangs := rfl
@[simp] theorem State.setBlock_holds (s : State) (b : Block) : (s.setBlock b).work.holds = s.work.holds := rfl
@[simp] theorem State.setBlock_firstGangs (s : State) (b : Block) : (s.setBlock b).work.firstGangs = s.work.firstGangs := rfl
@[simp] theorem State.setBlock_liveCores (s : State) (b : Block) : (s.setBlock b).work.liveCores = s.work.liveCores := rfl
@[simp] theorem State.setBlock_unmatched (s : State) (b : Block) : (s.setBlock b).work.unmatched = s.work.unmatched := rfl
@[simp] theorem State.setBlock_stalled (s : State) (b : Block) : (s.setBlock b).work.stalled = s.work.stalled := rfl

@[simp] theorem State.setGrid_ctl (s : State) (g : Grid) : (s.setGrid g).ctl = s.ctl := rfl
@[simp] theorem State.setGrid_cycle (s : State) (g : Grid) : (s.setGrid g).cycle = s.cycle := rfl
@[simp] theorem State.setGrid_time (s : State) (g : Grid) : (s.setGrid g).time = s.time := rfl
@[simp] theorem State.setGrid_mem (s : State) (g : Grid) : (s.setGrid g).mem = s.mem := rfl
@[simp] theorem State.setGrid_sync (s : State) (g : Grid) : (s.setGrid g).sync = s.sync := rfl
@[simp] theorem State.setGrid_fab (s : State) (g : Grid) : (s.setGrid g).fab = s.fab := rfl
@[simp] theorem State.setGrid_coll (s : State) (g : Grid) : (s.setGrid g).coll = s.coll := rfl
@[simp] theorem State.setGrid_power (s : State) (g : Grid) : (s.setGrid g).power = s.power := rfl
@[simp] theorem State.setGrid_fw (s : State) (g : Grid) : (s.setGrid g).fw = s.fw := rfl
@[simp] theorem State.setGrid_repair (s : State) (g : Grid) : (s.setGrid g).repair = s.repair := rfl
@[simp] theorem State.setGrid_jobs (s : State) (g : Grid) : (s.setGrid g).work.jobs = s.work.jobs := rfl
@[simp] theorem State.setGrid_groups (s : State) (g : Grid) : (s.setGrid g).work.groups = s.work.groups := rfl
@[simp] theorem State.setGrid_queues (s : State) (g : Grid) : (s.setGrid g).work.queues = s.work.queues := rfl
@[simp] theorem State.setGrid_records (s : State) (g : Grid) : (s.setGrid g).work.records = s.work.records := rfl
@[simp] theorem State.setGrid_blocks (s : State) (g : Grid) : (s.setGrid g).work.blocks = s.work.blocks := rfl
@[simp] theorem State.setGrid_warps (s : State) (g : Grid) : (s.setGrid g).work.warps = s.work.warps := rfl
@[simp] theorem State.setGrid_frags (s : State) (g : Grid) : (s.setGrid g).work.frags = s.work.frags := rfl
@[simp] theorem State.setGrid_pans (s : State) (g : Grid) : (s.setGrid g).work.pans = s.work.pans := rfl
@[simp] theorem State.setGrid_gangs (s : State) (g : Grid) : (s.setGrid g).work.gangs = s.work.gangs := rfl
@[simp] theorem State.setGrid_holds (s : State) (g : Grid) : (s.setGrid g).work.holds = s.work.holds := rfl
@[simp] theorem State.setGrid_firstGangs (s : State) (g : Grid) : (s.setGrid g).work.firstGangs = s.work.firstGangs := rfl
@[simp] theorem State.setGrid_liveCores (s : State) (g : Grid) : (s.setGrid g).work.liveCores = s.work.liveCores := rfl
@[simp] theorem State.setGrid_unmatched (s : State) (g : Grid) : (s.setGrid g).work.unmatched = s.work.unmatched := rfl
@[simp] theorem State.setGrid_stalled (s : State) (g : Grid) : (s.setGrid g).work.stalled = s.work.stalled := rfl

@[simp] theorem State.setJob_ctl (s : State) (j : Job) : (s.setJob j).ctl = s.ctl := rfl
@[simp] theorem State.setJob_cycle (s : State) (j : Job) : (s.setJob j).cycle = s.cycle := rfl
@[simp] theorem State.setJob_time (s : State) (j : Job) : (s.setJob j).time = s.time := rfl
@[simp] theorem State.setJob_mem (s : State) (j : Job) : (s.setJob j).mem = s.mem := rfl
@[simp] theorem State.setJob_sync (s : State) (j : Job) : (s.setJob j).sync = s.sync := rfl
@[simp] theorem State.setJob_fab (s : State) (j : Job) : (s.setJob j).fab = s.fab := rfl
@[simp] theorem State.setJob_coll (s : State) (j : Job) : (s.setJob j).coll = s.coll := rfl
@[simp] theorem State.setJob_power (s : State) (j : Job) : (s.setJob j).power = s.power := rfl
@[simp] theorem State.setJob_fw (s : State) (j : Job) : (s.setJob j).fw = s.fw := rfl
@[simp] theorem State.setJob_repair (s : State) (j : Job) : (s.setJob j).repair = s.repair := rfl
@[simp] theorem State.setJob_groups (s : State) (j : Job) : (s.setJob j).work.groups = s.work.groups := rfl
@[simp] theorem State.setJob_queues (s : State) (j : Job) : (s.setJob j).work.queues = s.work.queues := rfl
@[simp] theorem State.setJob_grids (s : State) (j : Job) : (s.setJob j).work.grids = s.work.grids := rfl
@[simp] theorem State.setJob_records (s : State) (j : Job) : (s.setJob j).work.records = s.work.records := rfl
@[simp] theorem State.setJob_blocks (s : State) (j : Job) : (s.setJob j).work.blocks = s.work.blocks := rfl
@[simp] theorem State.setJob_warps (s : State) (j : Job) : (s.setJob j).work.warps = s.work.warps := rfl
@[simp] theorem State.setJob_frags (s : State) (j : Job) : (s.setJob j).work.frags = s.work.frags := rfl
@[simp] theorem State.setJob_pans (s : State) (j : Job) : (s.setJob j).work.pans = s.work.pans := rfl
@[simp] theorem State.setJob_gangs (s : State) (j : Job) : (s.setJob j).work.gangs = s.work.gangs := rfl
@[simp] theorem State.setJob_holds (s : State) (j : Job) : (s.setJob j).work.holds = s.work.holds := rfl
@[simp] theorem State.setJob_firstGangs (s : State) (j : Job) : (s.setJob j).work.firstGangs = s.work.firstGangs := rfl
@[simp] theorem State.setJob_liveCores (s : State) (j : Job) : (s.setJob j).work.liveCores = s.work.liveCores := rfl
@[simp] theorem State.setJob_unmatched (s : State) (j : Job) : (s.setJob j).work.unmatched = s.work.unmatched := rfl
@[simp] theorem State.setJob_stalled (s : State) (j : Job) : (s.setJob j).work.stalled = s.work.stalled := rfl

@[simp] theorem State.setQueue_ctl (s : State) (q : Queue) : (s.setQueue q).ctl = s.ctl := rfl
@[simp] theorem State.setQueue_cycle (s : State) (q : Queue) : (s.setQueue q).cycle = s.cycle := rfl
@[simp] theorem State.setQueue_time (s : State) (q : Queue) : (s.setQueue q).time = s.time := rfl
@[simp] theorem State.setQueue_mem (s : State) (q : Queue) : (s.setQueue q).mem = s.mem := rfl
@[simp] theorem State.setQueue_sync (s : State) (q : Queue) : (s.setQueue q).sync = s.sync := rfl
@[simp] theorem State.setQueue_fab (s : State) (q : Queue) : (s.setQueue q).fab = s.fab := rfl
@[simp] theorem State.setQueue_coll (s : State) (q : Queue) : (s.setQueue q).coll = s.coll := rfl
@[simp] theorem State.setQueue_power (s : State) (q : Queue) : (s.setQueue q).power = s.power := rfl
@[simp] theorem State.setQueue_fw (s : State) (q : Queue) : (s.setQueue q).fw = s.fw := rfl
@[simp] theorem State.setQueue_repair (s : State) (q : Queue) : (s.setQueue q).repair = s.repair := rfl
@[simp] theorem State.setQueue_jobs (s : State) (q : Queue) : (s.setQueue q).work.jobs = s.work.jobs := rfl
@[simp] theorem State.setQueue_groups (s : State) (q : Queue) : (s.setQueue q).work.groups = s.work.groups := rfl
@[simp] theorem State.setQueue_grids (s : State) (q : Queue) : (s.setQueue q).work.grids = s.work.grids := rfl
@[simp] theorem State.setQueue_records (s : State) (q : Queue) : (s.setQueue q).work.records = s.work.records := rfl
@[simp] theorem State.setQueue_blocks (s : State) (q : Queue) : (s.setQueue q).work.blocks = s.work.blocks := rfl
@[simp] theorem State.setQueue_warps (s : State) (q : Queue) : (s.setQueue q).work.warps = s.work.warps := rfl
@[simp] theorem State.setQueue_frags (s : State) (q : Queue) : (s.setQueue q).work.frags = s.work.frags := rfl
@[simp] theorem State.setQueue_pans (s : State) (q : Queue) : (s.setQueue q).work.pans = s.work.pans := rfl
@[simp] theorem State.setQueue_gangs (s : State) (q : Queue) : (s.setQueue q).work.gangs = s.work.gangs := rfl
@[simp] theorem State.setQueue_holds (s : State) (q : Queue) : (s.setQueue q).work.holds = s.work.holds := rfl
@[simp] theorem State.setQueue_firstGangs (s : State) (q : Queue) : (s.setQueue q).work.firstGangs = s.work.firstGangs := rfl
@[simp] theorem State.setQueue_liveCores (s : State) (q : Queue) : (s.setQueue q).work.liveCores = s.work.liveCores := rfl
@[simp] theorem State.setQueue_unmatched (s : State) (q : Queue) : (s.setQueue q).work.unmatched = s.work.unmatched := rfl
@[simp] theorem State.setQueue_stalled (s : State) (q : Queue) : (s.setQueue q).work.stalled = s.work.stalled := rfl

@[simp] theorem State.setPan_ctl (s : State) (p : Pan) : (s.setPan p).ctl = s.ctl := rfl
@[simp] theorem State.setPan_cycle (s : State) (p : Pan) : (s.setPan p).cycle = s.cycle := rfl
@[simp] theorem State.setPan_time (s : State) (p : Pan) : (s.setPan p).time = s.time := rfl
@[simp] theorem State.setPan_mem (s : State) (p : Pan) : (s.setPan p).mem = s.mem := rfl
@[simp] theorem State.setPan_sync (s : State) (p : Pan) : (s.setPan p).sync = s.sync := rfl
@[simp] theorem State.setPan_fab (s : State) (p : Pan) : (s.setPan p).fab = s.fab := rfl
@[simp] theorem State.setPan_coll (s : State) (p : Pan) : (s.setPan p).coll = s.coll := rfl
@[simp] theorem State.setPan_power (s : State) (p : Pan) : (s.setPan p).power = s.power := rfl
@[simp] theorem State.setPan_fw (s : State) (p : Pan) : (s.setPan p).fw = s.fw := rfl
@[simp] theorem State.setPan_repair (s : State) (p : Pan) : (s.setPan p).repair = s.repair := rfl
@[simp] theorem State.setPan_jobs (s : State) (p : Pan) : (s.setPan p).work.jobs = s.work.jobs := rfl
@[simp] theorem State.setPan_groups (s : State) (p : Pan) : (s.setPan p).work.groups = s.work.groups := rfl
@[simp] theorem State.setPan_queues (s : State) (p : Pan) : (s.setPan p).work.queues = s.work.queues := rfl
@[simp] theorem State.setPan_grids (s : State) (p : Pan) : (s.setPan p).work.grids = s.work.grids := rfl
@[simp] theorem State.setPan_records (s : State) (p : Pan) : (s.setPan p).work.records = s.work.records := rfl
@[simp] theorem State.setPan_blocks (s : State) (p : Pan) : (s.setPan p).work.blocks = s.work.blocks := rfl
@[simp] theorem State.setPan_warps (s : State) (p : Pan) : (s.setPan p).work.warps = s.work.warps := rfl
@[simp] theorem State.setPan_frags (s : State) (p : Pan) : (s.setPan p).work.frags = s.work.frags := rfl
@[simp] theorem State.setPan_gangs (s : State) (p : Pan) : (s.setPan p).work.gangs = s.work.gangs := rfl
@[simp] theorem State.setPan_holds (s : State) (p : Pan) : (s.setPan p).work.holds = s.work.holds := rfl
@[simp] theorem State.setPan_firstGangs (s : State) (p : Pan) : (s.setPan p).work.firstGangs = s.work.firstGangs := rfl
@[simp] theorem State.setPan_liveCores (s : State) (p : Pan) : (s.setPan p).work.liveCores = s.work.liveCores := rfl
@[simp] theorem State.setPan_unmatched (s : State) (p : Pan) : (s.setPan p).work.unmatched = s.work.unmatched := rfl
@[simp] theorem State.setPan_stalled (s : State) (p : Pan) : (s.setPan p).work.stalled = s.work.stalled := rfl

@[simp] theorem State.modFrag_ctl (s : State) (i : Nat) (k : Frag → Frag) : (s.modFrag i k).ctl = s.ctl := rfl
@[simp] theorem State.modFrag_cycle (s : State) (i : Nat) (k : Frag → Frag) : (s.modFrag i k).cycle = s.cycle := rfl
@[simp] theorem State.modFrag_time (s : State) (i : Nat) (k : Frag → Frag) : (s.modFrag i k).time = s.time := rfl
@[simp] theorem State.modFrag_mem (s : State) (i : Nat) (k : Frag → Frag) : (s.modFrag i k).mem = s.mem := rfl
@[simp] theorem State.modFrag_sync (s : State) (i : Nat) (k : Frag → Frag) : (s.modFrag i k).sync = s.sync := rfl
@[simp] theorem State.modFrag_fab (s : State) (i : Nat) (k : Frag → Frag) : (s.modFrag i k).fab = s.fab := rfl
@[simp] theorem State.modFrag_coll (s : State) (i : Nat) (k : Frag → Frag) : (s.modFrag i k).coll = s.coll := rfl
@[simp] theorem State.modFrag_power (s : State) (i : Nat) (k : Frag → Frag) : (s.modFrag i k).power = s.power := rfl
@[simp] theorem State.modFrag_fw (s : State) (i : Nat) (k : Frag → Frag) : (s.modFrag i k).fw = s.fw := rfl
@[simp] theorem State.modFrag_repair (s : State) (i : Nat) (k : Frag → Frag) : (s.modFrag i k).repair = s.repair := rfl
@[simp] theorem State.modFrag_jobs (s : State) (i : Nat) (k : Frag → Frag) : (s.modFrag i k).work.jobs = s.work.jobs := rfl
@[simp] theorem State.modFrag_groups (s : State) (i : Nat) (k : Frag → Frag) : (s.modFrag i k).work.groups = s.work.groups := rfl
@[simp] theorem State.modFrag_queues (s : State) (i : Nat) (k : Frag → Frag) : (s.modFrag i k).work.queues = s.work.queues := rfl
@[simp] theorem State.modFrag_grids (s : State) (i : Nat) (k : Frag → Frag) : (s.modFrag i k).work.grids = s.work.grids := rfl
@[simp] theorem State.modFrag_records (s : State) (i : Nat) (k : Frag → Frag) : (s.modFrag i k).work.records = s.work.records := rfl
@[simp] theorem State.modFrag_blocks (s : State) (i : Nat) (k : Frag → Frag) : (s.modFrag i k).work.blocks = s.work.blocks := rfl
@[simp] theorem State.modFrag_warps (s : State) (i : Nat) (k : Frag → Frag) : (s.modFrag i k).work.warps = s.work.warps := rfl
@[simp] theorem State.modFrag_pans (s : State) (i : Nat) (k : Frag → Frag) : (s.modFrag i k).work.pans = s.work.pans := rfl
@[simp] theorem State.modFrag_gangs (s : State) (i : Nat) (k : Frag → Frag) : (s.modFrag i k).work.gangs = s.work.gangs := rfl
@[simp] theorem State.modFrag_holds (s : State) (i : Nat) (k : Frag → Frag) : (s.modFrag i k).work.holds = s.work.holds := rfl
@[simp] theorem State.modFrag_firstGangs (s : State) (i : Nat) (k : Frag → Frag) : (s.modFrag i k).work.firstGangs = s.work.firstGangs := rfl
@[simp] theorem State.modFrag_liveCores (s : State) (i : Nat) (k : Frag → Frag) : (s.modFrag i k).work.liveCores = s.work.liveCores := rfl
@[simp] theorem State.modFrag_unmatched (s : State) (i : Nat) (k : Frag → Frag) : (s.modFrag i k).work.unmatched = s.work.unmatched := rfl
@[simp] theorem State.modFrag_stalled (s : State) (i : Nat) (k : Frag → Frag) : (s.modFrag i k).work.stalled = s.work.stalled := rfl

@[simp] theorem State.modWarp_ctl (s : State) (i : Nat) (k : Warp → Warp) : (s.modWarp i k).ctl = s.ctl := rfl
@[simp] theorem State.modWarp_cycle (s : State) (i : Nat) (k : Warp → Warp) : (s.modWarp i k).cycle = s.cycle := rfl
@[simp] theorem State.modWarp_time (s : State) (i : Nat) (k : Warp → Warp) : (s.modWarp i k).time = s.time := rfl
@[simp] theorem State.modWarp_mem (s : State) (i : Nat) (k : Warp → Warp) : (s.modWarp i k).mem = s.mem := rfl
@[simp] theorem State.modWarp_sync (s : State) (i : Nat) (k : Warp → Warp) : (s.modWarp i k).sync = s.sync := rfl
@[simp] theorem State.modWarp_fab (s : State) (i : Nat) (k : Warp → Warp) : (s.modWarp i k).fab = s.fab := rfl
@[simp] theorem State.modWarp_coll (s : State) (i : Nat) (k : Warp → Warp) : (s.modWarp i k).coll = s.coll := rfl
@[simp] theorem State.modWarp_power (s : State) (i : Nat) (k : Warp → Warp) : (s.modWarp i k).power = s.power := rfl
@[simp] theorem State.modWarp_fw (s : State) (i : Nat) (k : Warp → Warp) : (s.modWarp i k).fw = s.fw := rfl
@[simp] theorem State.modWarp_repair (s : State) (i : Nat) (k : Warp → Warp) : (s.modWarp i k).repair = s.repair := rfl
@[simp] theorem State.modWarp_jobs (s : State) (i : Nat) (k : Warp → Warp) : (s.modWarp i k).work.jobs = s.work.jobs := rfl
@[simp] theorem State.modWarp_groups (s : State) (i : Nat) (k : Warp → Warp) : (s.modWarp i k).work.groups = s.work.groups := rfl
@[simp] theorem State.modWarp_queues (s : State) (i : Nat) (k : Warp → Warp) : (s.modWarp i k).work.queues = s.work.queues := rfl
@[simp] theorem State.modWarp_grids (s : State) (i : Nat) (k : Warp → Warp) : (s.modWarp i k).work.grids = s.work.grids := rfl
@[simp] theorem State.modWarp_records (s : State) (i : Nat) (k : Warp → Warp) : (s.modWarp i k).work.records = s.work.records := rfl
@[simp] theorem State.modWarp_blocks (s : State) (i : Nat) (k : Warp → Warp) : (s.modWarp i k).work.blocks = s.work.blocks := rfl
@[simp] theorem State.modWarp_frags (s : State) (i : Nat) (k : Warp → Warp) : (s.modWarp i k).work.frags = s.work.frags := rfl
@[simp] theorem State.modWarp_pans (s : State) (i : Nat) (k : Warp → Warp) : (s.modWarp i k).work.pans = s.work.pans := rfl
@[simp] theorem State.modWarp_gangs (s : State) (i : Nat) (k : Warp → Warp) : (s.modWarp i k).work.gangs = s.work.gangs := rfl
@[simp] theorem State.modWarp_holds (s : State) (i : Nat) (k : Warp → Warp) : (s.modWarp i k).work.holds = s.work.holds := rfl
@[simp] theorem State.modWarp_firstGangs (s : State) (i : Nat) (k : Warp → Warp) : (s.modWarp i k).work.firstGangs = s.work.firstGangs := rfl
@[simp] theorem State.modWarp_liveCores (s : State) (i : Nat) (k : Warp → Warp) : (s.modWarp i k).work.liveCores = s.work.liveCores := rfl
@[simp] theorem State.modWarp_unmatched (s : State) (i : Nat) (k : Warp → Warp) : (s.modWarp i k).work.unmatched = s.work.unmatched := rfl
@[simp] theorem State.modWarp_stalled (s : State) (i : Nat) (k : Warp → Warp) : (s.modWarp i k).work.stalled = s.work.stalled := rfl

@[simp] theorem State.modBlock_ctl (s : State) (i : Nat) (k : Block → Block) : (s.modBlock i k).ctl = s.ctl := rfl
@[simp] theorem State.modBlock_cycle (s : State) (i : Nat) (k : Block → Block) : (s.modBlock i k).cycle = s.cycle := rfl
@[simp] theorem State.modBlock_time (s : State) (i : Nat) (k : Block → Block) : (s.modBlock i k).time = s.time := rfl
@[simp] theorem State.modBlock_mem (s : State) (i : Nat) (k : Block → Block) : (s.modBlock i k).mem = s.mem := rfl
@[simp] theorem State.modBlock_sync (s : State) (i : Nat) (k : Block → Block) : (s.modBlock i k).sync = s.sync := rfl
@[simp] theorem State.modBlock_fab (s : State) (i : Nat) (k : Block → Block) : (s.modBlock i k).fab = s.fab := rfl
@[simp] theorem State.modBlock_coll (s : State) (i : Nat) (k : Block → Block) : (s.modBlock i k).coll = s.coll := rfl
@[simp] theorem State.modBlock_power (s : State) (i : Nat) (k : Block → Block) : (s.modBlock i k).power = s.power := rfl
@[simp] theorem State.modBlock_fw (s : State) (i : Nat) (k : Block → Block) : (s.modBlock i k).fw = s.fw := rfl
@[simp] theorem State.modBlock_repair (s : State) (i : Nat) (k : Block → Block) : (s.modBlock i k).repair = s.repair := rfl
@[simp] theorem State.modBlock_jobs (s : State) (i : Nat) (k : Block → Block) : (s.modBlock i k).work.jobs = s.work.jobs := rfl
@[simp] theorem State.modBlock_groups (s : State) (i : Nat) (k : Block → Block) : (s.modBlock i k).work.groups = s.work.groups := rfl
@[simp] theorem State.modBlock_queues (s : State) (i : Nat) (k : Block → Block) : (s.modBlock i k).work.queues = s.work.queues := rfl
@[simp] theorem State.modBlock_grids (s : State) (i : Nat) (k : Block → Block) : (s.modBlock i k).work.grids = s.work.grids := rfl
@[simp] theorem State.modBlock_records (s : State) (i : Nat) (k : Block → Block) : (s.modBlock i k).work.records = s.work.records := rfl
@[simp] theorem State.modBlock_warps (s : State) (i : Nat) (k : Block → Block) : (s.modBlock i k).work.warps = s.work.warps := rfl
@[simp] theorem State.modBlock_frags (s : State) (i : Nat) (k : Block → Block) : (s.modBlock i k).work.frags = s.work.frags := rfl
@[simp] theorem State.modBlock_pans (s : State) (i : Nat) (k : Block → Block) : (s.modBlock i k).work.pans = s.work.pans := rfl
@[simp] theorem State.modBlock_gangs (s : State) (i : Nat) (k : Block → Block) : (s.modBlock i k).work.gangs = s.work.gangs := rfl
@[simp] theorem State.modBlock_holds (s : State) (i : Nat) (k : Block → Block) : (s.modBlock i k).work.holds = s.work.holds := rfl
@[simp] theorem State.modBlock_firstGangs (s : State) (i : Nat) (k : Block → Block) : (s.modBlock i k).work.firstGangs = s.work.firstGangs := rfl
@[simp] theorem State.modBlock_liveCores (s : State) (i : Nat) (k : Block → Block) : (s.modBlock i k).work.liveCores = s.work.liveCores := rfl
@[simp] theorem State.modBlock_unmatched (s : State) (i : Nat) (k : Block → Block) : (s.modBlock i k).work.unmatched = s.work.unmatched := rfl
@[simp] theorem State.modBlock_stalled (s : State) (i : Nat) (k : Block → Block) : (s.modBlock i k).work.stalled = s.work.stalled := rfl

@[simp] theorem State.modGrid_ctl (s : State) (i : Nat) (k : Grid → Grid) : (s.modGrid i k).ctl = s.ctl := rfl
@[simp] theorem State.modGrid_cycle (s : State) (i : Nat) (k : Grid → Grid) : (s.modGrid i k).cycle = s.cycle := rfl
@[simp] theorem State.modGrid_time (s : State) (i : Nat) (k : Grid → Grid) : (s.modGrid i k).time = s.time := rfl
@[simp] theorem State.modGrid_mem (s : State) (i : Nat) (k : Grid → Grid) : (s.modGrid i k).mem = s.mem := rfl
@[simp] theorem State.modGrid_sync (s : State) (i : Nat) (k : Grid → Grid) : (s.modGrid i k).sync = s.sync := rfl
@[simp] theorem State.modGrid_fab (s : State) (i : Nat) (k : Grid → Grid) : (s.modGrid i k).fab = s.fab := rfl
@[simp] theorem State.modGrid_coll (s : State) (i : Nat) (k : Grid → Grid) : (s.modGrid i k).coll = s.coll := rfl
@[simp] theorem State.modGrid_power (s : State) (i : Nat) (k : Grid → Grid) : (s.modGrid i k).power = s.power := rfl
@[simp] theorem State.modGrid_fw (s : State) (i : Nat) (k : Grid → Grid) : (s.modGrid i k).fw = s.fw := rfl
@[simp] theorem State.modGrid_repair (s : State) (i : Nat) (k : Grid → Grid) : (s.modGrid i k).repair = s.repair := rfl
@[simp] theorem State.modGrid_jobs (s : State) (i : Nat) (k : Grid → Grid) : (s.modGrid i k).work.jobs = s.work.jobs := rfl
@[simp] theorem State.modGrid_groups (s : State) (i : Nat) (k : Grid → Grid) : (s.modGrid i k).work.groups = s.work.groups := rfl
@[simp] theorem State.modGrid_queues (s : State) (i : Nat) (k : Grid → Grid) : (s.modGrid i k).work.queues = s.work.queues := rfl
@[simp] theorem State.modGrid_records (s : State) (i : Nat) (k : Grid → Grid) : (s.modGrid i k).work.records = s.work.records := rfl
@[simp] theorem State.modGrid_blocks (s : State) (i : Nat) (k : Grid → Grid) : (s.modGrid i k).work.blocks = s.work.blocks := rfl
@[simp] theorem State.modGrid_warps (s : State) (i : Nat) (k : Grid → Grid) : (s.modGrid i k).work.warps = s.work.warps := rfl
@[simp] theorem State.modGrid_frags (s : State) (i : Nat) (k : Grid → Grid) : (s.modGrid i k).work.frags = s.work.frags := rfl
@[simp] theorem State.modGrid_pans (s : State) (i : Nat) (k : Grid → Grid) : (s.modGrid i k).work.pans = s.work.pans := rfl
@[simp] theorem State.modGrid_gangs (s : State) (i : Nat) (k : Grid → Grid) : (s.modGrid i k).work.gangs = s.work.gangs := rfl
@[simp] theorem State.modGrid_holds (s : State) (i : Nat) (k : Grid → Grid) : (s.modGrid i k).work.holds = s.work.holds := rfl
@[simp] theorem State.modGrid_firstGangs (s : State) (i : Nat) (k : Grid → Grid) : (s.modGrid i k).work.firstGangs = s.work.firstGangs := rfl
@[simp] theorem State.modGrid_liveCores (s : State) (i : Nat) (k : Grid → Grid) : (s.modGrid i k).work.liveCores = s.work.liveCores := rfl
@[simp] theorem State.modGrid_unmatched (s : State) (i : Nat) (k : Grid → Grid) : (s.modGrid i k).work.unmatched = s.work.unmatched := rfl
@[simp] theorem State.modGrid_stalled (s : State) (i : Nat) (k : Grid → Grid) : (s.modGrid i k).work.stalled = s.work.stalled := rfl

@[simp] theorem State.setFrame_ctl (s : State) (y : FullFrame) : (s.setFrame y).ctl = s.ctl := rfl
@[simp] theorem State.setFrame_cycle (s : State) (y : FullFrame) : (s.setFrame y).cycle = s.cycle := rfl
@[simp] theorem State.setFrame_time (s : State) (y : FullFrame) : (s.setFrame y).time = s.time := rfl
@[simp] theorem State.setFrame_work (s : State) (y : FullFrame) : (s.setFrame y).work = s.work := rfl
@[simp] theorem State.setFrame_sync (s : State) (y : FullFrame) : (s.setFrame y).sync = s.sync := rfl
@[simp] theorem State.setFrame_fab (s : State) (y : FullFrame) : (s.setFrame y).fab = s.fab := rfl
@[simp] theorem State.setFrame_coll (s : State) (y : FullFrame) : (s.setFrame y).coll = s.coll := rfl
@[simp] theorem State.setFrame_power (s : State) (y : FullFrame) : (s.setFrame y).power = s.power := rfl
@[simp] theorem State.setFrame_fw (s : State) (y : FullFrame) : (s.setFrame y).fw = s.fw := rfl
@[simp] theorem State.setFrame_repair (s : State) (y : FullFrame) : (s.setFrame y).repair = s.repair := rfl
@[simp] theorem State.setFrame_hbm (s : State) (y : FullFrame) : (s.setFrame y).mem.hbm = s.mem.hbm := rfl
@[simp] theorem State.setFrame_poisoned (s : State) (y : FullFrame) : (s.setFrame y).mem.poisoned = s.mem.poisoned := rfl
@[simp] theorem State.setFrame_l1 (s : State) (y : FullFrame) : (s.setFrame y).mem.l1 = s.mem.l1 := rfl
@[simp] theorem State.setFrame_l2 (s : State) (y : FullFrame) : (s.setFrame y).mem.l2 = s.mem.l2 := rfl
@[simp] theorem State.setFrame_walks (s : State) (y : FullFrame) : (s.setFrame y).mem.walks = s.mem.walks := rfl
@[simp] theorem State.setFrame_framePool (s : State) (y : FullFrame) : (s.setFrame y).mem.framePool = s.mem.framePool := rfl
@[simp] theorem State.setFrame_transitions (s : State) (y : FullFrame) : (s.setFrame y).mem.transitions = s.mem.transitions := rfl
@[simp] theorem State.setFrame_opn (s : State) (y : FullFrame) : (s.setFrame y).mem.opn = s.mem.opn := rfl
@[simp] theorem State.setFrame_busyRetries (s : State) (y : FullFrame) : (s.setFrame y).mem.busyRetries = s.mem.busyRetries := rfl
@[simp] theorem State.setFrame_drainFlags (s : State) (y : FullFrame) : (s.setFrame y).mem.drainFlags = s.mem.drainFlags := rfl
@[simp] theorem State.setFrame_laid (s : State) (y : FullFrame) : (s.setFrame y).mem.laid = s.mem.laid := rfl

/-! ## Parts of the state -/

@[simp] theorem State.modSync_ctl (s : State) (k : Sync → Sync) : (s.modSync k).ctl = s.ctl := rfl
@[simp] theorem State.modSync_cycle (s : State) (k : Sync → Sync) : (s.modSync k).cycle = s.cycle := rfl
@[simp] theorem State.modSync_time (s : State) (k : Sync → Sync) : (s.modSync k).time = s.time := rfl
@[simp] theorem State.modSync_mem (s : State) (k : Sync → Sync) : (s.modSync k).mem = s.mem := rfl
@[simp] theorem State.modSync_work (s : State) (k : Sync → Sync) : (s.modSync k).work = s.work := rfl
@[simp] theorem State.modSync_sync (s : State) (k : Sync → Sync) : (s.modSync k).sync = k s.sync := rfl
@[simp] theorem State.modSync_fab (s : State) (k : Sync → Sync) : (s.modSync k).fab = s.fab := rfl
@[simp] theorem State.modSync_coll (s : State) (k : Sync → Sync) : (s.modSync k).coll = s.coll := rfl
@[simp] theorem State.modSync_power (s : State) (k : Sync → Sync) : (s.modSync k).power = s.power := rfl
@[simp] theorem State.modSync_fw (s : State) (k : Sync → Sync) : (s.modSync k).fw = s.fw := rfl
@[simp] theorem State.modSync_repair (s : State) (k : Sync → Sync) : (s.modSync k).repair = s.repair := rfl

@[simp] theorem State.modMem_ctl (s : State) (k : MemSys → MemSys) : (s.modMem k).ctl = s.ctl := rfl
@[simp] theorem State.modMem_cycle (s : State) (k : MemSys → MemSys) : (s.modMem k).cycle = s.cycle := rfl
@[simp] theorem State.modMem_time (s : State) (k : MemSys → MemSys) : (s.modMem k).time = s.time := rfl
@[simp] theorem State.modMem_mem (s : State) (k : MemSys → MemSys) : (s.modMem k).mem = k s.mem := rfl
@[simp] theorem State.modMem_work (s : State) (k : MemSys → MemSys) : (s.modMem k).work = s.work := rfl
@[simp] theorem State.modMem_sync (s : State) (k : MemSys → MemSys) : (s.modMem k).sync = s.sync := rfl
@[simp] theorem State.modMem_fab (s : State) (k : MemSys → MemSys) : (s.modMem k).fab = s.fab := rfl
@[simp] theorem State.modMem_coll (s : State) (k : MemSys → MemSys) : (s.modMem k).coll = s.coll := rfl
@[simp] theorem State.modMem_power (s : State) (k : MemSys → MemSys) : (s.modMem k).power = s.power := rfl
@[simp] theorem State.modMem_fw (s : State) (k : MemSys → MemSys) : (s.modMem k).fw = s.fw := rfl
@[simp] theorem State.modMem_repair (s : State) (k : MemSys → MemSys) : (s.modMem k).repair = s.repair := rfl

@[simp] theorem State.modWork_ctl (s : State) (k : Work → Work) : (s.modWork k).ctl = s.ctl := rfl
@[simp] theorem State.modWork_cycle (s : State) (k : Work → Work) : (s.modWork k).cycle = s.cycle := rfl
@[simp] theorem State.modWork_time (s : State) (k : Work → Work) : (s.modWork k).time = s.time := rfl
@[simp] theorem State.modWork_mem (s : State) (k : Work → Work) : (s.modWork k).mem = s.mem := rfl
@[simp] theorem State.modWork_work (s : State) (k : Work → Work) : (s.modWork k).work = k s.work := rfl
@[simp] theorem State.modWork_sync (s : State) (k : Work → Work) : (s.modWork k).sync = s.sync := rfl
@[simp] theorem State.modWork_fab (s : State) (k : Work → Work) : (s.modWork k).fab = s.fab := rfl
@[simp] theorem State.modWork_coll (s : State) (k : Work → Work) : (s.modWork k).coll = s.coll := rfl
@[simp] theorem State.modWork_power (s : State) (k : Work → Work) : (s.modWork k).power = s.power := rfl
@[simp] theorem State.modWork_fw (s : State) (k : Work → Work) : (s.modWork k).fw = s.fw := rfl
@[simp] theorem State.modWork_repair (s : State) (k : Work → Work) : (s.modWork k).repair = s.repair := rfl

@[simp] theorem State.modFab_ctl (s : State) (k : Fabric → Fabric) : (s.modFab k).ctl = s.ctl := rfl
@[simp] theorem State.modFab_cycle (s : State) (k : Fabric → Fabric) : (s.modFab k).cycle = s.cycle := rfl
@[simp] theorem State.modFab_time (s : State) (k : Fabric → Fabric) : (s.modFab k).time = s.time := rfl
@[simp] theorem State.modFab_mem (s : State) (k : Fabric → Fabric) : (s.modFab k).mem = s.mem := rfl
@[simp] theorem State.modFab_work (s : State) (k : Fabric → Fabric) : (s.modFab k).work = s.work := rfl
@[simp] theorem State.modFab_sync (s : State) (k : Fabric → Fabric) : (s.modFab k).sync = s.sync := rfl
@[simp] theorem State.modFab_fab (s : State) (k : Fabric → Fabric) : (s.modFab k).fab = k s.fab := rfl
@[simp] theorem State.modFab_coll (s : State) (k : Fabric → Fabric) : (s.modFab k).coll = s.coll := rfl
@[simp] theorem State.modFab_power (s : State) (k : Fabric → Fabric) : (s.modFab k).power = s.power := rfl
@[simp] theorem State.modFab_fw (s : State) (k : Fabric → Fabric) : (s.modFab k).fw = s.fw := rfl
@[simp] theorem State.modFab_repair (s : State) (k : Fabric → Fabric) : (s.modFab k).repair = s.repair := rfl

@[simp] theorem State.modColl_ctl (s : State) (k : Collectives → Collectives) : (s.modColl k).ctl = s.ctl := rfl
@[simp] theorem State.modColl_cycle (s : State) (k : Collectives → Collectives) : (s.modColl k).cycle = s.cycle := rfl
@[simp] theorem State.modColl_time (s : State) (k : Collectives → Collectives) : (s.modColl k).time = s.time := rfl
@[simp] theorem State.modColl_mem (s : State) (k : Collectives → Collectives) : (s.modColl k).mem = s.mem := rfl
@[simp] theorem State.modColl_work (s : State) (k : Collectives → Collectives) : (s.modColl k).work = s.work := rfl
@[simp] theorem State.modColl_sync (s : State) (k : Collectives → Collectives) : (s.modColl k).sync = s.sync := rfl
@[simp] theorem State.modColl_fab (s : State) (k : Collectives → Collectives) : (s.modColl k).fab = s.fab := rfl
@[simp] theorem State.modColl_coll (s : State) (k : Collectives → Collectives) : (s.modColl k).coll = k s.coll := rfl
@[simp] theorem State.modColl_power (s : State) (k : Collectives → Collectives) : (s.modColl k).power = s.power := rfl
@[simp] theorem State.modColl_fw (s : State) (k : Collectives → Collectives) : (s.modColl k).fw = s.fw := rfl
@[simp] theorem State.modColl_repair (s : State) (k : Collectives → Collectives) : (s.modColl k).repair = s.repair := rfl

@[simp] theorem State.modFw_ctl (s : State) (k : Firmware → Firmware) : (s.modFw k).ctl = s.ctl := rfl
@[simp] theorem State.modFw_cycle (s : State) (k : Firmware → Firmware) : (s.modFw k).cycle = s.cycle := rfl
@[simp] theorem State.modFw_time (s : State) (k : Firmware → Firmware) : (s.modFw k).time = s.time := rfl
@[simp] theorem State.modFw_mem (s : State) (k : Firmware → Firmware) : (s.modFw k).mem = s.mem := rfl
@[simp] theorem State.modFw_work (s : State) (k : Firmware → Firmware) : (s.modFw k).work = s.work := rfl
@[simp] theorem State.modFw_sync (s : State) (k : Firmware → Firmware) : (s.modFw k).sync = s.sync := rfl
@[simp] theorem State.modFw_fab (s : State) (k : Firmware → Firmware) : (s.modFw k).fab = s.fab := rfl
@[simp] theorem State.modFw_coll (s : State) (k : Firmware → Firmware) : (s.modFw k).coll = s.coll := rfl
@[simp] theorem State.modFw_power (s : State) (k : Firmware → Firmware) : (s.modFw k).power = s.power := rfl
@[simp] theorem State.modFw_fw (s : State) (k : Firmware → Firmware) : (s.modFw k).fw = k s.fw := rfl
@[simp] theorem State.modFw_repair (s : State) (k : Firmware → Firmware) : (s.modFw k).repair = s.repair := rfl

@[simp] theorem State.modPower_ctl (s : State) (k : Power → Power) : (s.modPower k).ctl = s.ctl := rfl
@[simp] theorem State.modPower_cycle (s : State) (k : Power → Power) : (s.modPower k).cycle = s.cycle := rfl
@[simp] theorem State.modPower_time (s : State) (k : Power → Power) : (s.modPower k).time = s.time := rfl
@[simp] theorem State.modPower_mem (s : State) (k : Power → Power) : (s.modPower k).mem = s.mem := rfl
@[simp] theorem State.modPower_work (s : State) (k : Power → Power) : (s.modPower k).work = s.work := rfl
@[simp] theorem State.modPower_sync (s : State) (k : Power → Power) : (s.modPower k).sync = s.sync := rfl
@[simp] theorem State.modPower_fab (s : State) (k : Power → Power) : (s.modPower k).fab = s.fab := rfl
@[simp] theorem State.modPower_coll (s : State) (k : Power → Power) : (s.modPower k).coll = s.coll := rfl
@[simp] theorem State.modPower_power (s : State) (k : Power → Power) : (s.modPower k).power = k s.power := rfl
@[simp] theorem State.modPower_fw (s : State) (k : Power → Power) : (s.modPower k).fw = s.fw := rfl
@[simp] theorem State.modPower_repair (s : State) (k : Power → Power) : (s.modPower k).repair = s.repair := rfl

@[simp] theorem State.modRepair_ctl (s : State) (k : Repair → Repair) : (s.modRepair k).ctl = s.ctl := rfl
@[simp] theorem State.modRepair_cycle (s : State) (k : Repair → Repair) : (s.modRepair k).cycle = s.cycle := rfl
@[simp] theorem State.modRepair_time (s : State) (k : Repair → Repair) : (s.modRepair k).time = s.time := rfl
@[simp] theorem State.modRepair_mem (s : State) (k : Repair → Repair) : (s.modRepair k).mem = s.mem := rfl
@[simp] theorem State.modRepair_work (s : State) (k : Repair → Repair) : (s.modRepair k).work = s.work := rfl
@[simp] theorem State.modRepair_sync (s : State) (k : Repair → Repair) : (s.modRepair k).sync = s.sync := rfl
@[simp] theorem State.modRepair_fab (s : State) (k : Repair → Repair) : (s.modRepair k).fab = s.fab := rfl
@[simp] theorem State.modRepair_coll (s : State) (k : Repair → Repair) : (s.modRepair k).coll = s.coll := rfl
@[simp] theorem State.modRepair_power (s : State) (k : Repair → Repair) : (s.modRepair k).power = s.power := rfl
@[simp] theorem State.modRepair_fw (s : State) (k : Repair → Repair) : (s.modRepair k).fw = s.fw := rfl
@[simp] theorem State.modRepair_repair (s : State) (k : Repair → Repair) : (s.modRepair k).repair = k s.repair := rfl

/-! ## The model's own fields -/

@[simp] theorem State.markRetired_cycle (s : State) : s.markRetired.cycle = s.cycle := rfl
@[simp] theorem State.fresh_cycle (s : State) : s.fresh.2.cycle = s.cycle := rfl
@[simp] theorem State.draw_cycle (s : State) : s.draw.2.cycle = s.cycle := rfl
@[simp] theorem State.drawN_cycle (s : State) (n : Nat) : (s.drawN n).2.cycle = s.cycle := rfl
@[simp] theorem State.markRetired_time (s : State) : s.markRetired.time = s.time := rfl
@[simp] theorem State.fresh_time (s : State) : s.fresh.2.time = s.time := rfl
@[simp] theorem State.draw_time (s : State) : s.draw.2.time = s.time := rfl
@[simp] theorem State.drawN_time (s : State) (n : Nat) : (s.drawN n).2.time = s.time := rfl
@[simp] theorem State.markRetired_mem (s : State) : s.markRetired.mem = s.mem := rfl
@[simp] theorem State.fresh_mem (s : State) : s.fresh.2.mem = s.mem := rfl
@[simp] theorem State.draw_mem (s : State) : s.draw.2.mem = s.mem := rfl
@[simp] theorem State.drawN_mem (s : State) (n : Nat) : (s.drawN n).2.mem = s.mem := rfl
@[simp] theorem State.markRetired_work (s : State) : s.markRetired.work = s.work := rfl
@[simp] theorem State.fresh_work (s : State) : s.fresh.2.work = s.work := rfl
@[simp] theorem State.draw_work (s : State) : s.draw.2.work = s.work := rfl
@[simp] theorem State.drawN_work (s : State) (n : Nat) : (s.drawN n).2.work = s.work := rfl
@[simp] theorem State.markRetired_sync (s : State) : s.markRetired.sync = s.sync := rfl
@[simp] theorem State.fresh_sync (s : State) : s.fresh.2.sync = s.sync := rfl
@[simp] theorem State.draw_sync (s : State) : s.draw.2.sync = s.sync := rfl
@[simp] theorem State.drawN_sync (s : State) (n : Nat) : (s.drawN n).2.sync = s.sync := rfl
@[simp] theorem State.markRetired_fab (s : State) : s.markRetired.fab = s.fab := rfl
@[simp] theorem State.fresh_fab (s : State) : s.fresh.2.fab = s.fab := rfl
@[simp] theorem State.draw_fab (s : State) : s.draw.2.fab = s.fab := rfl
@[simp] theorem State.drawN_fab (s : State) (n : Nat) : (s.drawN n).2.fab = s.fab := rfl
@[simp] theorem State.markRetired_coll (s : State) : s.markRetired.coll = s.coll := rfl
@[simp] theorem State.fresh_coll (s : State) : s.fresh.2.coll = s.coll := rfl
@[simp] theorem State.draw_coll (s : State) : s.draw.2.coll = s.coll := rfl
@[simp] theorem State.drawN_coll (s : State) (n : Nat) : (s.drawN n).2.coll = s.coll := rfl
@[simp] theorem State.markRetired_power (s : State) : s.markRetired.power = s.power := rfl
@[simp] theorem State.fresh_power (s : State) : s.fresh.2.power = s.power := rfl
@[simp] theorem State.draw_power (s : State) : s.draw.2.power = s.power := rfl
@[simp] theorem State.drawN_power (s : State) (n : Nat) : (s.drawN n).2.power = s.power := rfl
@[simp] theorem State.markRetired_fw (s : State) : s.markRetired.fw = s.fw := rfl
@[simp] theorem State.fresh_fw (s : State) : s.fresh.2.fw = s.fw := rfl
@[simp] theorem State.draw_fw (s : State) : s.draw.2.fw = s.fw := rfl
@[simp] theorem State.drawN_fw (s : State) (n : Nat) : (s.drawN n).2.fw = s.fw := rfl
@[simp] theorem State.markRetired_repair (s : State) : s.markRetired.repair = s.repair := rfl
@[simp] theorem State.fresh_repair (s : State) : s.fresh.2.repair = s.repair := rfl
@[simp] theorem State.draw_repair (s : State) : s.draw.2.repair = s.repair := rfl
@[simp] theorem State.drawN_repair (s : State) (n : Nat) : (s.drawN n).2.repair = s.repair := rfl
@[simp] theorem State.markRetired_agenda (s : State) : s.markRetired.ctl.agenda = s.ctl.agenda := rfl
@[simp] theorem State.markRetired_cur (s : State) : s.markRetired.ctl.cur = s.ctl.cur := rfl
@[simp] theorem State.markRetired_chainFault (s : State) : s.markRetired.ctl.chainFault = s.ctl.chainFault := rfl
@[simp] theorem State.markRetired_consuming (s : State) : s.markRetired.ctl.consuming = s.ctl.consuming := rfl
@[simp] theorem State.markRetired_inPacket (s : State) : s.markRetired.ctl.inPacket = s.ctl.inPacket := rfl
@[simp] theorem State.markRetired_waiting (s : State) : s.markRetired.ctl.waiting = s.ctl.waiting := rfl
@[simp] theorem State.markRetired_oracle (s : State) : s.markRetired.ctl.oracle = s.ctl.oracle := rfl
@[simp] theorem State.markRetired_nextId (s : State) : s.markRetired.ctl.nextId = s.ctl.nextId := rfl
@[simp] theorem State.markRetired_retired (s : State) : s.markRetired.ctl.retired = true := rfl

/-! ## Registers of a fragment -/

@[simp] theorem Frag.setV_id (f : Frag) (r : BitVec 6) (m : Mask) (k : Nat → Word) : (f.setV r m k).id = f.id := rfl
@[simp] theorem Frag.setT_id (f : Frag) (r : BitVec 2) (m : Mask) (k : Nat → BitVec 512) : (f.setT r m k).id = f.id := rfl
@[simp] theorem Frag.setA_id (f : Frag) (r : BitVec 2) (m : Mask) (k : Nat → Lanes Word) : (f.setA r m k).id = f.id := rfl
@[simp] theorem Frag.setV_warp (f : Frag) (r : BitVec 6) (m : Mask) (k : Nat → Word) : (f.setV r m k).warp = f.warp := rfl
@[simp] theorem Frag.setT_warp (f : Frag) (r : BitVec 2) (m : Mask) (k : Nat → BitVec 512) : (f.setT r m k).warp = f.warp := rfl
@[simp] theorem Frag.setA_warp (f : Frag) (r : BitVec 2) (m : Mask) (k : Nat → Lanes Word) : (f.setA r m k).warp = f.warp := rfl
@[simp] theorem Frag.setV_pc (f : Frag) (r : BitVec 6) (m : Mask) (k : Nat → Word) : (f.setV r m k).pc = f.pc := rfl
@[simp] theorem Frag.setT_pc (f : Frag) (r : BitVec 2) (m : Mask) (k : Nat → BitVec 512) : (f.setT r m k).pc = f.pc := rfl
@[simp] theorem Frag.setA_pc (f : Frag) (r : BitVec 2) (m : Mask) (k : Nat → Lanes Word) : (f.setA r m k).pc = f.pc := rfl
@[simp] theorem Frag.setV_mask (f : Frag) (r : BitVec 6) (m : Mask) (k : Nat → Word) : (f.setV r m k).mask = f.mask := rfl
@[simp] theorem Frag.setT_mask (f : Frag) (r : BitVec 2) (m : Mask) (k : Nat → BitVec 512) : (f.setT r m k).mask = f.mask := rfl
@[simp] theorem Frag.setA_mask (f : Frag) (r : BitVec 2) (m : Mask) (k : Nat → Lanes Word) : (f.setA r m k).mask = f.mask := rfl
@[simp] theorem Frag.setT_v (f : Frag) (r : BitVec 2) (m : Mask) (k : Nat → BitVec 512) : (f.setT r m k).v = f.v := rfl
@[simp] theorem Frag.setA_v (f : Frag) (r : BitVec 2) (m : Mask) (k : Nat → Lanes Word) : (f.setA r m k).v = f.v := rfl
@[simp] theorem Frag.setV_u (f : Frag) (r : BitVec 6) (m : Mask) (k : Nat → Word) : (f.setV r m k).u = f.u := rfl
@[simp] theorem Frag.setT_u (f : Frag) (r : BitVec 2) (m : Mask) (k : Nat → BitVec 512) : (f.setT r m k).u = f.u := rfl
@[simp] theorem Frag.setA_u (f : Frag) (r : BitVec 2) (m : Mask) (k : Nat → Lanes Word) : (f.setA r m k).u = f.u := rfl
@[simp] theorem Frag.setV_p (f : Frag) (r : BitVec 6) (m : Mask) (k : Nat → Word) : (f.setV r m k).p = f.p := rfl
@[simp] theorem Frag.setT_p (f : Frag) (r : BitVec 2) (m : Mask) (k : Nat → BitVec 512) : (f.setT r m k).p = f.p := rfl
@[simp] theorem Frag.setA_p (f : Frag) (r : BitVec 2) (m : Mask) (k : Nat → Lanes Word) : (f.setA r m k).p = f.p := rfl
@[simp] theorem Frag.setV_t (f : Frag) (r : BitVec 6) (m : Mask) (k : Nat → Word) : (f.setV r m k).t = f.t := rfl
@[simp] theorem Frag.setA_t (f : Frag) (r : BitVec 2) (m : Mask) (k : Nat → Lanes Word) : (f.setA r m k).t = f.t := rfl
@[simp] theorem Frag.setV_acc (f : Frag) (r : BitVec 6) (m : Mask) (k : Nat → Word) : (f.setV r m k).acc = f.acc := rfl
@[simp] theorem Frag.setT_acc (f : Frag) (r : BitVec 2) (m : Mask) (k : Nat → BitVec 512) : (f.setT r m k).acc = f.acc := rfl
@[simp] theorem Frag.setV_fflags (f : Frag) (r : BitVec 6) (m : Mask) (k : Nat → Word) : (f.setV r m k).fflags = f.fflags := rfl
@[simp] theorem Frag.setT_fflags (f : Frag) (r : BitVec 2) (m : Mask) (k : Nat → BitVec 512) : (f.setT r m k).fflags = f.fflags := rfl
@[simp] theorem Frag.setA_fflags (f : Frag) (r : BitVec 2) (m : Mask) (k : Nat → Lanes Word) : (f.setA r m k).fflags = f.fflags := rfl
@[simp] theorem Frag.setV_mflags (f : Frag) (r : BitVec 6) (m : Mask) (k : Nat → Word) : (f.setV r m k).mflags = f.mflags := rfl
@[simp] theorem Frag.setT_mflags (f : Frag) (r : BitVec 2) (m : Mask) (k : Nat → BitVec 512) : (f.setT r m k).mflags = f.mflags := rfl
@[simp] theorem Frag.setA_mflags (f : Frag) (r : BitVec 2) (m : Mask) (k : Nat → Lanes Word) : (f.setA r m k).mflags = f.mflags := rfl
@[simp] theorem Frag.setV_run (f : Frag) (r : BitVec 6) (m : Mask) (k : Nat → Word) : (f.setV r m k).run = f.run := rfl
@[simp] theorem Frag.setT_run (f : Frag) (r : BitVec 2) (m : Mask) (k : Nat → BitVec 512) : (f.setT r m k).run = f.run := rfl
@[simp] theorem Frag.setA_run (f : Frag) (r : BitVec 2) (m : Mask) (k : Nat → Lanes Word) : (f.setA r m k).run = f.run := rfl
@[simp] theorem Frag.setV_handler (f : Frag) (r : BitVec 6) (m : Mask) (k : Nat → Word) : (f.setV r m k).handler = f.handler := rfl
@[simp] theorem Frag.setT_handler (f : Frag) (r : BitVec 2) (m : Mask) (k : Nat → BitVec 512) : (f.setT r m k).handler = f.handler := rfl
@[simp] theorem Frag.setA_handler (f : Frag) (r : BitVec 2) (m : Mask) (k : Nat → Lanes Word) : (f.setA r m k).handler = f.handler := rfl
@[simp] theorem Frag.setV_isSplit (f : Frag) (r : BitVec 6) (m : Mask) (k : Nat → Word) : (f.setV r m k).isSplit = f.isSplit := rfl
@[simp] theorem Frag.setT_isSplit (f : Frag) (r : BitVec 2) (m : Mask) (k : Nat → BitVec 512) : (f.setT r m k).isSplit = f.isSplit := rfl
@[simp] theorem Frag.setA_isSplit (f : Frag) (r : BitVec 2) (m : Mask) (k : Nat → Lanes Word) : (f.setA r m k).isSplit = f.isSplit := rfl
@[simp] theorem Frag.setV_splitFrom (f : Frag) (r : BitVec 6) (m : Mask) (k : Nat → Word) : (f.setV r m k).splitFrom = f.splitFrom := rfl
@[simp] theorem Frag.setT_splitFrom (f : Frag) (r : BitVec 2) (m : Mask) (k : Nat → BitVec 512) : (f.setT r m k).splitFrom = f.splitFrom := rfl
@[simp] theorem Frag.setA_splitFrom (f : Frag) (r : BitVec 2) (m : Mask) (k : Nat → Lanes Word) : (f.setA r m k).splitFrom = f.splitFrom := rfl
@[simp] theorem Frag.setV_dispatched (f : Frag) (r : BitVec 6) (m : Mask) (k : Nat → Word) : (f.setV r m k).dispatched = f.dispatched := rfl
@[simp] theorem Frag.setT_dispatched (f : Frag) (r : BitVec 2) (m : Mask) (k : Nat → BitVec 512) : (f.setT r m k).dispatched = f.dispatched := rfl
@[simp] theorem Frag.setA_dispatched (f : Frag) (r : BitVec 2) (m : Mask) (k : Nat → Lanes Word) : (f.setA r m k).dispatched = f.dispatched := rfl
@[simp] theorem Frag.setV_subst (f : Frag) (r : BitVec 6) (m : Mask) (k : Nat → Word) : (f.setV r m k).subst = f.subst := rfl
@[simp] theorem Frag.setT_subst (f : Frag) (r : BitVec 2) (m : Mask) (k : Nat → BitVec 512) : (f.setT r m k).subst = f.subst := rfl
@[simp] theorem Frag.setA_subst (f : Frag) (r : BitVec 2) (m : Mask) (k : Nat → Lanes Word) : (f.setA r m k).subst = f.subst := rfl
@[simp] theorem Frag.setV_arrived (f : Frag) (r : BitVec 6) (m : Mask) (k : Nat → Word) : (f.setV r m k).arrived = f.arrived := rfl
@[simp] theorem Frag.setT_arrived (f : Frag) (r : BitVec 2) (m : Mask) (k : Nat → BitVec 512) : (f.setT r m k).arrived = f.arrived := rfl
@[simp] theorem Frag.setA_arrived (f : Frag) (r : BitVec 2) (m : Mask) (k : Nat → Lanes Word) : (f.setA r m k).arrived = f.arrived := rfl
@[simp] theorem Frag.setV_replies (f : Frag) (r : BitVec 6) (m : Mask) (k : Nat → Word) : (f.setV r m k).replies = f.replies := rfl
@[simp] theorem Frag.setT_replies (f : Frag) (r : BitVec 2) (m : Mask) (k : Nat → BitVec 512) : (f.setT r m k).replies = f.replies := rfl
@[simp] theorem Frag.setA_replies (f : Frag) (r : BitVec 2) (m : Mask) (k : Nat → Lanes Word) : (f.setA r m k).replies = f.replies := rfl
@[simp] theorem Frag.setV_kept (f : Frag) (r : BitVec 6) (m : Mask) (k : Nat → Word) : (f.setV r m k).kept = f.kept := rfl
@[simp] theorem Frag.setT_kept (f : Frag) (r : BitVec 2) (m : Mask) (k : Nat → BitVec 512) : (f.setT r m k).kept = f.kept := rfl
@[simp] theorem Frag.setA_kept (f : Frag) (r : BitVec 2) (m : Mask) (k : Nat → Lanes Word) : (f.setA r m k).kept = f.kept := rfl
@[simp] theorem Frag.setV_relSent (f : Frag) (r : BitVec 6) (m : Mask) (k : Nat → Word) : (f.setV r m k).relSent = f.relSent := rfl
@[simp] theorem Frag.setT_relSent (f : Frag) (r : BitVec 2) (m : Mask) (k : Nat → BitVec 512) : (f.setT r m k).relSent = f.relSent := rfl
@[simp] theorem Frag.setA_relSent (f : Frag) (r : BitVec 2) (m : Mask) (k : Nat → Lanes Word) : (f.setA r m k).relSent = f.relSent := rfl
@[simp] theorem Frag.setV_emptyWait (f : Frag) (r : BitVec 6) (m : Mask) (k : Nat → Word) : (f.setV r m k).emptyWait = f.emptyWait := rfl
@[simp] theorem Frag.setV_relPaid (f : Frag) (r : BitVec 6) (m : Mask) (k : Nat → Word) : (f.setV r m k).relPaid = f.relPaid := rfl
@[simp] theorem Frag.setT_emptyWait (f : Frag) (r : BitVec 2) (m : Mask) (k : Nat → BitVec 512) : (f.setT r m k).emptyWait = f.emptyWait := rfl
@[simp] theorem Frag.setT_relPaid (f : Frag) (r : BitVec 2) (m : Mask) (k : Nat → BitVec 512) : (f.setT r m k).relPaid = f.relPaid := rfl
@[simp] theorem Frag.setA_emptyWait (f : Frag) (r : BitVec 2) (m : Mask) (k : Nat → Lanes Word) : (f.setA r m k).emptyWait = f.emptyWait := rfl
@[simp] theorem Frag.setA_relPaid (f : Frag) (r : BitVec 2) (m : Mask) (k : Nat → Lanes Word) : (f.setA r m k).relPaid = f.relPaid := rfl
@[simp] theorem Frag.setU_id (f : Frag) (r : BitVec 6) (y : DWord) : (f.setU r y).id = f.id := by
  unfold Frag.setU; split <;> rfl
@[simp] theorem Frag.setP_id (f : Frag) (r : BitVec 3) (m y : Mask) : (f.setP r m y).id = f.id := by
  unfold Frag.setP; split <;> rfl
@[simp] theorem Frag.setU_warp (f : Frag) (r : BitVec 6) (y : DWord) : (f.setU r y).warp = f.warp := by
  unfold Frag.setU; split <;> rfl
@[simp] theorem Frag.setP_warp (f : Frag) (r : BitVec 3) (m y : Mask) : (f.setP r m y).warp = f.warp := by
  unfold Frag.setP; split <;> rfl
@[simp] theorem Frag.setU_pc (f : Frag) (r : BitVec 6) (y : DWord) : (f.setU r y).pc = f.pc := by
  unfold Frag.setU; split <;> rfl
@[simp] theorem Frag.setP_pc (f : Frag) (r : BitVec 3) (m y : Mask) : (f.setP r m y).pc = f.pc := by
  unfold Frag.setP; split <;> rfl
@[simp] theorem Frag.setU_mask (f : Frag) (r : BitVec 6) (y : DWord) : (f.setU r y).mask = f.mask := by
  unfold Frag.setU; split <;> rfl
@[simp] theorem Frag.setP_mask (f : Frag) (r : BitVec 3) (m y : Mask) : (f.setP r m y).mask = f.mask := by
  unfold Frag.setP; split <;> rfl
@[simp] theorem Frag.setU_v (f : Frag) (r : BitVec 6) (y : DWord) : (f.setU r y).v = f.v := by
  unfold Frag.setU; split <;> rfl
@[simp] theorem Frag.setP_v (f : Frag) (r : BitVec 3) (m y : Mask) : (f.setP r m y).v = f.v := by
  unfold Frag.setP; split <;> rfl
@[simp] theorem Frag.setP_u (f : Frag) (r : BitVec 3) (m y : Mask) : (f.setP r m y).u = f.u := by
  unfold Frag.setP; split <;> rfl
@[simp] theorem Frag.setU_p (f : Frag) (r : BitVec 6) (y : DWord) : (f.setU r y).p = f.p := by
  unfold Frag.setU; split <;> rfl
@[simp] theorem Frag.setU_t (f : Frag) (r : BitVec 6) (y : DWord) : (f.setU r y).t = f.t := by
  unfold Frag.setU; split <;> rfl
@[simp] theorem Frag.setP_t (f : Frag) (r : BitVec 3) (m y : Mask) : (f.setP r m y).t = f.t := by
  unfold Frag.setP; split <;> rfl
@[simp] theorem Frag.setU_acc (f : Frag) (r : BitVec 6) (y : DWord) : (f.setU r y).acc = f.acc := by
  unfold Frag.setU; split <;> rfl
@[simp] theorem Frag.setP_acc (f : Frag) (r : BitVec 3) (m y : Mask) : (f.setP r m y).acc = f.acc := by
  unfold Frag.setP; split <;> rfl
@[simp] theorem Frag.setU_fflags (f : Frag) (r : BitVec 6) (y : DWord) : (f.setU r y).fflags = f.fflags := by
  unfold Frag.setU; split <;> rfl
@[simp] theorem Frag.setP_fflags (f : Frag) (r : BitVec 3) (m y : Mask) : (f.setP r m y).fflags = f.fflags := by
  unfold Frag.setP; split <;> rfl
@[simp] theorem Frag.setU_mflags (f : Frag) (r : BitVec 6) (y : DWord) : (f.setU r y).mflags = f.mflags := by
  unfold Frag.setU; split <;> rfl
@[simp] theorem Frag.setP_mflags (f : Frag) (r : BitVec 3) (m y : Mask) : (f.setP r m y).mflags = f.mflags := by
  unfold Frag.setP; split <;> rfl
@[simp] theorem Frag.setU_run (f : Frag) (r : BitVec 6) (y : DWord) : (f.setU r y).run = f.run := by
  unfold Frag.setU; split <;> rfl
@[simp] theorem Frag.setP_run (f : Frag) (r : BitVec 3) (m y : Mask) : (f.setP r m y).run = f.run := by
  unfold Frag.setP; split <;> rfl
@[simp] theorem Frag.setU_handler (f : Frag) (r : BitVec 6) (y : DWord) : (f.setU r y).handler = f.handler := by
  unfold Frag.setU; split <;> rfl
@[simp] theorem Frag.setP_handler (f : Frag) (r : BitVec 3) (m y : Mask) : (f.setP r m y).handler = f.handler := by
  unfold Frag.setP; split <;> rfl
@[simp] theorem Frag.setU_isSplit (f : Frag) (r : BitVec 6) (y : DWord) : (f.setU r y).isSplit = f.isSplit := by
  unfold Frag.setU; split <;> rfl
@[simp] theorem Frag.setP_isSplit (f : Frag) (r : BitVec 3) (m y : Mask) : (f.setP r m y).isSplit = f.isSplit := by
  unfold Frag.setP; split <;> rfl
@[simp] theorem Frag.setU_splitFrom (f : Frag) (r : BitVec 6) (y : DWord) : (f.setU r y).splitFrom = f.splitFrom := by
  unfold Frag.setU; split <;> rfl
@[simp] theorem Frag.setP_splitFrom (f : Frag) (r : BitVec 3) (m y : Mask) : (f.setP r m y).splitFrom = f.splitFrom := by
  unfold Frag.setP; split <;> rfl
@[simp] theorem Frag.setU_dispatched (f : Frag) (r : BitVec 6) (y : DWord) : (f.setU r y).dispatched = f.dispatched := by
  unfold Frag.setU; split <;> rfl
@[simp] theorem Frag.setP_dispatched (f : Frag) (r : BitVec 3) (m y : Mask) : (f.setP r m y).dispatched = f.dispatched := by
  unfold Frag.setP; split <;> rfl
@[simp] theorem Frag.setU_subst (f : Frag) (r : BitVec 6) (y : DWord) : (f.setU r y).subst = f.subst := by
  unfold Frag.setU; split <;> rfl
@[simp] theorem Frag.setP_subst (f : Frag) (r : BitVec 3) (m y : Mask) : (f.setP r m y).subst = f.subst := by
  unfold Frag.setP; split <;> rfl
@[simp] theorem Frag.setU_arrived (f : Frag) (r : BitVec 6) (y : DWord) : (f.setU r y).arrived = f.arrived := by
  unfold Frag.setU; split <;> rfl
@[simp] theorem Frag.setP_arrived (f : Frag) (r : BitVec 3) (m y : Mask) : (f.setP r m y).arrived = f.arrived := by
  unfold Frag.setP; split <;> rfl
@[simp] theorem Frag.setU_replies (f : Frag) (r : BitVec 6) (y : DWord) : (f.setU r y).replies = f.replies := by
  unfold Frag.setU; split <;> rfl
@[simp] theorem Frag.setP_replies (f : Frag) (r : BitVec 3) (m y : Mask) : (f.setP r m y).replies = f.replies := by
  unfold Frag.setP; split <;> rfl
@[simp] theorem Frag.setU_kept (f : Frag) (r : BitVec 6) (y : DWord) : (f.setU r y).kept = f.kept := by
  unfold Frag.setU; split <;> rfl
@[simp] theorem Frag.setP_kept (f : Frag) (r : BitVec 3) (m y : Mask) : (f.setP r m y).kept = f.kept := by
  unfold Frag.setP; split <;> rfl
@[simp] theorem Frag.setU_relSent (f : Frag) (r : BitVec 6) (y : DWord) : (f.setU r y).relSent = f.relSent := by
  unfold Frag.setU; split <;> rfl
@[simp] theorem Frag.setP_relSent (f : Frag) (r : BitVec 3) (m y : Mask) : (f.setP r m y).relSent = f.relSent := by
  unfold Frag.setP; split <;> rfl
@[simp] theorem Frag.setU_emptyWait (f : Frag) (r : BitVec 6) (y : DWord) : (f.setU r y).emptyWait = f.emptyWait := by
  unfold Frag.setU; split <;> rfl
@[simp] theorem Frag.setU_relPaid (f : Frag) (r : BitVec 6) (y : DWord) : (f.setU r y).relPaid = f.relPaid := by
  unfold Frag.setU; split <;> rfl
@[simp] theorem Frag.setP_emptyWait (f : Frag) (r : BitVec 3) (m y : Mask) : (f.setP r m y).emptyWait = f.emptyWait := by
  unfold Frag.setP; split <;> rfl
@[simp] theorem Frag.setP_relPaid (f : Frag) (r : BitVec 3) (m y : Mask) : (f.setP r m y).relPaid = f.relPaid := by
  unfold Frag.setP; split <;> rfl
@[simp] theorem substitute_id (c : Ctx) (f : Frag) : (substitute c f).id = f.id := by
  unfold substitute; split
  · rfl
  · split <;> simp
@[simp] theorem substitute_warp (c : Ctx) (f : Frag) : (substitute c f).warp = f.warp := by
  unfold substitute; split
  · rfl
  · split <;> simp
@[simp] theorem substitute_mask (c : Ctx) (f : Frag) : (substitute c f).mask = f.mask := by
  unfold substitute; split
  · rfl
  · split <;> simp
@[simp] theorem substitute_u (c : Ctx) (f : Frag) : (substitute c f).u = f.u := by
  unfold substitute; split
  · rfl
  · split <;> simp
@[simp] theorem substitute_t (c : Ctx) (f : Frag) : (substitute c f).t = f.t := by
  unfold substitute; split
  · rfl
  · split <;> simp
@[simp] theorem substitute_acc (c : Ctx) (f : Frag) : (substitute c f).acc = f.acc := by
  unfold substitute; split
  · rfl
  · split <;> simp
@[simp] theorem substitute_fflags (c : Ctx) (f : Frag) : (substitute c f).fflags = f.fflags := by
  unfold substitute; split
  · rfl
  · split <;> simp
@[simp] theorem substitute_mflags (c : Ctx) (f : Frag) : (substitute c f).mflags = f.mflags := by
  unfold substitute; split
  · rfl
  · split <;> simp
@[simp] theorem substitute_handler (c : Ctx) (f : Frag) : (substitute c f).handler = f.handler := by
  unfold substitute; split
  · rfl
  · split <;> simp
@[simp] theorem substitute_isSplit (c : Ctx) (f : Frag) : (substitute c f).isSplit = f.isSplit := by
  unfold substitute; split
  · rfl
  · split <;> simp
@[simp] theorem substitute_splitFrom (c : Ctx) (f : Frag) : (substitute c f).splitFrom = f.splitFrom := by
  unfold substitute; split
  · rfl
  · split <;> simp
@[simp] theorem substitute_dispatched (c : Ctx) (f : Frag) : (substitute c f).dispatched = f.dispatched := by
  unfold substitute; split
  · rfl
  · split <;> simp
@[simp] theorem finish_id (c : Ctx) (f : Frag) (a : DWord) : (finish c f a).id = f.id := substitute_id c f
@[simp] theorem finish_warp (c : Ctx) (f : Frag) (a : DWord) : (finish c f a).warp = f.warp := substitute_warp c f
@[simp] theorem finish_mask (c : Ctx) (f : Frag) (a : DWord) : (finish c f a).mask = f.mask := substitute_mask c f
@[simp] theorem finish_u (c : Ctx) (f : Frag) (a : DWord) : (finish c f a).u = f.u := substitute_u c f
@[simp] theorem finish_t (c : Ctx) (f : Frag) (a : DWord) : (finish c f a).t = f.t := substitute_t c f
@[simp] theorem finish_acc (c : Ctx) (f : Frag) (a : DWord) : (finish c f a).acc = f.acc := substitute_acc c f
@[simp] theorem finish_fflags (c : Ctx) (f : Frag) (a : DWord) : (finish c f a).fflags = f.fflags := substitute_fflags c f
@[simp] theorem finish_mflags (c : Ctx) (f : Frag) (a : DWord) : (finish c f a).mflags = f.mflags := substitute_mflags c f
@[simp] theorem finish_handler (c : Ctx) (f : Frag) (a : DWord) : (finish c f a).handler = f.handler := substitute_handler c f
@[simp] theorem finish_isSplit (c : Ctx) (f : Frag) (a : DWord) : (finish c f a).isSplit = f.isSplit := substitute_isSplit c f
@[simp] theorem finish_splitFrom (c : Ctx) (f : Frag) (a : DWord) : (finish c f a).splitFrom = f.splitFrom := substitute_splitFrom c f
@[simp] theorem finish_dispatched (c : Ctx) (f : Frag) (a : DWord) : (finish c f a).dispatched = f.dispatched := substitute_dispatched c f
@[simp] theorem finish_pc (c : Ctx) (f : Frag) (a : DWord) : (finish c f a).pc = a := rfl
@[simp] theorem finish_subst (c : Ctx) (f : Frag) (a : DWord) : (finish c f a).subst = none := rfl
@[simp] theorem finish_arrived (c : Ctx) (f : Frag) (a : DWord) : (finish c f a).arrived = none := rfl
@[simp] theorem finish_replies (c : Ctx) (f : Frag) (a : DWord) : (finish c f a).replies = [] := rfl
@[simp] theorem finish_kept (c : Ctx) (f : Frag) (a : DWord) : (finish c f a).kept = [] := rfl
@[simp] theorem finish_relSent (c : Ctx) (f : Frag) (a : DWord) : (finish c f a).relSent = false := rfl
@[simp] theorem finish_relPaid (c : Ctx) (f : Frag) (a : DWord) : (finish c f a).relPaid = [] := rfl
@[simp] theorem finish_emptyWait (c : Ctx) (f : Frag) (a : DWord) : (finish c f a).emptyWait = 0 := rfl
@[simp] theorem finish_run (c : Ctx) (f : Frag) (a : DWord) : (finish c f a).run = .ready := rfl

/-! ## Lookups after an update -/

theorem find?_updWhere {α : Type} (key : α → Nat) (k i : Nat) (x : α) (l : List α) (hx : key x = k) :
    (updWhere (fun y => key y == k) (fun _ => x) l).find? (fun y => key y == i)
      = if i = k then (l.find? (fun y => key y == k)).map (fun _ => x) else l.find? (fun y => key y == i) := by
  induction l with
  | nil => by_cases h : i = k <;> simp [updWhere, h]
  | cons y ys ih =>
      simp only [updWhere, List.map_cons] at ih ⊢
      by_cases hy : key y = k
      · by_cases hi : i = k
        · simp [hy, hx, hi]
        · have hki : ¬ k = i := fun e => hi e.symm
          simp [hy, hx, hi, hki] at ih ⊢
          exact ih
      · by_cases hi : i = k
        · simp [hy, hi] at ih ⊢
          exact ih
        · by_cases hyi : key y = i
          · simp [hy, hi, hyi]
          · simp [hy, hi, hyi] at ih ⊢
            exact ih

/-- The row found after it was replaced. -/
theorem State.frag_setFrag (s : State) (f : Frag) (i : Nat) :
    (s.setFrag f).frag? i = if i = f.id then (s.frag? f.id).map (fun _ => f) else s.frag? i :=
  find?_updWhere (fun x : Frag => x.id) f.id i f s.work.frags rfl

@[simp] theorem State.warp_setFrag (s : State) (f : Frag) (i : Nat) : (s.setFrag f).warp? i = s.warp? i := rfl
@[simp] theorem State.block_setFrag (s : State) (f : Frag) (i : Nat) : (s.setFrag f).block? i = s.block? i := rfl
@[simp] theorem State.grid_setFrag (s : State) (f : Frag) (i : Nat) : (s.setFrag f).grid? i = s.grid? i := rfl
@[simp] theorem State.job_setFrag (s : State) (f : Frag) (i : BitVec 16) : (s.setFrag f).job? i = s.job? i := rfl
@[simp] theorem State.queue_setFrag (s : State) (f : Frag) (i : BitVec 12) : (s.setFrag f).queue? i = s.queue? i := rfl
@[simp] theorem State.group_setFrag (s : State) (f : Frag) (i : BitVec 12) : (s.setFrag f).group? i = s.group? i := rfl
@[simp] theorem State.pan_setFrag (s : State) (f : Frag) (i : Nat) : (s.setFrag f).pan? i = s.pan? i := rfl
/-- The row found after it was replaced. -/
theorem State.warp_setWarp (s : State) (w : Warp) (i : Nat) :
    (s.setWarp w).warp? i = if i = w.id then (s.warp? w.id).map (fun _ => w) else s.warp? i :=
  find?_updWhere (fun x : Warp => x.id) w.id i w s.work.warps rfl

@[simp] theorem State.frag_setWarp (s : State) (w : Warp) (i : Nat) : (s.setWarp w).frag? i = s.frag? i := rfl
@[simp] theorem State.block_setWarp (s : State) (w : Warp) (i : Nat) : (s.setWarp w).block? i = s.block? i := rfl
@[simp] theorem State.grid_setWarp (s : State) (w : Warp) (i : Nat) : (s.setWarp w).grid? i = s.grid? i := rfl
@[simp] theorem State.job_setWarp (s : State) (w : Warp) (i : BitVec 16) : (s.setWarp w).job? i = s.job? i := rfl
@[simp] theorem State.queue_setWarp (s : State) (w : Warp) (i : BitVec 12) : (s.setWarp w).queue? i = s.queue? i := rfl
@[simp] theorem State.group_setWarp (s : State) (w : Warp) (i : BitVec 12) : (s.setWarp w).group? i = s.group? i := rfl
@[simp] theorem State.pan_setWarp (s : State) (w : Warp) (i : Nat) : (s.setWarp w).pan? i = s.pan? i := rfl
/-- The row found after it was replaced. -/
theorem State.block_setBlock (s : State) (b : Block) (i : Nat) :
    (s.setBlock b).block? i = if i = b.id then (s.block? b.id).map (fun _ => b) else s.block? i :=
  find?_updWhere (fun x : Block => x.id) b.id i b s.work.blocks rfl

@[simp] theorem State.frag_setBlock (s : State) (b : Block) (i : Nat) : (s.setBlock b).frag? i = s.frag? i := rfl
@[simp] theorem State.warp_setBlock (s : State) (b : Block) (i : Nat) : (s.setBlock b).warp? i = s.warp? i := rfl
@[simp] theorem State.grid_setBlock (s : State) (b : Block) (i : Nat) : (s.setBlock b).grid? i = s.grid? i := rfl
@[simp] theorem State.job_setBlock (s : State) (b : Block) (i : BitVec 16) : (s.setBlock b).job? i = s.job? i := rfl
@[simp] theorem State.queue_setBlock (s : State) (b : Block) (i : BitVec 12) : (s.setBlock b).queue? i = s.queue? i := rfl
@[simp] theorem State.group_setBlock (s : State) (b : Block) (i : BitVec 12) : (s.setBlock b).group? i = s.group? i := rfl
@[simp] theorem State.pan_setBlock (s : State) (b : Block) (i : Nat) : (s.setBlock b).pan? i = s.pan? i := rfl
/-- The row found after it was replaced. -/
theorem State.grid_setGrid (s : State) (g : Grid) (i : Nat) :
    (s.setGrid g).grid? i = if i = g.key then (s.grid? g.key).map (fun _ => g) else s.grid? i :=
  find?_updWhere (fun x : Grid => x.key) g.key i g s.work.grids rfl

@[simp] theorem State.frag_setGrid (s : State) (g : Grid) (i : Nat) : (s.setGrid g).frag? i = s.frag? i := rfl
@[simp] theorem State.warp_setGrid (s : State) (g : Grid) (i : Nat) : (s.setGrid g).warp? i = s.warp? i := rfl
@[simp] theorem State.block_setGrid (s : State) (g : Grid) (i : Nat) : (s.setGrid g).block? i = s.block? i := rfl
@[simp] theorem State.job_setGrid (s : State) (g : Grid) (i : BitVec 16) : (s.setGrid g).job? i = s.job? i := rfl
@[simp] theorem State.queue_setGrid (s : State) (g : Grid) (i : BitVec 12) : (s.setGrid g).queue? i = s.queue? i := rfl
@[simp] theorem State.group_setGrid (s : State) (g : Grid) (i : BitVec 12) : (s.setGrid g).group? i = s.group? i := rfl
@[simp] theorem State.pan_setGrid (s : State) (g : Grid) (i : Nat) : (s.setGrid g).pan? i = s.pan? i := rfl
@[simp] theorem State.frag_markRetired (s : State) (i : Nat) : s.markRetired.frag? i = s.frag? i := rfl
@[simp] theorem State.warp_markRetired (s : State) (i : Nat) : s.markRetired.warp? i = s.warp? i := rfl
@[simp] theorem State.block_markRetired (s : State) (i : Nat) : s.markRetired.block? i = s.block? i := rfl
@[simp] theorem State.grid_markRetired (s : State) (i : Nat) : s.markRetired.grid? i = s.grid? i := rfl
@[simp] theorem State.job_markRetired (s : State) (i : BitVec 16) : s.markRetired.job? i = s.job? i := rfl
@[simp] theorem State.queue_markRetired (s : State) (i : BitVec 12) : s.markRetired.queue? i = s.queue? i := rfl
@[simp] theorem State.group_markRetired (s : State) (i : BitVec 12) : s.markRetired.group? i = s.group? i := rfl
@[simp] theorem State.pan_markRetired (s : State) (i : Nat) : s.markRetired.pan? i = s.pan? i := rfl

end Sys2Proof.Machine
end

