-- ==== Sys2Proof/Laws/Issue.lean ====
section
/-! SUPPORT. What issuing and retiring an instruction can do: the meanings of the fetched instructions are continuations of
`issueWhen`, and end in `Ctx.retire`, `Ctx.retireIn` or a trap. -/

namespace Sys2Proof.Machine

open Sys2Proof

/-- The instruction runs: a fragment executes, its registers exist, and neither a chain fault nor an error of its
registers is pending. -/
theorem issueWhen_run {s : State} {f : Frag} {w : Warp} {b : Block} {g : Grid} (hc : s.current? = some (f, w, b, g)) (hf : s.ctl.chainFault = false)
    (hn : s.ctl.consuming = none)
    {words : Nat} {h : Head} {dst : Dst} {uses : List Use} {legal : Ctx → Bool} {k : Ctx → Out} (hd : dst.ok b.kernel = true)
    (hu : ∀ x ∈ uses, x.ok b.kernel = true) (hl : legal ⟨s, f, w, b, g, activeMask f h, dst, words⟩ = true) :
    issueWhen s words h dst uses legal k = k ⟨s, f, w, b, g, activeMask f h, dst, words⟩ := by
  have : uses.all (Use.ok b.kernel) = true := List.all_eq_true.mpr hu
  simp [issueWhen, hc, hf, hd, hl, this, Ctx.errorUnits, hn]

theorem issue_run {s : State} {f : Frag} {w : Warp} {b : Block} {g : Grid} (hc : s.current? = some (f, w, b, g)) (hf : s.ctl.chainFault = false)
    (hn : s.ctl.consuming = none)
    {words : Nat} {h : Head} {dst : Dst} {uses : List Use} {k : Ctx → Out} (hd : dst.ok b.kernel = true) (hu : ∀ x ∈ uses, x.ok b.kernel = true) :
    issue s words h dst uses k = k ⟨s, f, w, b, g, activeMask f h, dst, words⟩ := issueWhen_run hc hf hn hd hu rfl

theorem issueU_run {s : State} {f : Frag} {w : Warp} {b : Block} {g : Grid} (hc : s.current? = some (f, w, b, g)) (hf : s.ctl.chainFault = false)
    (hn : s.ctl.consuming = none)
    {words : Nat} {ch : Bool} {dst : Dst} {uses : List Use} {k : Ctx → Out} (hd : dst.ok b.kernel = true) (hu : ∀ x ∈ uses, x.ok b.kernel = true) :
    issueU s words ch dst uses k = k ⟨s, f, w, b, g, activeMask f (uni ch), dst, words⟩ := issue_run hc hf hn hd hu

/-- Everything that issue can do: no fragment executes, it traps ILLEGAL_OP or ILLEGAL_CHAIN, it consumes an error of its
registers, or the instruction runs. -/
theorem issueWhen_cases (s : State) (words : Nat) (h : Head) (dst : Dst) (uses : List Use) (legal : Ctx → Bool) (k : Ctx → Out) :
    (s.current? = none ∧ issueWhen s words h dst uses legal k = .fault .noFragment)
    ∨ ∃ f w b g, s.current? = some (f, w, b, g) ∧
      (issueWhen s words h dst uses legal k = Ctx.trap ⟨s, f, w, b, g, activeMask f h, dst, words⟩ .illegalOp f.mask
      ∨ issueWhen s words h dst uses legal k = Ctx.trap ⟨s, f, w, b, g, activeMask f h, dst, words⟩ .illegalChain f.mask
      ∨ issueWhen s words h dst uses legal k = .next (Ctx.consumed ⟨s, f, w, b, g, activeMask f h, dst, words⟩ (readsRegs h uses))
      ∨ issueWhen s words h dst uses legal k = k ⟨s, f, w, b, g, activeMask f h, dst, words⟩) := by
  unfold issueWhen
  cases hc : s.current? with
  | none => exact .inl ⟨rfl, rfl⟩
  | some x =>
    obtain ⟨f, w, b, g⟩ := x
    refine .inr ⟨f, w, b, g, rfl, ?_⟩
    dsimp only
    split
    · exact .inl rfl
    · split
      · exact .inr (.inl rfl)
      · split
        · exact .inr (.inr (.inl rfl))
        · exact .inr (.inr (.inr rfl))

/-- A retired instruction changes the state only in its fragment and in the mark for the step. -/
theorem retireIn_next {c : Ctx} {s t : State} {f : Frag} (h : c.retireIn s f = .next t) :
    t = (s.setFrag (finish c f (c.f.pc + BitVec.ofNat 64 (4 * c.words)))).markRetired := (Host.Outcome.next.inj h).symm

theorem retire_next {c : Ctx} {t : State} {f : Frag} (h : c.retire f = .next t) :
    t = (c.s.setFrag (finish c f (c.f.pc + BitVec.ofNat 64 (4 * c.words)))).markRetired := retireIn_next h

theorem finish_plain {c : Ctx} (f : Frag) (pc : DWord) (h : c.f.subst = none) :
    finish c f pc = { f with pc, subst := none, arrived := none, replies := [], kept := [], relSent := false, relPaid := [], emptyWait := 0, run := .ready } := by
  simp [finish, substitute, h]

theorem vecOk_one {k : Kernel} {d : BitVec 6} (h : d.toNat < k.vreg) : vecOk k d 1 = true := by simp [vecOk]; omega
theorem uniOk_of {k : Kernel} {d : BitVec 6} (h : d = 63#6 ∨ d.toNat < k.sreg) : uniOk k d = true := by simpa [uniOk] using h

end Sys2Proof.Machine
end

