-- ==== Sys2Proof/Laws/PerInstr.lean ====
section
/-! SUPPORT. The fields of an instruction's encoding read back as the instruction, one lemma per constructor (R79 to R85). -/

namespace Sys2Proof.Laws

open Sys2Proof

/-- The fields of an instruction's own encoding are read as the instruction. -/
def RoundTrip.Statement (i : Instr) : Prop := ∀ x, i.enc = some x → i.wf = true → x.read = some i

/-! ## Fields of appended bit vectors -/

@[simp] theorem bits_low {v w : Nat} (a : BitVec v) (b : BitVec w) {lo n : Nat} (h : lo + n ≤ w) :
    bits (n := no_index (v + w)) (HAppend.hAppend (γ := no_index (BitVec (v + w))) a b) lo n = bits b lo n := by
  unfold bits; exact BitVec.extractLsb'_append_eq_of_add_le h
@[simp] theorem bits_high {v w : Nat} (a : BitVec v) (b : BitVec w) {lo n : Nat} (h : w ≤ lo) :
    bits (n := no_index (v + w)) (HAppend.hAppend (γ := no_index (BitVec (v + w))) a b) lo n = bits a (lo - w) n := by
  unfold bits; exact BitVec.extractLsb'_append_eq_of_le h
@[simp] theorem bits_self {w : Nat} (a : BitVec w) : bits a 0 w = a := by unfold bits; exact BitVec.extractLsb'_eq_self
@[simp] theorem bit_low {v w : Nat} (a : BitVec v) (b : BitVec w) {i : Nat} (h : i < w) :
    bit (n := no_index (v + w)) (HAppend.hAppend (γ := no_index (BitVec (v + w))) a b) i = bit b i := by
  simp [bit, BitVec.getLsbD_append, h]
@[simp] theorem bit_high {v w : Nat} (a : BitVec v) (b : BitVec w) {i : Nat} (h : w ≤ i) :
    bit (n := no_index (v + w)) (HAppend.hAppend (γ := no_index (BitVec (v + w))) a b) i = bit a (i - w) := by
  simp [bit, BitVec.getLsbD_append, Nat.not_lt.mpr h]
@[simp] theorem bit_ofBool (b : Bool) : bit (BitVec.ofBool b) 0 = b := by cases b <;> rfl
theorem bits_join {n : Nat} (x : BitVec n) (lo v w : Nat) : bits x (lo + w) v ++ bits x lo w = bits x lo (v + w) := by
  ext i hi
  simp only [bits, BitVec.getElem_append, BitVec.getElem_extractLsb']
  split
  · rfl
  · congr 1; omega
/-- An immediate split over the fields of a base word (R79), or over an extension word (R80). -/
@[simp] theorem imm8 (i : BitVec 8) : bits i 2 6 ++ bits i 0 2 = i := (bits_join i 0 6 2).trans (bits_self i)
@[simp] theorem sel12 (i : BitVec 12) : bits i 6 6 ++ bits i 0 6 = i := (bits_join i 0 6 6).trans (bits_self i)
@[simp] theorem imm32 (i : Word) : bits i 26 6 ++ bits i 0 26 = i := (bits_join i 0 6 26).trans (bits_self i)
@[simp] theorem ofs20 (i : BitVec 20) : bits i 14 6 ++ bits i 8 6 ++ bits i 2 6 ++ bits i 0 2 = i := by
  rw [show bits i 14 6 ++ bits i 8 6 = bits i 8 12 from bits_join i 8 6 6, show bits i 8 12 ++ bits i 2 6 = bits i 2 18 from bits_join i 2 12 6]
  exact (bits_join i 0 18 2).trans (bits_self i)

@[simp] theorem uni_chain (c : Bool) : (uni c).chain = c := rfl

/-! ## Codes -/

@[simp] theorem Space.of_code (s : Space) : Space.ofCode s.code = s := by cases s <;> rfl
@[simp] theorem Ck.of_code (s : Ck) : Ck.ofCode s.code = s := by cases s <;> rfl
@[simp] theorem BSrc.of_code (s : BSrc) : BSrc.ofCode s.code = s := by cases s <;> rfl
@[simp] theorem VoteMode.of_code (s : VoteMode) : VoteMode.ofCode s.code = s := by cases s <;> rfl
@[simp] theorem Cmp.of_code (s : Cmp) : Cmp.ofCode s.code = some s := by cases s <;> rfl
@[simp] theorem MulSign.of_code (s : MulSign) : MulSign.ofCode s.code = some s := by cases s <;> rfl
@[simp] theorem SgnOp.of_code (s : SgnOp) : SgnOp.ofCode s.code = some s := by cases s <;> rfl
@[simp] theorem ShfOp.of_code (s : ShfOp) : ShfOp.ofCode s.code = some s := by cases s <;> rfl
@[simp] theorem RedOp.of_code (s : RedOp) : RedOp.ofCode s.code = some s := by cases s <;> rfl
@[simp] theorem RettForm.of_code (s : RettForm) : RettForm.ofCode s.code = some s := by cases s <;> rfl
@[simp] theorem Edge.of_code (s : Edge) : Edge.ofCode s.code = some s := by cases s <;> rfl
@[simp] theorem ShflMode.of_code (s : ShflMode) : ShflMode.ofCode s.code = some s := by cases s <;> rfl

/-- The memory layout of R82 reads back. -/
theorem mem_read (op : BitVec 7) (h : Head) (d : BitVec 6) (m : MemOp) :
    Enc.mem ⟨op, h, d, m.a, m.b, bool2 m.ix, m.e, m.f⟩ = m := by
  obtain ⟨a, b, ix, e, sp, col, wd, sg, os, q, imm⟩ := m
  simp [bool2, MemOp.f, Enc.mem]

/-- OP 0x7A is read by its SUB field (R276). -/
theorem read_7A (h : Head) (d a b : BitVec 6) (f : BitVec 26) (k : BitVec 3) (hk : bits f 23 3 = k) :
    Enc.read ⟨0x7A, h, d, a, b, 0, 0, f⟩ = match k.toNat with
      | 0 => some (.bar h b (bits f 16 4))
      | 1 => some (.gbar h b (bits f 16 2))
      | 2 => some (.barm h.chain a b (bits f 0 12))
      | 3 => some (.bara h.chain a b (bits f 0 12))
      | 4 => some (.barw h.chain a b (bits f 0 12))
      | 5 => some (.bart h.chain (bits d 0 3) a b (bits f 0 12))
      | 6 => some (.waitc h.chain a b (bit f 20) (bits f 0 12))
      | _ => none := by subst hk; rfl
/-- OP 0x3C is read by its element size (R141). -/
theorem read_3C (h : Head) (d a : BitVec 6) (f : BitVec 26) (k : BitVec 2) (hk : bits f 2 2 = k) :
    Enc.read ⟨0x3C, h, d, a, 0, 0, 0, f⟩ = if k == 1#2 then some (.qenc h d a (bits f 0 2) false)
      else if k == 2#2 then some (.qenc h d a (bits f 0 2) true) else none := by subst hk; rfl
/-- SHFL is read by its edge and mode (R162). -/
theorem read_5B (h : Head) (d a b e : BitVec 6) (f : BitVec 26) (x : Edge) (y : ShflMode) (hx : bits f 16 2 = x.code) (hy : bits f 0 3 = y.code) :
    Enc.read ⟨0x5B, h, d, a, b, 0, e, f⟩ = some (.shfl h d a b e (bits f 18 3) x (bit f 15) (bit f 14) (bits f 4 10) (bit f 3) y) := by
  show (match Edge.ofCode (bits f 16 2), ShflMode.ofCode (bits f 0 3) with
    | some edge, some mode => some (Instr.shfl h d a b e (bits f 18 3) edge (bit f 15) (bit f 14) (bits f 4 10) (bit f 3) mode)
    | _, _ => none) = _
  rw [hx, hy, Edge.of_code, ShflMode.of_code]

/-- OP 0x7E with M = 01 is PREF (R232). -/
theorem read_7E (x : Enc) (ho : x.op = 0x7E) (hm : x.m = 1#2) : x.read = some (.pref x.h x.mem) := by
  obtain ⟨op, h, d, a, b, m, e, f⟩ := x
  subst ho hm; rfl

/-! ## One lemma per constructor -/

theorem RoundTrip.nop (c : Bool) : RoundTrip.Statement (.nop c) := by rintro _ ⟨⟩ _; rfl
theorem RoundTrip.iadd (h : Head) (d a b : BitVec 6) : RoundTrip.Statement (.iadd h d a b) := by rintro _ ⟨⟩ _; rfl
theorem RoundTrip.isub (h : Head) (d a b : BitVec 6) : RoundTrip.Statement (.isub h d a b) := by rintro _ ⟨⟩ _; rfl
theorem RoundTrip.imul (h : Head) (d a b : BitVec 6) : RoundTrip.Statement (.imul h d a b) := by rintro _ ⟨⟩ _; rfl
theorem RoundTrip.imulh (h : Head) (d a b : BitVec 6) (m : MulSign) : RoundTrip.Statement (.imulh h d a b m) := by
  rintro _ ⟨⟩ _
  show Option.map _ (MulSign.ofCode _) = _
  simp
theorem RoundTrip.imin (h : Head) (d a b : BitVec 6) (sg : Bool) : RoundTrip.Statement (.imin h d a b sg) := by
  rintro _ ⟨⟩ _
  show some (Instr.imin _ _ _ _ _) = _
  simp [bool2]
theorem RoundTrip.imax (h : Head) (d a b : BitVec 6) (sg : Bool) : RoundTrip.Statement (.imax h d a b sg) := by
  rintro _ ⟨⟩ _
  show some (Instr.imax _ _ _ _ _) = _
  simp [bool2]
theorem RoundTrip.iabs (h : Head) (d a : BitVec 6) : RoundTrip.Statement (.iabs h d a) := by rintro _ ⟨⟩ _; rfl
theorem RoundTrip.ishl (h : Head) (d a b : BitVec 6) : RoundTrip.Statement (.ishl h d a b) := by rintro _ ⟨⟩ _; rfl
theorem RoundTrip.ishr (h : Head) (d a b : BitVec 6) : RoundTrip.Statement (.ishr h d a b) := by rintro _ ⟨⟩ _; rfl
theorem RoundTrip.isar (h : Head) (d a b : BitVec 6) : RoundTrip.Statement (.isar h d a b) := by rintro _ ⟨⟩ _; rfl
theorem RoundTrip.and (h : Head) (d a b : BitVec 6) : RoundTrip.Statement (.and h d a b) := by rintro _ ⟨⟩ _; rfl
theorem RoundTrip.or (h : Head) (d a b : BitVec 6) : RoundTrip.Statement (.or h d a b) := by rintro _ ⟨⟩ _; rfl
theorem RoundTrip.xor (h : Head) (d a b : BitVec 6) : RoundTrip.Statement (.xor h d a b) := by rintro _ ⟨⟩ _; rfl
theorem RoundTrip.andn (h : Head) (d a b : BitVec 6) : RoundTrip.Statement (.andn h d a b) := by rintro _ ⟨⟩ _; rfl
theorem RoundTrip.popc (h : Head) (d a : BitVec 6) : RoundTrip.Statement (.popc h d a) := by rintro _ ⟨⟩ _; rfl
theorem RoundTrip.clz (h : Head) (d a : BitVec 6) : RoundTrip.Statement (.clz h d a) := by rintro _ ⟨⟩ _; rfl
theorem RoundTrip.brev (h : Head) (d a : BitVec 6) : RoundTrip.Statement (.brev h d a) := by rintro _ ⟨⟩ _; rfl
theorem RoundTrip.mov (h : Head) (d a : BitVec 6) : RoundTrip.Statement (.mov h d a) := by rintro _ ⟨⟩ _; rfl
theorem RoundTrip.movi (h : Head) (d : BitVec 6) (i : BitVec 8) : RoundTrip.Statement (.movi h d i) := by
  rintro _ ⟨⟩ _
  show some (Instr.movi _ _ _) = _
  simp
theorem RoundTrip.iaddi (h : Head) (d a : BitVec 6) (i : BitVec 8) : RoundTrip.Statement (.iaddi h d a i) := by
  rintro _ ⟨⟩ _
  show some (Instr.iaddi _ _ _ _) = _
  simp
theorem RoundTrip.limm (h : Head) (d : BitVec 6) (i : Word) : RoundTrip.Statement (.limm h d i) := by
  rintro _ ⟨⟩ _
  show some (Instr.limm _ _ _) = _
  simp
theorem RoundTrip.fmovi (h : Head) (d : BitVec 6) (i : BitVec 8) : RoundTrip.Statement (.fmovi h d i) := by
  rintro _ ⟨⟩ _
  show some (Instr.fmovi _ _ _) = _
  simp
theorem RoundTrip.plog (h : Head) (d a b : BitVec 3) (m : BitVec 2) : RoundTrip.Statement (.plog h d a b m) := by
  rintro _ ⟨⟩ _
  show some (Instr.plog _ _ _ _ _) = _
  simp [p6]
theorem RoundTrip.vsrr (h : Head) (d : BitVec 6) (sel : BitVec 12) : RoundTrip.Statement (.vsrr h d sel) := by
  rintro _ ⟨⟩ _
  show some (Instr.vsrr _ _ _) = _
  simp [selA, selB]
theorem RoundTrip.vsrw (h : Head) (d : BitVec 6) (sel : BitVec 12) : RoundTrip.Statement (.vsrw h d sel) := by
  rintro _ ⟨⟩ _
  show some (Instr.vsrw _ _ _) = _
  simp [selA, selB]
theorem RoundTrip.imad (h : Head) (d a b e : BitVec 6) : RoundTrip.Statement (.imad h d a b e) := by rintro _ ⟨⟩ _; rfl
theorem RoundTrip.lea (h : Head) (d a b : BitVec 6) (sh : BitVec 5) : RoundTrip.Statement (.lea h d a b sh) := by
  rintro _ ⟨⟩ _
  show some (Instr.lea _ _ _ _ _) = _
  simp
theorem RoundTrip.bfx (h : Head) (d a : BitVec 6) (pos : BitVec 5) (len : BitVec 6) (sg : Bool) : RoundTrip.Statement (.bfx h d a pos len sg) := by
  rintro _ ⟨⟩ _
  show some (Instr.bfx _ _ _ _ _ _) = _
  simp
theorem RoundTrip.bfi (h : Head) (d a b : BitVec 6) (pos : BitVec 5) (len : BitVec 6) : RoundTrip.Statement (.bfi h d a b pos len) := by
  rintro _ ⟨⟩ _
  show some (Instr.bfi _ _ _ _ _ _) = _
  simp
theorem RoundTrip.sel (h : Head) (d a b : BitVec 6) (pc : BitVec 3) : RoundTrip.Statement (.sel h d a b pc) := by
  rintro _ ⟨⟩ _
  show some (Instr.sel _ _ _ _ _) = _
  simp [p6]
theorem RoundTrip.icmp (h : Head) (d : BitVec 3) (a b : BitVec 6) (sg : Bool) (cond : Cmp) : RoundTrip.Statement (.icmp h d a b sg cond) := by
  rintro _ ⟨⟩ _
  show Option.map _ (Cmp.ofCode _) = _
  simp [cmpF, p6]
theorem RoundTrip.dot4i (h : Head) (d a b e : BitVec 6) (sa sb : Bool) : RoundTrip.Statement (.dot4i h d a b e sa sb) := by
  rintro _ ⟨⟩ _
  show some (Instr.dot4i _ _ _ _ _ _ _) = _
  simp
theorem RoundTrip.dot2h (h : Head) (d a b e : BitVec 6) (rm : BitVec 2) (f16 : Bool) : RoundTrip.Statement (.dot2h h d a b e rm f16) := by
  rintro _ ⟨⟩ _
  show some (Instr.dot2h _ _ _ _ _ _ _) = _
  simp [rmF, bool2]
theorem RoundTrip.fadd (h : Head) (d a b : BitVec 6) (rm : BitVec 2) : RoundTrip.Statement (.fadd h d a b rm) := by rintro _ ⟨⟩ _; rfl
theorem RoundTrip.fsub (h : Head) (d a b : BitVec 6) (rm : BitVec 2) : RoundTrip.Statement (.fsub h d a b rm) := by rintro _ ⟨⟩ _; rfl
theorem RoundTrip.fmul (h : Head) (d a b : BitVec 6) (rm : BitVec 2) : RoundTrip.Statement (.fmul h d a b rm) := by rintro _ ⟨⟩ _; rfl
theorem RoundTrip.fmac (h : Head) (d a b : BitVec 6) (rm : BitVec 2) : RoundTrip.Statement (.fmac h d a b rm) := by rintro _ ⟨⟩ _; rfl
theorem RoundTrip.ffma (h : Head) (d a b e : BitVec 6) (rm : BitVec 2) (np nc : Bool) : RoundTrip.Statement (.ffma h d a b e rm np nc) := by
  rintro _ ⟨⟩ _
  show some (Instr.ffma _ _ _ _ _ _ _ _) = _
  simp [rmF]
theorem RoundTrip.fmin (h : Head) (d a b : BitVec 6) : RoundTrip.Statement (.fmin h d a b) := by rintro _ ⟨⟩ _; rfl
theorem RoundTrip.fmax (h : Head) (d a b : BitVec 6) : RoundTrip.Statement (.fmax h d a b) := by rintro _ ⟨⟩ _; rfl
theorem RoundTrip.fsgn (h : Head) (d a : BitVec 6) (m : SgnOp) : RoundTrip.Statement (.fsgn h d a m) := by
  rintro _ ⟨⟩ _
  show Option.map _ (SgnOp.ofCode _) = _
  simp
theorem RoundTrip.fcmp (h : Head) (d : BitVec 3) (a b : BitVec 6) (cond : BitVec 3) : RoundTrip.Statement (.fcmp h d a b cond) := by
  rintro _ ⟨⟩ _
  show some (Instr.fcmp _ _ _ _ _) = _
  simp [p6]
theorem RoundTrip.fclass (h : Head) (d : BitVec 3) (a : BitVec 6) (mask : BitVec 10) : RoundTrip.Statement (.fclass h d a mask) := by
  rintro _ ⟨⟩ _
  show some (Instr.fclass _ _ _ _) = _
  simp [p6]
theorem RoundTrip.frnd (h : Head) (d a : BitVec 6) (rm : BitVec 2) : RoundTrip.Statement (.frnd h d a rm) := by rintro _ ⟨⟩ _; rfl
theorem RoundTrip.fscl (h : Head) (d a b : BitVec 6) (rm : BitVec 2) : RoundTrip.Statement (.fscl h d a b rm) := by rintro _ ⟨⟩ _; rfl
theorem RoundTrip.hadd2 (h : Head) (d a b : BitVec 6) (f16 : Bool) : RoundTrip.Statement (.hadd2 h d a b f16) := by
  rintro _ ⟨⟩ _
  show some (Instr.hadd2 _ _ _ _ _) = _
  simp [bool2]
theorem RoundTrip.hmul2 (h : Head) (d a b : BitVec 6) (f16 : Bool) : RoundTrip.Statement (.hmul2 h d a b f16) := by
  rintro _ ⟨⟩ _
  show some (Instr.hmul2 _ _ _ _ _) = _
  simp [bool2]
theorem RoundTrip.hmin2 (h : Head) (d a b : BitVec 6) (f16 : Bool) : RoundTrip.Statement (.hmin2 h d a b f16) := by
  rintro _ ⟨⟩ _
  show some (Instr.hmin2 _ _ _ _ _) = _
  simp [bool2]
theorem RoundTrip.hmax2 (h : Head) (d a b : BitVec 6) (f16 : Bool) : RoundTrip.Statement (.hmax2 h d a b f16) := by
  rintro _ ⟨⟩ _
  show some (Instr.hmax2 _ _ _ _ _) = _
  simp [bool2]
theorem RoundTrip.hfma2 (h : Head) (d a b e : BitVec 6) (rm : BitVec 2) (f16 : Bool) : RoundTrip.Statement (.hfma2 h d a b e rm f16) := by
  rintro _ ⟨⟩ _
  show some (Instr.hfma2 _ _ _ _ _ _ _) = _
  simp [rmF, bool2]
theorem RoundTrip.cvt (h : Head) (d a : BitVec 6) (src dst : BitVec 4) (mode : BitVec 3) (sat : Bool) : RoundTrip.Statement (.cvt h d a src dst mode sat) := by
  rintro _ ⟨⟩ _
  show some (Instr.cvt _ _ _ _ _ _ _) = _
  simp
theorem RoundTrip.cvtp (h : Head) (d a b : BitVec 6) (dst : BitVec 4) (mode : BitVec 3) (sat hi : Bool) : RoundTrip.Statement (.cvtp h d a b dst mode sat hi) := by
  rintro _ ⟨⟩ _
  show some (Instr.cvtp _ _ _ _ _ _ _ _) = _
  simp
theorem RoundTrip.cvtu (h : Head) (d a : BitVec 6) (src : BitVec 4) (idx : BitVec 3) : RoundTrip.Statement (.cvtu h d a src idx) := by
  rintro _ ⟨⟩ _
  show some (Instr.cvtu _ _ _ _ _) = _
  simp
theorem RoundTrip.qdec (h : Head) (d a b : BitVec 6) (idx : BitVec 3) : RoundTrip.Statement (.qdec h d a b idx) := by
  rintro _ ⟨⟩ _
  show some (Instr.qdec _ _ _ _ _) = _
  simp
theorem RoundTrip.qenc (h : Head) (d a : BitVec 6) (type : BitVec 2) (q16 : Bool) : RoundTrip.Statement (.qenc h d a type q16) := by
  rintro _ ⟨⟩ _
  cases q16
  · rw [read_3C (k := 1#2) (hk := by simp; rfl)]; exact congrArg (fun t => some (Instr.qenc h d a t false)) (by simp)
  · rw [read_3C (k := 2#2) (hk := by simp; rfl)]; exact congrArg (fun t => some (Instr.qenc h d a t true)) (by simp)
theorem RoundTrip.rcp (h : Head) (d a : BitVec 6) : RoundTrip.Statement (.rcp h d a) := by rintro _ ⟨⟩ _; rfl
theorem RoundTrip.rsq (h : Head) (d a : BitVec 6) : RoundTrip.Statement (.rsq h d a) := by rintro _ ⟨⟩ _; rfl
theorem RoundTrip.sqrt (h : Head) (d a : BitVec 6) : RoundTrip.Statement (.sqrt h d a) := by rintro _ ⟨⟩ _; rfl
theorem RoundTrip.exp2 (h : Head) (d a : BitVec 6) : RoundTrip.Statement (.exp2 h d a) := by rintro _ ⟨⟩ _; rfl
theorem RoundTrip.log2 (h : Head) (d a : BitVec 6) : RoundTrip.Statement (.log2 h d a) := by rintro _ ⟨⟩ _; rfl
theorem RoundTrip.sinp (h : Head) (d a : BitVec 6) : RoundTrip.Statement (.sinp h d a) := by rintro _ ⟨⟩ _; rfl
theorem RoundTrip.cosp (h : Head) (d a : BitVec 6) : RoundTrip.Statement (.cosp h d a) := by rintro _ ⟨⟩ _; rfl
theorem RoundTrip.tanh (h : Head) (d a : BitVec 6) : RoundTrip.Statement (.tanh h d a) := by rintro _ ⟨⟩ _; rfl
theorem RoundTrip.sadd (c : Bool) (d a b : BitVec 6) : RoundTrip.Statement (.sadd c d a b) := by rintro _ ⟨⟩ _; rfl
theorem RoundTrip.ssub (c : Bool) (d a b : BitVec 6) : RoundTrip.Statement (.ssub c d a b) := by rintro _ ⟨⟩ _; rfl
theorem RoundTrip.smul (c : Bool) (d a b : BitVec 6) : RoundTrip.Statement (.smul c d a b) := by rintro _ ⟨⟩ _; rfl
theorem RoundTrip.sshf (c : Bool) (d a b : BitVec 6) (m : ShfOp) : RoundTrip.Statement (.sshf c d a b m) := by
  rintro _ ⟨⟩ _
  show Option.map _ (ShfOp.ofCode _) = _
  simp
theorem RoundTrip.slog (c : Bool) (d a b : BitVec 6) (m : BitVec 2) : RoundTrip.Statement (.slog c d a b m) := by rintro _ ⟨⟩ _; rfl
theorem RoundTrip.sminmax (c : Bool) (d a b : BitVec 6) (m : BitVec 2) : RoundTrip.Statement (.sminmax c d a b m) := by rintro _ ⟨⟩ _; rfl
theorem RoundTrip.smov (c : Bool) (d a : BitVec 6) : RoundTrip.Statement (.smov c d a) := by rintro _ ⟨⟩ _; rfl
theorem RoundTrip.smovi (c : Bool) (d : BitVec 6) (i : BitVec 8) : RoundTrip.Statement (.smovi c d i) := by
  rintro _ ⟨⟩ _
  show some (Instr.smovi _ _ _) = _
  simp
theorem RoundTrip.smad (c : Bool) (d a b e : BitVec 6) : RoundTrip.Statement (.smad c d a b e) := by rintro _ ⟨⟩ _; rfl
theorem RoundTrip.slea (c : Bool) (d a b : BitVec 6) (sh : BitVec 6) (disp : BitVec 20) : RoundTrip.Statement (.slea c d a b sh disp) := by
  rintro _ ⟨⟩ _
  show some (Instr.slea _ _ _ _ _ _) = _
  simp
theorem RoundTrip.slimm (c : Bool) (d : BitVec 6) (hi : Bool) (i : Word) : RoundTrip.Statement (.slimm c d hi i) := by
  rintro _ ⟨⟩ _
  show some (Instr.slimm _ _ _ _) = _
  simp [bool2]
theorem RoundTrip.scmp (c : Bool) (d : BitVec 3) (a b : BitVec 6) (sg : Bool) (cond : Cmp) : RoundTrip.Statement (.scmp c d a b sg cond) := by
  rintro _ ⟨⟩ _
  show Option.map _ (Cmp.ofCode _) = _
  simp [cmpF, p6]
theorem RoundTrip.srr (c : Bool) (d : BitVec 6) (sel : BitVec 12) : RoundTrip.Statement (.srr c d sel) := by
  rintro _ ⟨⟩ _
  show some (Instr.srr _ _ _) = _
  simp
theorem RoundTrip.srw (c : Bool) (a : BitVec 6) (sel : BitVec 12) : RoundTrip.Statement (.srw c a sel) := by
  rintro _ ⟨⟩ _
  show some (Instr.srw _ _ _) = _
  simp
theorem RoundTrip.bra (h : Head) (o : BitVec 20) : RoundTrip.Statement (.bra h o) := by
  rintro _ ⟨⟩ _
  show some (Instr.bra _ _) = _
  simp
theorem RoundTrip.bru (h : Head) (o : BitVec 20) : RoundTrip.Statement (.bru h o) := by
  rintro _ ⟨⟩ _
  show some (Instr.bru _ _) = _
  simp
theorem RoundTrip.call (h : Head) (o : BitVec 20) : RoundTrip.Statement (.call h o) := by
  rintro _ ⟨⟩ _
  show some (Instr.call _ _) = _
  simp
theorem RoundTrip.calli (h : Head) (a b : BitVec 6) (ix : Bool) : RoundTrip.Statement (.calli h a b ix) := by
  rintro _ ⟨⟩ _
  show some (Instr.calli _ _ _ _) = _
  simp [bool2]
theorem RoundTrip.jmpi (h : Head) (a b : BitVec 6) (ix : Bool) : RoundTrip.Statement (.jmpi h a b ix) := by
  rintro _ ⟨⟩ _
  show some (Instr.jmpi _ _ _ _) = _
  simp [bool2]
theorem RoundTrip.ret (h : Head) : RoundTrip.Statement (.ret h) := by rintro _ ⟨⟩ _; rfl
theorem RoundTrip.reform (h : Head) (n : BitVec 5) (m : BitVec 4) : RoundTrip.Statement (.reform h n m) := by
  rintro _ ⟨⟩ _
  show some (Instr.reform _ _ _) = _
  simp
theorem RoundTrip.spawn (h : Head) (d : BitVec 3) (o : BitVec 20) : RoundTrip.Statement (.spawn h d o) := by
  rintro _ ⟨⟩ _
  show some (Instr.spawn _ _ _) = _
  simp [p6]
theorem RoundTrip.exit (h : Head) : RoundTrip.Statement (.exit h) := by rintro _ ⟨⟩ _; rfl
theorem RoundTrip.yield (h : Head) (n : BitVec 5) (m : BitVec 4) : RoundTrip.Statement (.yield h n m) := by
  rintro _ ⟨⟩ _
  show some (Instr.yield _ _ _) = _
  simp
theorem RoundTrip.balw (c : Bool) (a b : BitVec 6) (o : BitVec 20) : RoundTrip.Statement (.balw c a b o) := by
  rintro _ ⟨⟩ _
  show some (Instr.balw _ _ _ _) = _
  simp
theorem RoundTrip.shfl (h : Head) (d a b e : BitVec 6) (seg : BitVec 3) (edge : Edge) (ln mm : Bool) (imm : BitVec 10) (im : Bool) (mode : ShflMode) : RoundTrip.Statement (.shfl h d a b e seg edge ln mm imm im mode) := by
  rintro _ ⟨⟩ _
  rw [read_5B (x := edge) (y := mode) (hx := by simp) (hy := by simp)]; simp
theorem RoundTrip.vote (h : Head) (d : BitVec 6) (a : BitVec 3) (e : BitVec 6) (mode : VoteMode) (mm ln : Bool) : RoundTrip.Statement (.vote h d a e mode mm ln) := by
  rintro _ ⟨⟩ _
  show some (Instr.vote _ _ _ _ _ _ _) = _
  simp [p6]
theorem RoundTrip.redw (h : Head) (d a e : BitVec 6) (op : RedOp) (mm ln : Bool) : RoundTrip.Statement (.redw h d a e op mm ln) := by
  rintro _ ⟨⟩ _
  show Option.map _ (RedOp.ofCode _) = _
  simp [mmF]
theorem RoundTrip.scanw (h : Head) (d a b e : BitVec 6) (op : RedOp) (ex mm ln : Bool) : RoundTrip.Statement (.scanw h d a b e op ex mm ln) := by
  rintro _ ⟨⟩ _
  show Option.map _ (RedOp.ofCode _) = _
  simp [mmF]
theorem RoundTrip.elect (h : Head) (d : BitVec 3) : RoundTrip.Statement (.elect h d) := by
  rintro _ ⟨⟩ _
  show some (Instr.elect _ _) = _
  simp [p6]
theorem RoundTrip.rdlane (h : Head) (d a : BitVec 6) (lane : BitVec 5) : RoundTrip.Statement (.rdlane h d a lane) := by
  rintro _ ⟨⟩ _
  show some (Instr.rdlane _ _ _ _) = _
  simp
theorem RoundTrip.bcast (h : Head) (d a : BitVec 6) (lane : BitVec 5) : RoundTrip.Statement (.bcast h d a lane) := by
  rintro _ ⟨⟩ _
  show some (Instr.bcast _ _ _ _) = _
  simp
theorem RoundTrip.ld (h : Head) (d : BitVec 6) (m : MemOp) : RoundTrip.Statement (.ld h d m) := by
  rintro _ ⟨⟩ _
  exact congrArg (fun t => some (Instr.ld h d t)) (mem_read _ _ _ m)
theorem RoundTrip.st (h : Head) (d : BitVec 6) (m : MemOp) : RoundTrip.Statement (.st h d m) := by
  rintro _ ⟨⟩ _
  exact congrArg (fun t => some (Instr.st h d t)) (mem_read _ _ _ m)
theorem RoundTrip.sld (c : Bool) (d : BitVec 6) (m : MemOp) : RoundTrip.Statement (.sld c d m) := by
  rintro _ ⟨⟩ _
  exact congrArg (fun t => some (Instr.sld c d t)) (mem_read _ _ _ m)
theorem RoundTrip.sst (c : Bool) (d : BitVec 6) (m : MemOp) : RoundTrip.Statement (.sst c d m) := by
  rintro _ ⟨⟩ _
  exact congrArg (fun t => some (Instr.sst c d t)) (mem_read _ _ _ m)
theorem RoundTrip.ldf (h : Head) (d : BitVec 6) (m : MemOp) : RoundTrip.Statement (.ldf h d m) := by
  rintro _ ⟨⟩ _
  exact congrArg (fun t => some (Instr.ldf h d t)) (mem_read _ _ _ m)
theorem RoundTrip.stf (h : Head) (d : BitVec 6) (m : MemOp) : RoundTrip.Statement (.stf h d m) := by
  rintro _ ⟨⟩ _
  exact congrArg (fun t => some (Instr.stf h d t)) (mem_read _ _ _ m)
theorem RoundTrip.lde (h : Head) (d : BitVec 6) (m : MemOp) : RoundTrip.Statement (.lde h d m) := by
  rintro _ ⟨⟩ _
  exact congrArg (fun t => some (Instr.lde h d t)) (mem_read _ _ _ m)
theorem RoundTrip.atom (h : Head) (d : BitVec 6) (m : MemOp) : RoundTrip.Statement (.atom h d m) := by
  rintro _ ⟨⟩ _
  exact congrArg (fun t => some (Instr.atom h d t)) (mem_read _ _ _ m)
theorem RoundTrip.red (h : Head) (d : BitVec 6) (m : MemOp) : RoundTrip.Statement (.red h d m) := by
  rintro _ ⟨⟩ _
  exact congrArg (fun t => some (Instr.red h d t)) (mem_read _ _ _ m)
theorem RoundTrip.redm (h : Head) (d : BitVec 6) (m : MemOp) : RoundTrip.Statement (.redm h d m) := by
  rintro _ ⟨⟩ _
  exact congrArg (fun t => some (Instr.redm h d t)) (mem_read _ _ _ m)
theorem RoundTrip.mst (h : Head) (d : BitVec 6) (m : MemOp) : RoundTrip.Statement (.mst h d m) := by
  rintro _ ⟨⟩ _
  exact congrArg (fun t => some (Instr.mst h d t)) (mem_read _ _ _ m)
theorem RoundTrip.touch (h : Head) (m : MemOp) : RoundTrip.Statement (.touch h m) := by
  rintro _ ⟨⟩ _
  exact congrArg (fun t => some (Instr.touch h t)) (mem_read _ _ _ m)
theorem RoundTrip.evict (h : Head) (m : MemOp) : RoundTrip.Statement (.evict h m) := by
  rintro _ ⟨⟩ _
  exact congrArg (fun t => some (Instr.evict h t)) (mem_read _ _ _ m)
theorem RoundTrip.pref (h : Head) (m : MemOp) : RoundTrip.Statement (.pref h m) := by
  rintro _ ⟨⟩ hw
  have hx : m.ix = true := by
    simp only [Instr.wf, Instr.operandsOk, MemKind.ok, Bool.and_eq_true, Bool.or_eq_true] at hw
    rcases hw.2.1.1.1.2 with h | h
    · exact absurd h (by decide)
    · exact h
  exact (read_7E _ rfl (by rw [show (Enc.m _) = bool2 m.ix from rfl, hx]; rfl)).trans (congrArg (fun t => some (Instr.pref h t)) (mem_read _ _ _ m))
theorem RoundTrip.cpy (c : Bool) (d a b e : BitVec 6) (dsp ssp : Space) (queue : BitVec 3) (ck : Ck) : RoundTrip.Statement (.cpy c d a b e dsp ssp queue ck) := by
  rintro _ ⟨⟩ _
  show some (Instr.cpy _ _ _ _ _ _ _ _ _) = _
  simp
theorem RoundTrip.cpyt (c : Bool) (d a b e : BitVec 6) (st w : Bool) (queue : BitVec 3) (ck : Ck) (box1 : BitVec 5) (box0 : BitVec 10) : RoundTrip.Statement (.cpyt c d a b e st w queue ck box1 box0) := by
  rintro _ ⟨⟩ _
  show some (Instr.cpyt _ _ _ _ _ _ _ _ _ _ _) = _
  simp
theorem RoundTrip.qfence (c : Bool) (e : BitVec 6) (queue : BitVec 3) (ck : Ck) (mask : BitVec 8) : RoundTrip.Statement (.qfence c e queue ck mask) := by
  rintro _ ⟨⟩ _
  show some (Instr.qfence _ _ _ _ _) = _
  simp
theorem RoundTrip.ldt (h : Head) (d : BitVec 2) (a : BitVec 6) (sp : Space) (pitch : BitVec 11) (imm : BitVec 12) : RoundTrip.Statement (.ldt h d a sp pitch imm) := by
  rintro _ ⟨⟩ _
  show some (Instr.ldt _ _ _ _ _ _) = _
  simp [t6]
theorem RoundTrip.stt (h : Head) (d : BitVec 2) (a : BitVec 6) (pitch : BitVec 11) (imm : BitVec 12) : RoundTrip.Statement (.stt h d a pitch imm) := by
  rintro _ ⟨⟩ _
  show some (Instr.stt _ _ _ _ _) = _
  simp [t6]
theorem RoundTrip.mma (h : Head) (d a : BitVec 2) (b e : BitVec 6) (mc : Bool) (bsrc : BSrc) (bf af : BitVec 4) : RoundTrip.Statement (.mma h d a b e mc bsrc bf af) := by
  rintro _ ⟨⟩ _
  show some (Instr.mma _ _ _ _ _ _ _ _ _) = _
  simp [mmaF, t6]
theorem RoundTrip.mmaz (h : Head) (d a : BitVec 2) (b e : BitVec 6) (mc : Bool) (bsrc : BSrc) (bf af : BitVec 4) : RoundTrip.Statement (.mmaz h d a b e mc bsrc bf af) := by
  rintro _ ⟨⟩ _
  show some (Instr.mmaz _ _ _ _ _ _ _ _ _) = _
  simp [mmaF, t6]
theorem RoundTrip.accrd (h : Head) (d : BitVec 6) (a : BitVec 2) (b : BitVec 6) (cv : Bool) : RoundTrip.Statement (.accrd h d a b cv) := by
  rintro _ ⟨⟩ _
  show some (Instr.accrd _ _ _ _ _) = _
  simp [bool2, t6]
theorem RoundTrip.accwr (h : Head) (d : BitVec 2) (a b : BitVec 6) (cv : Bool) : RoundTrip.Statement (.accwr h d a b cv) := by
  rintro _ ⟨⟩ _
  show some (Instr.accwr _ _ _ _ _) = _
  simp [bool2, t6]
theorem RoundTrip.accld (h : Head) (d : BitVec 2) (a : BitVec 6) (imm : BitVec 12) : RoundTrip.Statement (.accld h d a imm) := by
  rintro _ ⟨⟩ _
  show some (Instr.accld _ _ _ _) = _
  simp [accF, t6, MemOp.f]
theorem RoundTrip.accst (h : Head) (d : BitVec 2) (a : BitVec 6) (imm : BitVec 12) : RoundTrip.Statement (.accst h d a imm) := by
  rintro _ ⟨⟩ _
  show some (Instr.accst _ _ _ _) = _
  simp [accF, t6, MemOp.f]
theorem RoundTrip.accz (h : Head) (d : BitVec 2) : RoundTrip.Statement (.accz h d) := by
  rintro _ ⟨⟩ _
  show some (Instr.accz _ _) = _
  simp [t6]
theorem RoundTrip.txp (h : Head) (d a : BitVec 2) (b16 : Bool) : RoundTrip.Statement (.txp h d a b16) := by
  rintro _ ⟨⟩ _
  show some (Instr.txp _ _ _ _) = _
  simp [bool2, t6]
theorem RoundTrip.fence (h : Head) (full : Bool) (scope : BitVec 3) (cmask : BitVec 8) : RoundTrip.Statement (.fence h full scope cmask) := by
  rintro _ ⟨⟩ _
  show some (Instr.fence _ _ _ _) = _
  simp [bool2]
theorem RoundTrip.acq (h : Head) (d a : BitVec 6) (imm : BitVec 12) : RoundTrip.Statement (.acq h d a imm) := by
  rintro _ ⟨⟩ _
  show some (Instr.acq _ _ _ _) = _
  simp
theorem RoundTrip.rel (h : Head) (a b : BitVec 6) (scope : BitVec 3) (add : Bool) (imm : BitVec 12) : RoundTrip.Statement (.rel h a b scope add imm) := by
  rintro _ ⟨⟩ _
  show some (Instr.rel _ _ _ _ _ _) = _
  simp [bool2]
theorem RoundTrip.bind (c : Bool) (d a b : BitVec 6) (entry : BitVec 6) : RoundTrip.Statement (.bind c d a b entry) := by
  rintro _ ⟨⟩ _
  show some (Instr.bind _ _ _ _ _) = _
  simp
theorem RoundTrip.bar (h : Head) (b : BitVec 6) (id : BitVec 4) : RoundTrip.Statement (.bar h b id) := by
  rintro _ ⟨⟩ _
  rw [read_7A (k := 0#3) (hk := by simp; rfl)]; show some (Instr.bar _ _ _) = _; simp
theorem RoundTrip.gbar (h : Head) (b : BitVec 6) (id : BitVec 2) : RoundTrip.Statement (.gbar h b id) := by
  rintro _ ⟨⟩ _
  rw [read_7A (k := 1#3) (hk := by simp; rfl)]; show some (Instr.gbar _ _ _) = _; simp
theorem RoundTrip.barm (c : Bool) (a b : BitVec 6) (imm : BitVec 12) : RoundTrip.Statement (.barm c a b imm) := by
  rintro _ ⟨⟩ _
  rw [read_7A (k := 2#3) (hk := by simp)]; show some (Instr.barm _ _ _ _) = _; simp
theorem RoundTrip.bara (c : Bool) (a b : BitVec 6) (imm : BitVec 12) : RoundTrip.Statement (.bara c a b imm) := by
  rintro _ ⟨⟩ _
  rw [read_7A (k := 3#3) (hk := by simp)]; show some (Instr.bara _ _ _ _) = _; simp
theorem RoundTrip.barw (c : Bool) (a b : BitVec 6) (imm : BitVec 12) : RoundTrip.Statement (.barw c a b imm) := by
  rintro _ ⟨⟩ _
  rw [read_7A (k := 4#3) (hk := by simp)]; show some (Instr.barw _ _ _ _) = _; simp
theorem RoundTrip.bart (c : Bool) (d : BitVec 3) (a b : BitVec 6) (imm : BitVec 12) : RoundTrip.Statement (.bart c d a b imm) := by
  rintro _ ⟨⟩ _
  rw [read_7A (k := 5#3) (hk := by simp)]; show some (Instr.bart _ _ _ _ _) = _; simp [p6]
theorem RoundTrip.waitc (c : Bool) (a b : BitVec 6) (inA : Bool) (imm : BitVec 12) : RoundTrip.Statement (.waitc c a b inA imm) := by
  rintro _ ⟨⟩ _
  rw [read_7A (k := 6#3) (hk := by simp)]; show some (Instr.waitc _ _ _ _ _) = _; cases inA <;> simp <;> rfl
theorem RoundTrip.waitcPoll (frag : Nat) : RoundTrip.Statement (.waitcPoll frag) := fun _ h => nomatch h
theorem RoundTrip.pin (c : Bool) (k : BitVec 3) (a : BitVec 6) : RoundTrip.Statement (.pin c k a) := by
  rintro _ ⟨⟩ _
  show some (Instr.pin _ _ _) = _
  simp [p6]
theorem RoundTrip.unpin (c : Bool) (k : BitVec 3) : RoundTrip.Statement (.unpin c k) := by
  rintro _ ⟨⟩ _
  show some (Instr.unpin _ _) = _
  simp [p6]
theorem RoundTrip.reclaim (c : Bool) (d a : BitVec 6) : RoundTrip.Statement (.reclaim c d a) := by rintro _ ⟨⟩ _; rfl
theorem RoundTrip.reclaimd (c : Bool) (d : BitVec 6) : RoundTrip.Statement (.reclaimd c d) := by
  rintro _ ⟨⟩ _
  show some (Instr.reclaimd _ _) = _
  simp
theorem RoundTrip.alw (c : Bool) (d a : BitVec 6) : RoundTrip.Statement (.alw c d a) := by rintro _ ⟨⟩ _; rfl
theorem RoundTrip.coll (c : Bool) (a : BitVec 6) : RoundTrip.Statement (.coll c a) := by rintro _ ⟨⟩ _; rfl
theorem RoundTrip.collw (c : Bool) (d a : BitVec 6) : RoundTrip.Statement (.collw c d a) := by rintro _ ⟨⟩ _; rfl
theorem RoundTrip.trap (h : Head) (imm : Half) : RoundTrip.Statement (.trap h imm) := by
  rintro _ ⟨⟩ _
  show some (Instr.trap _ _) = _
  simp
theorem RoundTrip.brk (h : Head) (imm : Half) : RoundTrip.Statement (.brk h imm) := by
  rintro _ ⟨⟩ _
  show some (Instr.brk _ _) = _
  simp
theorem RoundTrip.rett (c : Bool) (form : RettForm) : RoundTrip.Statement (.rett c form) := by
  rintro _ ⟨⟩ _
  show Option.map _ (RettForm.ofCode _) = _
  simp
theorem RoundTrip.preq (c : Bool) (d : BitVec 6) : RoundTrip.Statement (.preq c d) := by rintro _ ⟨⟩ _; rfl
theorem RoundTrip.trapEntry (frag : Nat) : RoundTrip.Statement (.trapEntry frag) := fun _ h => nomatch h
theorem RoundTrip.tailWrite (queue : BitVec 12) (write : HostWrite DWord) : RoundTrip.Statement (.tailWrite queue write) := fun _ h => nomatch h
theorem RoundTrip.queueSlotWrite (queue : BitVec 12) (slot : Nat) (write : HostWrite (BitVec 2048)) : RoundTrip.Statement (.queueSlotWrite queue slot write) := fun _ h => nomatch h
theorem RoundTrip.recordAccept (queue : BitVec 12) : RoundTrip.Statement (.recordAccept queue) := fun _ h => nomatch h
theorem RoundTrip.gridComplete (grid : GridId) : RoundTrip.Statement (.gridComplete grid) := fun _ h => nomatch h
theorem RoundTrip.blockPlace (grid : GridId) (core : Nat) (parts : List Nat) : RoundTrip.Statement (.blockPlace grid core parts) := fun _ h => nomatch h
theorem RoundTrip.gangPlace (grid : GridId) (cores : List Nat) : RoundTrip.Statement (.gangPlace grid cores) := fun _ h => nomatch h
theorem RoundTrip.gangHold (grid : GridId) (cluster : Nat) : RoundTrip.Statement (.gangHold grid cluster) := fun _ h => nomatch h
theorem RoundTrip.blockResume (block : Nat) (cores : List Nat) : RoundTrip.Statement (.blockResume block cores) := fun _ h => nomatch h
theorem RoundTrip.panTimerExpire (pan : Nat) : RoundTrip.Statement (.panTimerExpire pan) := fun _ h => nomatch h
theorem RoundTrip.panYield (pan : Nat) (ctx : Nat) : RoundTrip.Statement (.panYield pan ctx) := fun _ h => nomatch h
theorem RoundTrip.fsbRelease (frag : Nat) : RoundTrip.Statement (.fsbRelease frag) := fun _ h => nomatch h
theorem RoundTrip.bsbDrain (block : Nat) (index : Nat) : RoundTrip.Statement (.bsbDrain block index) := fun _ h => nomatch h
theorem RoundTrip.enginePerform (block : Nat) (queue : BitVec 3) : RoundTrip.Statement (.enginePerform block queue) := fun _ h => nomatch h
theorem RoundTrip.engineRemoteTimeout (block : Nat) (queue : BitVec 3) : RoundTrip.Statement (.engineRemoteTimeout block queue) := fun _ h => nomatch h
theorem RoundTrip.emptyTimeout (frag : Nat) : RoundTrip.Statement (.emptyTimeout frag) := fun _ h => nomatch h
theorem RoundTrip.pageWalkDone (job : BitVec 16) (va : DWord) : RoundTrip.Statement (.pageWalkDone job va) := fun _ h => nomatch h
theorem RoundTrip.memoryPressureEvict (job : BitVec 16) (va : DWord) : RoundTrip.Statement (.memoryPressureEvict job va) := fun _ h => nomatch h
theorem RoundTrip.deferredFill (job : BitVec 16) : RoundTrip.Statement (.deferredFill job) := fun _ h => nomatch h
theorem RoundTrip.greq (p : Arrival) (m : PageMsg) : RoundTrip.Statement (.greq p m) := fun _ h => nomatch h
theorem RoundTrip.gather (p : Arrival) (m : PageMsg) : RoundTrip.Statement (.gather p m) := fun _ h => nomatch h
theorem RoundTrip.gdata (p : Arrival) (m : PageMsg) : RoundTrip.Statement (.gdata p m) := fun _ h => nomatch h
theorem RoundTrip.gdone (p : Arrival) (m : PageMsg) : RoundTrip.Statement (.gdone p m) := fun _ h => nomatch h
theorem RoundTrip.dreq (p : Arrival) (m : PageMsg) : RoundTrip.Statement (.dreq p m) := fun _ h => nomatch h
theorem RoundTrip.drain (p : Arrival) (m : PageMsg) : RoundTrip.Statement (.drain p m) := fun _ h => nomatch h
theorem RoundTrip.dsum (p : Arrival) (m : PageMsg) : RoundTrip.Statement (.dsum p m) := fun _ h => nomatch h
theorem RoundTrip.ddone (p : Arrival) (m : PageMsg) : RoundTrip.Statement (.ddone p m) := fun _ h => nomatch h
theorem RoundTrip.pageEnd (p : Arrival) (m : PageMsg) : RoundTrip.Statement (.pageEnd p m) := fun _ h => nomatch h
theorem RoundTrip.fetch (p : Arrival) (m : PageMsg) : RoundTrip.Statement (.fetch p m) := fun _ h => nomatch h
theorem RoundTrip.fdata (p : Arrival) (m : PageMsg) : RoundTrip.Statement (.fdata p m) := fun _ h => nomatch h
theorem RoundTrip.busy (p : Arrival) (m : PageMsg) : RoundTrip.Statement (.busy p m) := fun _ h => nomatch h
theorem RoundTrip.busyRetry (index : Nat) : RoundTrip.Statement (.busyRetry index) := fun _ h => nomatch h
theorem RoundTrip.fail (p : Arrival) (m : PageMsg) : RoundTrip.Statement (.fail p m) := fun _ h => nomatch h
theorem RoundTrip.pageTimeout (job : BitVec 16) (va : DWord) (rank : BitVec 6) : RoundTrip.Statement (.pageTimeout job va rank) := fun _ h => nomatch h
theorem RoundTrip.read (p : Arrival) (tag : BitVec 12) (addr : BitVec 52) (lines : BitVec 4) : RoundTrip.Statement (.read p tag addr lines) := fun _ h => nomatch h
theorem RoundTrip.write (p : Arrival) (tag : BitVec 12) (addr : BitVec 52) (bytes : List (Nat × Byte)) (mstVa : Option DWord) : RoundTrip.Statement (.write p tag addr bytes mstVa) := fun _ h => nomatch h
theorem RoundTrip.atomReq (p : Arrival) (tag : BitVec 12) (addr : BitVec 52) (aop : BitVec 4) (form : AtomForm) (x y : DWord) : RoundTrip.Statement (.atomReq p tag addr aop form x y) := fun _ h => nomatch h
theorem RoundTrip.redReq (p : Arrival) (tag : BitVec 12) (addr : BitVec 52) (aop : BitVec 4) (form : AtomForm) (x : DWord) : RoundTrip.Statement (.redReq p tag addr aop form x) := fun _ h => nomatch h
theorem RoundTrip.redmReq (p : Arrival) (tag : BitVec 12) (addr : BitVec 52) (aop : BitVec 4) (words : List (Nat × Word)) : RoundTrip.Statement (.redmReq p tag addr aop words) := fun _ h => nomatch h
theorem RoundTrip.eread (p : Arrival) (tag : BitVec 12) (addr : BitVec 52) (count : Nat) : RoundTrip.Statement (.eread p tag addr count) := fun _ h => nomatch h
theorem RoundTrip.ewrite (p : Arrival) (tag : BitVec 12) (addr : BitVec 52) (bytes : List Byte) : RoundTrip.Statement (.ewrite p tag addr bytes) := fun _ h => nomatch h
theorem RoundTrip.cstep (p : Arrival) (tag : BitVec 12) (m : CStep) : RoundTrip.Statement (.cstep p tag m) := fun _ h => nomatch h
theorem RoundTrip.cmatch (p : Arrival) (tag : BitVec 12) (sgid : BitVec 12) (pair : Word) (srcRank : BitVec 6) (t : CTuple) : RoundTrip.Statement (.cmatch p tag sgid pair srcRank t) := fun _ h => nomatch h
theorem RoundTrip.collTimeout (sgid : BitVec 12) (pair : Word) : RoundTrip.Statement (.collTimeout sgid pair) := fun _ h => nomatch h
theorem RoundTrip.rdata (p : Arrival) (tag : BitVec 12) (status : BitVec 8) (bytes : List Byte) : RoundTrip.Statement (.rdata p tag status bytes) := fun _ h => nomatch h
theorem RoundTrip.areply (p : Arrival) (tag : BitVec 12) (status : BitVec 8) (old : DWord) : RoundTrip.Statement (.areply p tag status old) := fun _ h => nomatch h
theorem RoundTrip.ack (p : Arrival) (tag : BitVec 12) : RoundTrip.Statement (.ack p tag) := fun _ h => nomatch h
theorem RoundTrip.nack (p : Arrival) (tag : BitVec 12) (status : BitVec 8) : RoundTrip.Statement (.nack p tag status) := fun _ h => nomatch h
theorem RoundTrip.remoteLoadTimeout (frag : Nat) : RoundTrip.Statement (.remoteLoadTimeout frag) := fun _ h => nomatch h
theorem RoundTrip.storeAckTimeout (tag : BitVec 12) : RoundTrip.Statement (.storeAckTimeout tag) := fun _ h => nomatch h
theorem RoundTrip.aret (p : Arrival) (retReq retPage : Half) (delReq delRsp delPage : Word) : RoundTrip.Statement (.aret p retReq retPage delReq delRsp delPage) := fun _ h => nomatch h
theorem RoundTrip.allowanceReturnTimer (peer : BitVec 11) : RoundTrip.Statement (.allowanceReturnTimer peer) := fun _ h => nomatch h
theorem RoundTrip.ready (p : Arrival) (sgid : BitVec 12) (start : DWord) : RoundTrip.Statement (.ready p sgid start) := fun _ h => nomatch h
theorem RoundTrip.sabort (p : Arrival) (sgid : BitVec 12) (reason : BitVec 8) (start : DWord) (late : DWord) : RoundTrip.Statement (.sabort p sgid reason start late) := fun _ h => nomatch h
theorem RoundTrip.tide (p : Arrival) (sgid : BitVec 12) (pair : Word) (t0 : DWord) : RoundTrip.Statement (.tide p sgid pair t0) := fun _ h => nomatch h
theorem RoundTrip.timeq (p : Arrival) (t1 : DWord) : RoundTrip.Statement (.timeq p t1) := fun _ h => nomatch h
theorem RoundTrip.timer (p : Arrival) (t1 t2 t3 : DWord) : RoundTrip.Statement (.timer p t1 t2 t3) := fun _ h => nomatch h
theorem RoundTrip.sliceStart (sgid : BitVec 12) : RoundTrip.Statement (.sliceStart sgid) := fun _ h => nomatch h
theorem RoundTrip.sliceGraceExpire (sgid : BitVec 12) : RoundTrip.Statement (.sliceGraceExpire sgid) := fun _ h => nomatch h
theorem RoundTrip.routeHoldTimeout (dst : BitVec 11) (cls : BitVec 2) : RoundTrip.Statement (.routeHoldTimeout dst cls) := fun _ h => nomatch h
theorem RoundTrip.linkRestrict (port : BitVec 5) (missing : List Nat) : RoundTrip.Statement (.linkRestrict port missing) := fun _ h => nomatch h
theorem RoundTrip.tideFallback (sgid : BitVec 12) (pair : Word) : RoundTrip.Statement (.tideFallback sgid pair) := fun _ h => nomatch h
theorem RoundTrip.tideHoldEnd (job : BitVec 16) : RoundTrip.Statement (.tideHoldEnd job) := fun _ h => nomatch h
theorem RoundTrip.cooperativeSave (block : Nat) : RoundTrip.Statement (.cooperativeSave block) := fun _ h => nomatch h
theorem RoundTrip.forcedSave (block : Nat) : RoundTrip.Statement (.forcedSave block) := fun _ h => nomatch h
theorem RoundTrip.blockEnd (block : Nat) : RoundTrip.Statement (.blockEnd block) := fun _ h => nomatch h
theorem RoundTrip.errorConsume (frag : Nat) (addr : DWord) : RoundTrip.Statement (.errorConsume frag addr) := fun _ h => nomatch h
theorem RoundTrip.selfTest (cls : Unit9) (unit : BitVec 32) (pass : Bool) : RoundTrip.Statement (.selfTest cls unit pass) := fun _ h => nomatch h
theorem RoundTrip.coreRetire (core : Nat) : RoundTrip.Statement (.coreRetire core) := fun _ h => nomatch h
theorem RoundTrip.laneRemap (core : Nat) (part : BitVec 2) (lane : BitVec 6) : RoundTrip.Statement (.laneRemap core part lane) := fun _ h => nomatch h
theorem RoundTrip.channelRetire (channel : BitVec 8) : RoundTrip.Statement (.channelRetire channel) := fun _ h => nomatch h
theorem RoundTrip.read64 (tag : BitVec 12) (channel : BitVec 8) (offset : BitVec 31) : RoundTrip.Statement (.read64 tag channel offset) := fun _ h => nomatch h
theorem RoundTrip.read256 (tag : BitVec 12) (channel : BitVec 8) (offset : BitVec 31) : RoundTrip.Statement (.read256 tag channel offset) := fun _ h => nomatch h
theorem RoundTrip.hbmWrite (tag : BitVec 12) (channel : BitVec 8) (offset : BitVec 31) (bytes : List (Nat × Byte)) : RoundTrip.Statement (.hbmWrite tag channel offset bytes) := fun _ h => nomatch h
theorem RoundTrip.hbmAtom (tag : BitVec 12) (channel : BitVec 8) (offset : BitVec 31) (aop : BitVec 4) (wide : Bool) (x y : DWord) : RoundTrip.Statement (.hbmAtom tag channel offset aop wide x y) := fun _ h => nomatch h
theorem RoundTrip.hbmRedm (tag : BitVec 12) (channel : BitVec 8) (offset : BitVec 31) (aop : BitVec 4) (words : List (Nat × Word)) : RoundTrip.Statement (.hbmRedm tag channel offset aop words) := fun _ h => nomatch h
theorem RoundTrip.apertureRead (host : Nat) (loc : BitVec 40) (count : Nat) : RoundTrip.Statement (.apertureRead host loc count) := fun _ h => nomatch h
theorem RoundTrip.apertureWrite (host : Nat) (loc : BitVec 40) (bytes : List Byte) : RoundTrip.Statement (.apertureWrite host loc bytes) := fun _ h => nomatch h
theorem RoundTrip.stagingWrite (port : BitVec 3) (off : BitVec 24) (bytes : List Byte) : RoundTrip.Statement (.stagingWrite port off bytes) := fun _ h => nomatch h
theorem RoundTrip.bootgo (write : PortWrite) : RoundTrip.Statement (.bootgo write) := fun _ h => nomatch h
theorem RoundTrip.registerWrite (off : BitVec 40) (write : HostWrite DWord) : RoundTrip.Statement (.registerWrite off write) := fun _ h => nomatch h
theorem RoundTrip.jobOpen (job : BitVec 16) (root : BitVec 52) (key : BitVec 32) : RoundTrip.Statement (.jobOpen job root key) := fun _ h => nomatch h
theorem RoundTrip.jobClose (job : BitVec 16) : RoundTrip.Statement (.jobClose job) := fun _ h => nomatch h
theorem RoundTrip.queueConfig (queue : BitVec 16) (size : Nat) (job : BitVec 16) (preempt : Bool) (pdl : Nat) (enable : Bool) : RoundTrip.Statement (.queueConfig queue size job preempt pdl enable) := fun _ h => nomatch h
theorem RoundTrip.queueReset (queue : BitVec 12) : RoundTrip.Statement (.queueReset queue) := fun _ h => nomatch h
theorem RoundTrip.keyLoad (job : BitVec 16) (handle : BitVec 16) (key : Option (BitVec 512)) : RoundTrip.Statement (.keyLoad job handle key) := fun _ h => nomatch h
theorem RoundTrip.groupWrite (sgid : BitVec 12) (entry : BitVec 2048) : RoundTrip.Statement (.groupWrite sgid entry) := fun _ h => nomatch h
theorem RoundTrip.map (job : BitVec 16) (va : DWord) (leaf : BitVec 128) : RoundTrip.Statement (.map job va leaf) := fun _ h => nomatch h
theorem RoundTrip.grant (host : Nat) (frame : Nat) (count : Nat) (give : Bool) : RoundTrip.Statement (.grant host frame count give) := fun _ h => nomatch h
theorem RoundTrip.routeLoad (first : BitVec 11) (entries : List RouteEntry) (commit : Bool) : RoundTrip.Statement (.routeLoad first entries commit) := fun _ h => nomatch h
theorem RoundTrip.admitKeys (port : BitVec 5) (keys : List (BitVec 32)) : RoundTrip.Statement (.admitKeys port keys) := fun _ h => nomatch h
theorem RoundTrip.slice (sgid : BitVec 12) (start : DWord) (grace : Word) : RoundTrip.Statement (.slice sgid start grace) := fun _ h => nomatch h
theorem RoundTrip.preempt (who : PreemptTarget) : RoundTrip.Statement (.preempt who) := fun _ h => nomatch h
theorem RoundTrip.pgovWrite (value : DWord) : RoundTrip.Statement (.pgovWrite value) := fun _ h => nomatch h
theorem RoundTrip.quote (nonce : BitVec 256) : RoundTrip.Statement (.quote nonce) := fun _ h => nomatch h
theorem RoundTrip.debug (warp : Nat) (act : DebugAct) : RoundTrip.Statement (.debug warp act) := fun _ h => nomatch h
theorem RoundTrip.saveArea (job : BitVec 16) (va : DWord) (len : DWord) : RoundTrip.Statement (.saveArea job va len) := fun _ h => nomatch h
theorem RoundTrip.reservedRequest (code : BitVec 16) : RoundTrip.Statement (.reservedRequest code) := fun _ h => nomatch h
theorem RoundTrip.scrub (line : Nat) (wrong : BitVec 72) : RoundTrip.Statement (.scrub line wrong) := fun _ h => nomatch h
theorem RoundTrip.linkTraining (link : LinkKind) (ok : Bool) : RoundTrip.Statement (.linkTraining link ok) := fun _ h => nomatch h
theorem RoundTrip.timeqSend (peer : BitVec 11) : RoundTrip.Statement (.timeqSend peer) := fun _ h => nomatch h
theorem RoundTrip.sliceAbortRequest (sgid : BitVec 12) : RoundTrip.Statement (.sliceAbortRequest sgid) := fun _ h => nomatch h
theorem RoundTrip.gridEndRequest (grid : GridId) : RoundTrip.Statement (.gridEndRequest grid) := fun _ h => nomatch h
theorem RoundTrip.governorPeriod : RoundTrip.Statement .governorPeriod := fun _ h => nomatch h
theorem RoundTrip.pgovRead : RoundTrip.Statement .pgovRead := fun _ h => nomatch h
theorem RoundTrip.reset : RoundTrip.Statement .reset := fun _ h => nomatch h
theorem RoundTrip.warmReset : RoundTrip.Statement .warmReset := fun _ h => nomatch h
theorem RoundTrip.coldReset : RoundTrip.Statement .coldReset := fun _ h => nomatch h
theorem RoundTrip.resetPin : RoundTrip.Statement .resetPin := fun _ h => nomatch h

end Sys2Proof.Laws
end

