-- ==== Sys2Proof/Tests/Slice0.lean ====
section
/-! SUPPORT. Tests: words of the encodings, ill-formed terms, single steps with values worked out by hand from the
manual, and for each obligation with hypotheses a state and operands that meet them together. -/

namespace Sys2Proof.Tests
open Sys2Proof

/-! ## Decoding (05 R79 to R85; a word in hexadecimal is one that the manual prints, the others are written
out field by field from the tables of the entries) -/

/-- A base word of R79 with G = 111, GN = 0 and no chain bit. -/
def wordVR (op : BitVec 7) (d a b : BitVec 6) (m : BitVec 2) : Word := 0#1 ++ op ++ 7#3 ++ 0#1 ++ d ++ a ++ b ++ m

/-- The guard of `wordVR`. -/
def always : Head := { chain := false, g := 7, neg := false }

/-- A guard on predicate 1 and its negation. -/
def onP1 : Head := { chain := false, g := 1, neg := false }

/-- A memory operand without an index (R82). -/
def memAt (a : BitVec 6) (sp : Space) (wd : BitVec 3) (imm : BitVec 12) : MemOp :=
  { a, b := 0, ix := false, e := 0, sp, col := 0, wd, sg := false, os := 0, q := 0, imm }

/-- Every pair of words of a table decodes to its instruction. -/
def decodes (l : List (Word × Word × Instr)) : Bool := l.all (fun x => decide (decodeWords x.1 x.2.1 = .ok x.2.2))

/-- R118 to R126. -/
theorem test_decode_integer : decodes [
    (0x00000000, 0, .nop false),
    (0x81410518, 0, .iadd { chain := true, g := 2, neg := false } 4 5 6),
    (wordVR 0x02 1 2 3 0, 0, .isub always 1 2 3),
    (wordVR 0x03 1 2 3 0, 0, .imul always 1 2 3),
    (wordVR 0x04 1 2 3 2, 0, .imulh always 1 2 3 .ni),
    (wordVR 0x05 1 2 3 0, 4#6 ++ 0#26, .imad always 1 2 3 4),
    (wordVR 0x06 1 2 3 1, 0, .imin always 1 2 3 true),
    (wordVR 0x07 1 2 3 0, 0, .imax always 1 2 3 false),
    (wordVR 0x08 1 2 0 0, 0, .iabs always 1 2),
    (wordVR 0x09 1 2 3 0, 0, .ishl always 1 2 3),
    (wordVR 0x0A 1 2 3 0, 0, .ishr always 1 2 3),
    (wordVR 0x0B 1 2 3 0, 0, .isar always 1 2 3),
    (wordVR 0x0C 1 2 3 0, 0, .and always 1 2 3),
    (wordVR 0x0D 1 2 3 0, 0, .or always 1 2 3),
    (wordVR 0x0E 1 2 3 0, 0, .xor always 1 2 3),
    (wordVR 0x0F 1 2 3 0, 0, .andn always 1 2 3),
    (wordVR 0x10 1 2 0 0, 0, .popc always 1 2),
    (wordVR 0x11 1 2 0 0, 0, .clz always 1 2),
    (wordVR 0x12 1 2 0 0, 0, .brev always 1 2),
    (wordVR 0x13 1 2 0 0, 0#6 ++ 0#14 ++ 1#1 ++ 32#6 ++ 5#5, .bfx always 1 2 5 32 true),
    (wordVR 0x14 1 2 3 0, 0#6 ++ 0#15 ++ 8#6 ++ 5#5, .bfi always 1 2 3 5 8),
    (wordVR 0x15 1 2 3 0, 0#6 ++ 0#21 ++ 9#5, .lea always 1 2 3 9),
    (wordVR 0x16 1 2 3 0, 0#3 ++ 5#3 ++ 0#26, .sel always 1 2 3 5),
    (0x1720420C, 0x0000000A, .icmp onP1 1 2 3 true .lt),
    (wordVR 0x18 1 2 0 0, 0, .mov always 1 2)] = true := by decide

theorem test_decode_immediate : decodes [
    (wordVR 0x19 1 0 0x20 1, 0, .movi always 1 0x81),
    (0x1FE04001, 0, .iaddi always 1 0 1),
    (wordVR 0x1A 1 0 0 0, 0x89ABCDEF, .limm always 1 0x89ABCDEF),
    (0x3EE18038, 0, .fmovi always 6 0x38),
    (0x1BE0C11D, 0, .plog always 3 1 7 1),
    (0x1CE00000, 0, .vsrr always 0 0),
    (wordVR 0x1C 2 1 3 1, 0, .vsrw always 2 0x043),
    (wordVR 0x1D 1 2 3 2, 4#6 ++ 0#26, .dot4i always 1 2 3 4 true false),
    (wordVR 0x1E 1 2 3 0, 4#6 ++ 0#22 ++ 1#1 ++ 2#3, .dot2h always 1 2 3 4 2 true)] = true := by decide

/-- R128 to R134. -/
theorem test_decode_float : decodes [
    (wordVR 0x20 1 2 3 1, 0, .fadd always 1 2 3 1),
    (wordVR 0x21 1 2 3 2, 0, .fsub always 1 2 3 2),
    (wordVR 0x22 1 2 3 3, 0, .fmul always 1 2 3 3),
    (0x23E0C108, 0x10000001, .ffma always 3 1 2 4 1 false false),
    (wordVR 0x23 3 1 2 0, 4#6 ++ 0#21 ++ 0#1 ++ 1#1 ++ 0#3, .ffma always 3 1 2 4 0 true false),
    (wordVR 0x24 1 2 3 0, 0, .fmac always 1 2 3 0),
    (wordVR 0x25 1 2 3 0, 0, .fmin always 1 2 3),
    (wordVR 0x26 1 2 3 0, 0, .fmax always 1 2 3),
    (wordVR 0x27 1 2 0 2, 0, .fsgn always 1 2 .negabs),
    (wordVR 0x28 1 2 3 0, 0#6 ++ 0#23 ++ 6#3, .fcmp always 1 2 3 6),
    (wordVR 0x29 1 2 0 0, 0#6 ++ 0#16 ++ 0x201#10, .fclass always 1 2 0x201),
    (wordVR 0x2A 1 2 0 3, 0, .frnd always 1 2 3),
    (wordVR 0x2B 1 2 3 1, 0, .hadd2 always 1 2 3 true),
    (wordVR 0x2C 1 2 3 0, 0, .hmul2 always 1 2 3 false),
    (wordVR 0x2D 1 2 3 0, 4#6 ++ 0#22 ++ 1#1 ++ 3#3, .hfma2 always 1 2 3 4 3 true),
    (wordVR 0x2E 1 2 3 0, 0, .hmin2 always 1 2 3 false),
    (wordVR 0x2F 1 2 3 1, 0, .hmax2 always 1 2 3 true),
    (wordVR 0x3D 1 2 3 1, 0, .fscl always 1 2 3 1)] = true := by decide

/-- R135 to R141. -/
theorem test_decode_convert : decodes [
    (0x30E08100, 0x00000421, .cvt always 2 1 1 2 4 false),
    (wordVR 0x31 2 1 3 0, 0#6 ++ 0#13 ++ 1#1 ++ 1#1 ++ 2#3 ++ 0#4 ++ 5#4, .cvtp always 2 1 3 5 2 true true),
    (wordVR 0x32 2 1 0 0, 0#6 ++ 0#19 ++ 7#3 ++ 10#4, .cvtu always 2 1 10 7),
    (wordVR 0x3B 2 1 3 0, 0#6 ++ 0#23 ++ 6#3, .qdec always 2 1 3 6),
    (0x3CE14400, 0x00000005, .qenc always 5 4 1 false),
    (wordVR 0x3C 5 4 0 0, 0#6 ++ 0#22 ++ 2#2 ++ 3#2, .qenc always 5 4 3 true),
    (wordVR 0x33 1 2 0 0, 0, .rcp always 1 2),
    (wordVR 0x34 1 2 0 0, 0, .rsq always 1 2),
    (wordVR 0x35 1 2 0 0, 0, .sqrt always 1 2),
    (wordVR 0x36 1 2 0 0, 0, .exp2 always 1 2),
    (wordVR 0x37 1 2 0 0, 0, .log2 always 1 2),
    (wordVR 0x38 1 2 0 0, 0, .sinp always 1 2),
    (wordVR 0x39 1 2 0 0, 0, .cosp always 1 2),
    (wordVR 0x3A 1 2 0 0, 0, .tanh always 1 2)] = true := by decide

/-- R144 to R147. -/
theorem test_decode_uniform : decodes [
    (0x40E0C108, 0, .sadd false 3 1 2),
    (wordVR 0x41 1 2 3 0, 0, .ssub false 1 2 3),
    (wordVR 0x42 1 2 3 0, 0, .smul false 1 2 3),
    (wordVR 0x43 1 2 3 0, 4#6 ++ 0#26, .smad false 1 2 3 4),
    (wordVR 0x44 1 2 3 2, 0, .sshf false 1 2 3 .sar),
    (wordVR 0x45 1 2 3 3, 0, .slog false 1 2 3 3),
    (wordVR 0x46 1 2 3 1, 0, .sminmax false 1 2 3 1),
    (wordVR 0x47 1 2 0 0, 0, .smov false 1 2),
    (wordVR 0x48 1 0 0x3F 3, 0, .smovi false 1 0xFF),
    (wordVR 0x49 1 0 0 1, 0x89ABCDEF, .slimm false 1 true 0x89ABCDEF),
    (0x4AE04C34, 0, .scmp false 1 12 13 false .eq),
    (wordVR 0x4B 1 2 3 0, 0#6 ++ 0xFFFFF#20 ++ 63#6, .slea false 1 2 3 63 0xFFFFF),
    (0x4CE10000, 0x00000020, .srr false 4 0x020),
    (wordVR 0x4D 0 2 0 0, 0#6 ++ 0#14 ++ 0x020#12, .srw false 2 0x020)] = true := by decide

/-- R150 to R168, R289, R332. -/
theorem test_decode_control : decodes [
    (0#1 ++ 0x50#7 ++ 1#3 ++ 1#1 ++ 0xFFFFE#20, 0, .bra { chain := false, g := 1, neg := true } 0xFFFFE),
    (0x51EFFFFF, 0, .bru always 0xFFFFF),
    (0x52E00005, 0, .call always 5),
    (0x53E00409, 0, .calli always 4 2 true),
    (wordVR 0x54 0 4 0 0, 0, .jmpi always 4 0 false),
    (0x55200000, 0, .ret onP1),
    (0x56E00000, 0x02100000, .reform always 16 8),
    (0x57E0C000, 0x00000028, .spawn always 3 40),
    (0x58E00000, 0, .exit always),
    (0x59E00000, 0x00840000, .yield always 4 2),
    (0x5AE00210, 0x00000003, .balw false 2 4 3),
    (0x5BE10300, 0x0001001B, .shfl always 4 3 0 0 0 .zero false false 1 true .down),
    (0x5CE08100, 0x00000003, .vote always 2 1 0 .ballot false false),
    (0x5DE14200, 0x00000001, .redw always 5 2 0 .addF32 false false),
    (wordVR 0x5E 1 2 63 0, 5#6 ++ 0#19 ++ 1#1 ++ 1#1 ++ 1#1 ++ 10#4, .scanw always 1 2 63 5 .xor true true true),
    (0x5FE00000, 0, .elect always 0),
    (0x5FE0C715, 0, .rdlane always 3 7 5),
    (wordVR 0x5F 8 8 0 2, 0, .bcast always 8 8 0)] = true := by decide

/-- R222 to R232. -/
theorem test_decode_memory : decodes [
    (0x60E10200, 0x00860010, .ld always 4 (memAt 2 .a 3 16)),
    (0x61E10B01, 0x0006C000, .st always 4 { memAt 11 .g 3 0 with ix := true, os := 3 }),
    (0x4EE04000, 0x00060000, .sld false 1 (memAt 0 .g 3 0)),
    (wordVR 0x4F 1 2 0 0, 0#6 ++ 5#3 ++ 6#3 ++ 1#3 ++ 0#1 ++ 0#2 ++ 0#2 ++ 0xFFF#12,
      .sst false 1 { memAt 2 .t 1 0xFFF with col := 6 }),
    (0x62E20300, 0x00881020, .ldf always 8 { memAt 3 .a 4 32 with q := 1 }),
    (wordVR 0x63 8 3 0 0, 0#6 ++ 2#3 ++ 1#3 ++ 2#3 ++ 0#1 ++ 0#2 ++ 0#2 ++ 4#12, .stf always 8 { memAt 3 .w 2 4 with col := 1 }),
    (0x64E14305, 0x18048000, .atom always 5 { memAt 3 .g 2 0 with b := 1, ix := true, e := 6, os := 2 }),
    (0x65008400, 0x00061000, .red { chain := false, g := 0, neg := false } 2 { memAt 4 .g 3 0 with q := 1 }),
    (wordVR 0x66 4 3 0 0, 0#6 ++ 0#3 ++ 0#3 ++ 4#3 ++ 0#1 ++ 0#2 ++ 0#2 ++ 8#4 ++ 0x10#8, .redm always 4 (memAt 3 .g 4 0x810)),
    (0x67E14201, 0x1C048000, .mst always 5 { memAt 2 .g 2 0 with ix := true, e := 7, os := 2 }),
    (wordVR 0x68 4 3 2 1, 0#6 ++ 0#3 ++ 0#3 ++ 2#3 ++ 0#1 ++ 0#2 ++ 0#2 ++ 0#12, .lde always 4 { memAt 3 .g 2 0 with b := 2, ix := true }),
    (wordVR 0x69 0 3 0 0, 0#6 ++ 5#3 ++ 0#3 ++ 0#3 ++ 0#1 ++ 0#2 ++ 1#2 ++ 8#12, .touch always { memAt 3 .t 0 8 with q := 1 }),
    (wordVR 0x6A 0 3 0 0, 0#6 ++ 0#3 ++ 0#3 ++ 0#3 ++ 0#1 ++ 0#2 ++ 0#2 ++ 8#12, .evict always (memAt 3 .g 0 8)),
    (wordVR 0x7E 0 3 2 1, 0#6 ++ 0#3 ++ 0#3 ++ 0#3 ++ 0#1 ++ 1#2 ++ 0#2 ++ 8#12,
      .pref always { memAt 3 .g 0 8 with b := 2, ix := true, os := 1 })] = true := by decide

/-- R236 to R248. -/
theorem test_decode_engine_matrix : decodes [
    (0x6BE1061C, 0x24848000, .cpy false 4 6 7 9 .a .g 2 .bar),
    (0x6CE10628, 0x2402FC1F, .cpyt false 4 6 10 9 false false 1 .bar 31 31),
    (0x6DE00000, 0x24070005, .qfence false 9 3 .cnt 5),
    (0x6EE04200, 0x00804000, .ldt always 1 2 .a 4 0),
    (wordVR 0x6F 1 2 0 0, 0#6 ++ 1#3 ++ 2047#11 ++ 0x800#12, .stt always 1 2 2047 0x800),
    (0x70E04008, 0x00000022, .mma always 1 0 2 0 false .tile 2 2),
    (0x70E08020, 0x28000304, .mma always 2 0 8 10 false .tlr 0 4),
    (0x71E00008, 0x00000022, .mmaz always 0 0 2 0 false .tile 2 2),
    (0x72E0C114, 0, .accrd always 3 1 5 false),
    (wordVR 0x73 2 4 7 1, 0, .accwr always 2 4 7 true),
    (0x74E04400, 0x01840100, .accld always 1 4 256),
    (0x75E01400, 0x01840000, .accst always 0 20 0),
    (0x76E08000, 0, .accz always 2),
    (0x77E00300, 0, .txp always 0 3 false)] = true := by decide

/-- R270 to R288, R308, R312. -/
theorem test_decode_sync : decodes [
    (0x78E00000, 0x018000FF, .fence always true 4 0xFF),
    (0x78E00000, 0x00800002, .fence always false 4 0x02),
    (0x79E18400, 0, .acq always 6 4 0),
    (0x79E00415, 0x00800000, .rel always 4 5 4 false 0),
    (0x79E28826, 0x00000003, .bind false 10 8 9 3),
    (0x7AE00014, 0x00020000, .bar always 5 2),
    (wordVR 0x7A 0 0 5 0, 0#6 ++ 1#3 ++ 0#3 ++ 3#4 ++ 0#4 ++ 0#12, .gbar always 5 3),
    (0x7AE0041C, 0x01100000, .barm false 4 7 0),
    (wordVR 0x7A 0 4 7 0, 0#6 ++ 3#3 ++ 1#3 ++ 0#4 ++ 0#4 ++ 8#12, .bara false 4 7 8),
    (0x7AE00418, 0x02100000, .barw false 4 6 0),
    (0x7AE04418, 0x02900000, .bart false 1 4 6 0),
    (0x7AE00308, 0x03000008, .waitc false 3 2 false 8),
    (0x7BE08500, 0, .pin false 2 5),
    (0x7BE08001, 0, .unpin false 2),
    (0x7BE18502, 0, .reclaim false 6 5),
    (0x7BE18003, 0, .reclaimd false 6),
    (0x7CE0C202, 0, .alw false 3 2),
    (0x7CE00400, 0, .coll false 4),
    (0x7CE14401, 0, .collw false 5 4)] = true := by decide

/-- R329, R333. -/
theorem test_decode_trap : decodes [
    (0x7DE00000, 0x0000002A, .trap always 0x2A),
    (0x7D600002, 0x00000007, .brk { chain := false, g := 3, neg := false } 7),
    (0x7DE00001, 0x00000000, .rett false .retry),
    (0x7DE00001, 0x00000001, .rett false .skip),
    (0x7DE00001, 0x00000002, .rett false .subst),
    (0x7EE10000, 0, .preq false 4)] = true := by decide

/-- R81, R85: reserved opcodes and codes, unused fields, an extension past the packet (R77). -/
theorem test_decode_refuses :
    decodeWords 0x3FE00000 0 = .error .reservedOpcode
    ∧ decodeWords (wordVR 0x04 1 2 3 3) 0 = .error .reservedCode
    ∧ decodeWords (wordVR 0x01 1 2 3 1) 0 = .error .unusedField
    ∧ decodeWords 0x60E10200 0x008A0010 = .error .illFormed
    ∧ decodeSlot #v[0, 0, wordVR 0x05 1 2 3 0] 2 = .error .extensionPastPacket := by decide

end Sys2Proof.Tests

open Sys2Proof Sys2Proof.Machine Sys2Proof.Claim
namespace Sys2Proof.Tests

/- One theorem at a time: each that waits for the kernel holds a thread. -/
set_option Elab.async false

/-! ## Small states for the witnesses -/

/-- The kernel, grid, block, warp and fragment of a placed instruction (log 5). -/
def g0 : Grid := ⟨1, ⟨0, 0⟩, false, 0, placedLaunch, placedKernel, placedQuota, .released, 0, 1, [], 0, 0, 0, 0, 0, 0, false⟩
def b0 : Block := Block.born 2 1 0 0 0 placedKernel placedQuota 20000 0 [0] [] 0
def w0 : Warp := Warp.born 3 2 0 (Vector.ofFn (fun (l : Fin 32) => some (Thread.born l.val l.val 0))) 0
def f0 : Frag := Frag.born 4 3 64 0xFFFFFFFF#32 0

/-- DSTAT of a device that is up. -/
def up : Dstat := ⟨0, false, true, true, true, true, false⟩
/-- The device with one placed block whose one fragment executes. -/
def at' (f : Frag) (w : Warp) (b : Block) (g : Grid) : State :=
  let s := State.reset.withFetchWord 32 0
  { s with
    fw := { s.fw with dstat := up }
    ctl := { s.ctl with agenda := [], cur := some 4 }
    work := { s.work with grids := [g], blocks := [b], warps := [w], frags := [f] } }
def s0 : State := at' f0 w0 b0 g0

/-- The fragment with lane 0 only. -/
def f1 : Frag := { f0 with mask := 1 }

/-- A 1 GiB page at VA 0 over HBM from 0, readable, writable, coherent for watches, its translation held. -/
def dataLeaf : BitVec 128 := BitVec.ofNat 128 (1 + 4 + 8 + 32 + 2 ^ 17)
def paged (e : BitVec 128) (s : State) : State :=
  let t := s.putPte (placedRoot + 16384) e
  { t with mem := { t.mem with l1 := [⟨0, 0, 0⟩] } }
def leafOf (e : BitVec 128) : Leaf := ⟨0, placedRoot + 16384, e, 0, 2 ^ 30⟩

theorem witness_runs : Runs s0 f0 w0 b0 g0 := ⟨rfl, rfl, rfl⟩
theorem witness_one_lane : Runs (at' f1 w0 b0 g0) f1 w0 b0 g0 ∧ activeMask f1 always = 1 := ⟨⟨rfl, rfl, rfl⟩, by decide⟩
theorem witness_registers : HasV b0 [0, 63] ∧ HasU b0 [0, 62, 63] ∧ HasT b0 [3] ∧ HasA b0 [3] := by
  refine ⟨?_, ?_, ?_, ?_⟩ <;> simp [HasV, HasU, HasT, HasA] <;> decide
theorem only_lane (l : Nat) (h : (1#32).getLsbD l = true) : l = 0 := by
  by_contra hl; have := BitVec.getLsbD_one (w := 32) (i := l); simp_all
theorem lanes_below (m : Mask) (l : Nat) (h : m.getLsbD l = true) : l < 32 := by
  by_contra hl; simp [BitVec.getLsbD_of_ge m l (by omega)] at h
theorem drained_of (s : State) (b : Block) (h : (s.work.blocks.all (fun x => x.fsb.isEmpty && x.bsb.isEmpty && x.wire.isEmpty) && b.fsb.isEmpty
    && b.bsb.isEmpty && b.wire.isEmpty && s.sync.redms.isEmpty && s.sync.deliveries.isEmpty) = true) : Drained s b := by
  simp only [Bool.and_eq_true, List.all_eq_true, List.isEmpty_iff] at h
  obtain ⟨⟨⟨⟨⟨hb, h1⟩, h2⟩, h3⟩, h4⟩, h5⟩ := h
  refine ⟨fun x hx _ => ⟨(hb x hx).1.1, (hb x hx).1.2, (hb x hx).2⟩, ⟨h1, h2, h3⟩, ?_, ?_⟩
  · rw [h4]; intro d hd; cases hd
  · rw [h5]; intro d hd; cases hd
theorem nothing_early (s : State) (w : Warp) (m : Mask) (h : s.sync.early = []) : NothingEarly s w m := by
  intro e he; rw [h] at he; cases he
theorem witness_drained : Drained s0 b0 := drained_of _ _ (by decide)

/-! ## Integer, predicate, uniform and special registers -/

theorem witness_IntegerResults : (∃ i r, IntegerRow i r ∧ Runs s0 f0 w0 b0 g0 ∧ HasV b0 (r.d :: r.reads))
    ∧ HasV b0 [0, 1, 63] ∧ (1 ≤ (1#6).toNat ∧ (32#6).toNat ≤ 32) :=
  ⟨⟨_, _, .ishl always 0 1 63, witness_runs, by simp [HasV]; decide⟩, by simp [HasV]; decide, by decide⟩
theorem witness_PredicateResults : ∃ i r, PredicateRow i r ∧ Runs s0 f0 w0 b0 g0 ∧ HasV b0 r.readsV ∧ HasU b0 r.readsU :=
  ⟨_, _, .scmpI false 6 62 63 .lt, witness_runs, by simp [HasV], by simp [HasU]; decide⟩
theorem witness_UniformResults : ∃ i r, UniformRow i r ∧ Runs s0 f0 w0 b0 g0 ∧ HasU b0 (r.d :: r.reads) :=
  ⟨_, _, .smad false 63 0 62 63, witness_runs, by simp [HasU]; decide⟩
theorem witness_RegisterFiles : ∃ x ∈ (at' f0 w0 b0 g0).work.frags, x.id ≠ 5 := ⟨f0, List.mem_singleton.mpr rfl, by decide⟩
/-- The fragment in handler mode. -/
def fh : Frag := { f0 with handler := true }
theorem witness_SpecialRegisters : (∃ x, x ∈ specialValues s0 f0 w0 b0 g0) ∧ HasU b0 [63] ∧ activeMask f0 always ≠ 0
    ∧ Runs (at' fh w0 b0 g0) fh w0 b0 g0 :=
  ⟨⟨_, by unfold specialValues; exact List.mem_cons_self ..⟩, by simp [HasU], by decide, ⟨rfl, rfl, rfl⟩⟩

/-! ## Floating point -/

/-- The warp with some exceptions enabled in lane 0. -/
def wx (xen : Word) : Warp := Warp.born 3 2 0 (Vector.ofFn (fun (l : Fin 32) => some { Thread.born l.val l.val 0 with xen := if l = 0 then xen else 0 })) 0
/-- V1 and V2 of every lane. -/
def fv (x y : Word) : Frag := (f0.setV 1 0xFFFFFFFF (fun _ => x)).setV 2 0xFFFFFFFF (fun _ => y)

theorem quiet_w0 (f : Frag) (act : Mask) (fl : Nat → Flags) : Quiet w0 f act fl := by
  refine .inr fun l e _ hl => ?_
  have h : ∀ l, l < 32 → w0.xen l = 0 := by decide
  have := h l (lanes_below act l hl)
  unfold Warp.xen at this
  unfold enabled
  revert this
  cases w0.threads.toList.getD l none <;> simp_all
theorem witness_FloatResults : ∃ i r, FloatRow i r ∧ Runs s0 f0 w0 b0 g0 ∧ HasV b0 (r.d :: r.reads)
    ∧ Quiet w0 f0 (activeMask f0 r.h) (fun l => (r.result f0 (activeMask f0 r.h) l).2) :=
  ⟨_, _, .ffma always 0 1 2 63 0 false false, witness_runs, by simp [HasV]; decide, quiet_w0 ..⟩
/-- R131: a signalling NaN under an enabled NV in lane 0. -/
theorem witness_FloatComparison : let f := fv 0x7F800001 0
    Runs (at' f (wx 0x10) b0 g0) f (wx 0x10) b0 g0 ∧ HasV b0 [1, 2] ∧ f.handler = false
    ∧ (∃ l, l < 32 ∧ (activeMask f always).getLsbD l ∧ enabled (wx 0x10) l (fpCompare 0 (fp32 (f.getV 1 l)) (fp32 (f.getV 2 l))).2 4 = true)
    ∧ Quiet w0 f (activeMask f always) (fun l => (fpCompare 0 (fp32 (f.getV 1 l)) (fp32 (f.getV 2 l))).2) :=
  ⟨⟨rfl, rfl, rfl⟩, by simp [HasV]; decide, rfl, ⟨0, by decide, by decide, by decide⟩, quiet_w0 ..⟩
/-- The first and the last exception of the priority order: NV of a signalling NaN, NX of 1 + 2^-30. -/
theorem witness_FloatTraps : ∃ i r, FloatRow i r ∧ HasV b0 (r.d :: r.reads) ∧ ∀ x ∈ [(0x7F800001#32, 4, 0x1F#32), (0x3F800000#32, 0, 1#32)],
    let f := fv x.1 0x30800000
    Runs (at' f (wx x.2.2) b0 g0) f (wx x.2.2) b0 g0 ∧ f.handler = false
    ∧ (∃ l, l < 32 ∧ (activeMask f r.h).getLsbD l ∧ enabled (wx x.2.2) l (r.result f (activeMask f r.h) l).2 x.2.1 = true)
    ∧ (∀ e, e < 5 → x.2.1 < e → ∀ l, l < 32 → enabled (wx x.2.2) l (r.result f (activeMask f r.h) l).2 e = false) := by
  refine ⟨_, _, .fadd always 0 1 2 0, by simp [HasV]; decide, ?_⟩
  intro x hx
  simp only [List.mem_cons, List.not_mem_nil, or_false] at hx
  rcases hx with rfl | rfl <;>
    exact ⟨⟨rfl, rfl, rfl⟩, rfl, ⟨0, by decide, by decide, by decide⟩, by decide⟩
/-- A NaN, both infinities, and 2.5, which rounds to 2; the code of a block and the scale that covers 6. -/
theorem witness_FloatResults_values : ((fmtOf 5).decode (0x7F % 2 ^ (fmtOf 5).width)).isNan = true ∧ (fmtOf 5).decode 0x7C = .inf false ∧ (fmtOf 5).decode 0xFC = .inf true
    ∧ (∃ n e, (fmtOf 1).decode 0x40200000 = .fin false n e ∧ val (.fin false n e) = 5 / 2) ∧ IntRounds .rne (5 / 2) 2 ∧ IntRounds .rdn (-5 / 2) (-3)
    ∧ integerOf 6 0xFFFFFF80 = -128 ∧ (mostOf 9 : ℚ) = 2 ^ 32 - 1 ∧ ([] : List Fv).any Fv.isNan = false ∧ [Fv.nan false].any Fv.isNan = true
    ∧ blockScale 1 [.fin false 6 0] ≤ 62 ∧ (∃ s n e, fp32 0x80000000 = .fin s n e) := by
  refine ⟨by decide, by decide, by decide, ⟨5 * 2 ^ 21, -22, by decide, by norm_num [val]⟩, ⟨by norm_num [abs], by norm_num⟩, ⟨by norm_num, by norm_num⟩, by decide,
    (by rw [show mostOf 9 = 2 ^ 32 - 1 by decide]; norm_num), rfl, rfl, by decide, ⟨true, 0, -149, by decide⟩⟩
/-- 465 is beyond the last E4M3 number and half a step; 464 is not. -/
theorem witness_RoundingFixesPatterns_range : TooLarge .e4m3 .rne false (465 * 2 ^ 0) ∧ ¬TooLarge .e4m3 .rne false (464 * 2 ^ 0) := by
  have h : Fmt.e4m3.decode Fmt.e4m3.maxFinite = .fin false 14 5 := by decide
  have k : halfStep .e4m3 = 16 := by norm_num [halfStep, Fmt.e4m3]
  constructor
  · exact .inr (.inr (.inr ⟨rfl, by rw [h, k]; norm_num [mag, Fmt.e4m3]⟩))
  · unfold TooLarge
    rw [h, k]
    norm_num [mag, Inward, Outward, Fmt.e4m3]
    exact ⟨by decide, by decide⟩
theorem witness_RoundingFixesPatterns : (Fmt.e4m3.decode 0x7E).isNan = false ∧ 0x7E < 2 ^ Fmt.e4m3.width ∧ (Fmt.fp32.decode 0).isNan = false := by decide
theorem witness_SpecialOperandsAndCodes : (fp32 0x7F800001).isSnan = true ∧ (fp32 0x80000001).isNan = false ∧ (fp32 0x80000001).isNeg = true
    ∧ (fp32 0x80000001).isZero = false := by decide

/-! ## Cross-lane and control transfer -/

theorem present_here (w : Warp) (f : Frag) (ln : Bool) (e : BitVec 6) : Present w f false ln e := .inr fun _ h => h.2.1 h.1

/-- Lane 0 with all 32 lanes named as members in s1. -/
def fm : Frag := f1.setU 1 0xFFFFFFFF
theorem witness_LaneExchanges : Present w0 f0 false false 0 ∧ (4#3).toNat ≤ 4 ∧ HasV b0 [63] ∧ HasU b0 [1] ∧ Runs (at' fm w0 b0 g0) fm w0 b0 g0
    ∧ ∃ l, l < 32 ∧ Absent w0 fm (memberMask fm true 1) l :=
  ⟨present_here .., by decide, by simp [HasV]; decide, by simp [HasU]; decide, ⟨rfl, rfl, rfl⟩, 31, by decide, by unfold Absent; decide⟩
theorem witness_Reductions : Present w0 f0 false false 0 ∧ (∀ fl, Quiet w0 f0 (activeMask f0 always) fl)
    ∧ ([0x7FC00000] : List Word).all (fun x => (fp32 x).isNan) = true ∧ ([0x7FC00000, 0] : List Word).all (fun x => (fp32 x).isNan) = false :=
  ⟨present_here .., quiet_w0 _ _, by decide, by decide⟩

theorem lists_all (f : Frag) (t : DWord) (h : (activeMask f always).getLsbD 0 = true) : Lists (activeMask f always) (fun _ => t) [t] :=
  ⟨List.pairwise_singleton .., fun x => by
    simp only [List.mem_singleton]; exact ⟨fun e => ⟨0, by decide, h, e.symm⟩, fun ⟨_, _, _, e⟩ => e.symm⟩⟩
theorem packet64 : IsPacket b0.kernel 64 := ⟨0, by decide, by decide⟩
theorem not_packet (t : DWord) (h : (t.toNat != 64) = true) : ¬IsPacket b0.kernel t := by
  rintro ⟨n, hn, h2⟩
  have e : b0.kernel.npkt = 1 := rfl
  have v : b0.kernel.va.toNat = 0 := rfl
  simp only [bne_iff_ne] at h; omega
/-- s1 and s2 hold these. -/
def fu (x y : DWord) : Frag := (f0.setU 1 x).setU 2 y
/-- BALW without an allowance, and with one (an allowance of this device is always there); BRA to its own packet; targets outside and inside. -/
theorem witness_Jumps :
    (∃ r, Jump (.balw false 1 2 0) r ∧ r.taken s0 (fu 5 65536) = false ∧ HasU b0 r.readsU)
    ∧ (∃ r, Jump (.balw false 1 2 0) r ∧ r.taken s0 (fu 5 0) = true ∧ Lists (activeMask f0 always) (r.target f0 b0.kernel) [64] ∧ OneWay f0 (activeMask f0 always) [64])
    ∧ (∃ r, Jump (.bra always 0) r ∧ r.taken s0 f0 = true ∧ Lists (activeMask f0 always) (r.target f0 b0.kernel) [64])
    ∧ IsPacket b0.kernel 64 ∧ activeMask f0 always ≠ 0
    ∧ ¬((ofs f0 b0.kernel 1).toNat < b0.kernel.va.toNat + 64 + 12 * b0.kernel.npkt)
    ∧ Runs (at' (fu 63 75) w0 b0 g0) (fu 63 75) w0 b0 g0
    ∧ (¬IsPacket b0.kernel ((fu 63 75).getU 1) ∧ ¬(b0.kernel.va.toNat + 64 ≤ ((fu 63 75).getU 1).toNat))
    ∧ (¬IsPacket b0.kernel ((fu 63 75).getU 2) ∧ b0.kernel.va.toNat + 64 ≤ ((fu 63 75).getU 2).toNat
      ∧ ((fu 63 75).getU 2).toNat < b0.kernel.va.toNat + 64 + 12 * b0.kernel.npkt) :=
  ⟨⟨_, .balw .., by show decide (65536 ≤ s0.allowance 5) = false; unfold State.allowance; split <;> decide, by simp [HasU]; decide⟩,
   ⟨_, .balw .., by decide, lists_all f0 64 (by decide), fun h => absurd h (by decide)⟩, ⟨_, .bra .., by decide, lists_all f0 64 (by decide)⟩,
   packet64, by decide, by decide, ⟨rfl, rfl, rfl⟩, ⟨not_packet _ (by decide), by decide⟩, ⟨not_packet _ (by decide), by decide, by decide⟩⟩
/-- P1 of the fragment. -/
def fp (m : Mask) : Frag := f0.setP 1 0xFFFFFFFF m
theorem witness_UniformBranch : Runs (at' (fp 0) w0 b0 g0) (fp 0) w0 b0 g0 ∧ activeMask (fp 0) onP1 = 0
    ∧ (activeMask f0 always = f0.mask ∧ activeMask f0 always ≠ 0 ∧ IsPacket b0.kernel (ofs f0 b0.kernel 0))
    ∧ Runs (at' (fp 1) w0 b0 g0) (fp 1) w0 b0 g0 ∧ activeMask (fp 1) onP1 ≠ 0 ∧ activeMask (fp 1) onP1 ≠ (fp 1).mask
    ∧ ({ f0 with subst := some 1 } : Frag).subst = some 1 :=
  ⟨⟨rfl, rfl, rfl⟩, by decide, ⟨by decide, by decide, packet64⟩, ⟨rfl, rfl, rfl⟩, by decide, by decide, rfl⟩
/-- Targets that are no packet: outside the code, and past the end of the address space, where its packets fall between those of the code. -/
theorem witness_UniformBranch_targets : (activeMask f0 always = f0.mask ∧ ¬IsPacket b0.kernel (ofs f0 b0.kernel 1)
      ∧ ¬(ofs f0 b0.kernel 1).toNat < b0.kernel.va.toNat + 64 + 12 * b0.kernel.npkt)
    ∧ (let f : Frag := { f0 with pc := 0xFFFFFFFFFFFFFFF4 }
       Runs (at' f w0 b0 g0) f w0 b0 g0 ∧ ¬IsPacket b0.kernel (ofs f b0.kernel 7) ∧ b0.kernel.va.toNat + 64 ≤ (ofs f b0.kernel 7).toNat
       ∧ (ofs f b0.kernel 7).toNat < b0.kernel.va.toNat + 64 + 12 * b0.kernel.npkt) :=
  ⟨⟨by decide, not_packet _ (by decide), by decide⟩, ⟨rfl, rfl, rfl⟩, not_packet _ (by decide), by decide, by decide⟩
/-- Every lane with a return stack of some depth. -/
def wd (n : Nat) : Warp := Warp.born 3 2 0 (Vector.ofFn (fun (l : Fin 32) => some { Thread.born l.val l.val 0 with depth := n, stack := List.replicate n 64 })) 0
/-- An empty stack; one full on chip, from which RET still pops; a call with no spill area finds it full. -/
theorem witness_CallsAndReturns : (∃ h rv ru tg, Call (.call always 0) h rv ru tg ∧ HasV b0 rv ∧ HasU b0 ru ∧ Lists (activeMask f0 h) (tg f0 b0.kernel) [64])
    ∧ Runs (at' f0 (wd 7) b0 g0) f0 (wd 7) b0 g0 ∧ (∀ l, l < 32 → depthOf (wd 7) l < 8)
    ∧ Lists (activeMask f0 always) (fun _ => 64) [64] ∧ (∀ l, l < 32 → topOf (wd 8) l = 64) ∧ (∀ l, l < 32 → 0 < depthOf (wd 8) l ∧ depthOf (wd 8) l ≤ 8)
    ∧ (∃ lanes : Mask, lanes ≠ 0 ∧ ∀ l, l < 32 → (lanes.getLsbD l = true ↔ (activeMask f0 always).getLsbD l ∧ depthOf w0 l = 0))
    ∧ (∃ lanes : Mask, lanes ≠ 0 ∧ ∀ l, l < 32 → (lanes.getLsbD l = true ↔ (activeMask f0 always).getLsbD l ∧ 8 + g0.launch.tlsb / 8 ≤ depthOf (wd 8) l)) := by
  refine ⟨⟨_, _, _, _, .call .., by simp [HasV], by simp [HasU], lists_all f0 64 (by decide)⟩, ⟨rfl, rfl, rfl⟩, by decide, lists_all f0 64 (by decide), by decide, by decide,
    ⟨0xFFFFFFFF, by decide, by decide⟩, ⟨0xFFFFFFFF, by decide, by decide⟩⟩

theorem settled_of (s : State) (p : Place) (n : Nat) (h : s.sync.histories = []) (h2 : s.sync.hidden = [] := by rfl) : Settled s p n :=
  ⟨(by intro x hx; rw [h] at hx; cases hx), (by intro x hx; rw [h2] at hx; cases hx)⟩
/-- A grid whose threads have 64 bytes of local memory: a ninth entry goes there, and comes back from there. -/
def gt : Grid := { g0 with launch := { placedLaunch with tlsb := 64 } }
theorem witness_CallsAndReturns_memory : let s := paged dataLeaf (at' f1 (wd 9) b0 gt)
    Runs s f1 (wd 9) b0 gt ∧ NothingEarly s (wd 9) (activeMask f1 always)
    ∧ (∀ l, (activeMask f1 always).getLsbD l → 8 < depthOf (wd 9) l ∧ depthOf (wd 9) l < 8 + gt.launch.tlsb / 8 ∧ s.isPoisoned (.hbm 0) 8 = false
      ∧ Settled s (.hbm 0) 8 ∧ ∃ leaf, s.check gt (wd 9) b0 .t l (BitVec.ofNat 64 (8 * (depthOf (wd 9) l - 9))) 8 .read noKeyRule noKeyRule = .ok (.hbm 0) leaf)
    ∧ (∀ l, (activeMask f1 always).getLsbD l →
      ∃ leaf, s.check gt (wd 9) b0 .t l (BitVec.ofNat 64 (8 * (depthOf (wd 9) l - 8))) 8 .write noKeyRule noKeyRule = .ok (.hbm 8) leaf) := by
  refine ⟨⟨rfl, rfl, rfl⟩, nothing_early _ _ _ rfl, fun l hl => ?_, fun l hl => ?_⟩
  · obtain rfl := only_lane l hl
    exact ⟨by decide, by decide, by decide, settled_of _ _ _ rfl, some (leafOf dataLeaf), by decide⟩
  · obtain rfl := only_lane l hl
    exact ⟨some (leafOf dataLeaf), by decide⟩

/-! ## Memory and stores -/

/-- The last 16 bytes of A. -/
def ftop : Frag := f1.setU 1 65520
theorem witness_Loads : let m := memAt 1 .a 4 0
    Runs (at' ftop w0 b0 g0) ftop w0 b0 g0 ∧ HasU b0 [m.a] ∧ (60#6).toNat + regsOfWd m.wd ≤ b0.kernel.vreg
    ∧ Resolves (at' ftop w0 b0 g0) ftop w0 b0 g0 (activeMask ftop always) m false (2 ^ m.wd.toNat) .read noKeyRule noKeyRule (fun _ => .buf 2 .a 65520)
    ∧ Sound (at' ftop w0 b0 g0) (activeMask ftop always) 16 (fun _ => .buf 2 .a 65520)
    ∧ Settled (at' ftop w0 b0 g0) (.buf 2 .a 65520) 16 ∧ NothingEarly (at' ftop w0 b0 g0) w0 (activeMask ftop always)
    ∧ (at' ftop w0 b0 g0).check g0 w0 b0 m.sp (Mask.lowest ftop.mask) (laneAddr ftop m false (Mask.lowest ftop.mask)) (2 ^ m.wd.toNat) .read noKeyRule noKeyRule
        = .ok (.buf 2 .a 65520) none
    ∧ (List.replicate 16 (0 : Byte)).length = 2 ^ m.wd.toNat ∧ (60#6).toNat + regsOfWd m.wd ≤ 64
    ∧ Resolves (at' ftop w0 b0 g0) ftop w0 b0 g0 (activeMask ftop always) m false 1 .touch noKeyRule noKeyRule (fun _ => .buf 2 .a 65520) :=
  ⟨⟨rfl, rfl, rfl⟩, by simp [HasU]; decide, by decide,
   fun l hl => by obtain rfl := only_lane l hl; exact ⟨trivial, none, by decide⟩, fun l _ => by show State.isPoisoned _ (.buf 2 .a 65520) 16 = false; decide, settled_of _ _ _ rfl,
   nothing_early _ _ _ rfl, by decide, by decide, by decide,
   fun l hl => by obtain rfl := only_lane l hl; exact ⟨trivial, none, by decide⟩⟩
theorem witness_Stores : let m := memAt 1 .a 4 0
    Resolves (at' ftop w0 b0 g0) ftop w0 b0 g0 (activeMask ftop always) m false (2 ^ m.wd.toNat) .write noKeyRule noKeyRule (fun _ => .buf 2 .a 65520)
    ∧ (at' ftop w0 b0 g0).check g0 w0 b0 m.sp (Mask.lowest ftop.mask) (laneAddr ftop m false (Mask.lowest ftop.mask)) (2 ^ m.wd.toNat) .write noKeyRule noKeyRule
        = .ok (.buf 2 .a 65520) none :=
  ⟨fun l hl => by obtain rfl := only_lane l hl; exact ⟨trivial, none, by decide⟩, by decide⟩
theorem witness_ReadBack : s0.block? b0.id = some b0 ∧ (∃ x : Piece, x.bytes ≠ []) ∧ State.reset.mem.hbm.wf = true
    ∧ w0.threads.toList.getD 31 none = some (Thread.born 31 31 0) :=
  ⟨rfl, ⟨⟨[0], 0, .hbm 0, [1], none⟩, by decide⟩, by decide, by decide⟩

/-! ## Filing, spawning, ordering -/

def filedAt (l : Nat) : Filed := { thread := Thread.born l l 0, v := [0], p := 0, fresh := false }
/-- A pan of key `k` that holds `n` threads and one uniform. -/
def panOf (k u : DWord) (n : Nat) : Pan := ⟨9, 2, k, 1, 1, [u], 0, 512, 0, false, 0, 0, List.replicate n (filedAt 0)⟩
def withPans (ps : List Pan) : State := let s := at' f1 w0 b0 g0; { s with work := { s.work with pans := ps } }
/-- Lanes 0 and 1. -/
def f3 : Frag := { f0 with mask := 3 }
theorem two_lanes (l : Nat) (h : (3#32).getLsbD l = true) : l = 0 ∨ l = 1 := by
  have k : ∀ l, l < 32 → (3#32).getLsbD l = true → l = 0 ∨ l = 1 := by decide
  exact k l (lanes_below _ l h) h
theorem isFiled (l : Nat) (h : l = 0 ∨ l = 1) : IsFiled w0 f3 1 l (filedAt l) := by
  rcases h with rfl | rfl <;> exact ⟨by decide, by decide, by decide, rfl⟩
theorem filings_two : Filings w0 f3 (activeMask f3 always) 1 [filedAt 0, filedAt 1] := by
  have e : activeMask f3 always = 3 := by decide
  have t : ∀ l, l = 0 ∨ l = 1 → w0.threads.toList.getD l none = some (Thread.born l l 0) := by rintro l (rfl | rfl) <;> decide
  rw [e]
  refine ⟨?_, by decide, ?_, ?_⟩
  · intro l k x y hl hk hne hx hy
    rw [t l (two_lanes l hl)] at hx
    rw [t k (two_lanes k hk)] at hy
    cases hx; cases hy
    exact hne
  · intro x hx
    simp only [List.mem_cons, List.not_mem_nil, or_false] at hx
    rcases hx with rfl | rfl
    · exact ⟨0, by decide, by decide, isFiled 0 (.inl rfl)⟩
    · exact ⟨1, by decide, by decide, isFiled 1 (.inr rfl)⟩
  · intro l x _ hl _
    refine ⟨filedAt l, ?_, isFiled l (two_lanes l hl)⟩
    rcases two_lanes l hl with rfl | rfl <;> simp
/-- No active lane; a first filing; the 31st and 32nd thread of an open pan; a pan with room for one of two; one of another uniform value; no pan
free. -/
theorem witness_Filing : f3.handler = false ∧ 1 ≤ b0.kernel.vreg ∧ 1 ≤ b0.kernel.sreg ∧ activeMask f3 onP1 = 0 ∧ activeMask f3 always ≠ 0
    ∧ Filings w0 f3 (activeMask f3 always) 1 [filedAt 0, filedAt 1] ∧ b0.preq = none
    ∧ ((withPans []).openPan? b0.id 76 = none ∧ (withPans []).panFree b0 = true)
    ∧ ((withPans [panOf 76 0 30]).openPan? b0.id 76 = some (panOf 76 0 30) ∧ (panOf 76 0 30).threads.length + [filedAt 0, filedAt 1].length ≤ 32)
    ∧ ((withPans [panOf 76 0 31]).openPan? b0.id 76 = some (panOf 76 0 31) ∧ (withPans [panOf 76 0 31]).panFree b0 = true
      ∧ 32 < (panOf 76 0 31).threads.length + [filedAt 0, filedAt 1].length)
    ∧ ((withPans (panOf 76 0 31 :: List.replicate 7 (panOf 64 0 1))).openPan? b0.id 76 = some (panOf 76 0 31)
      ∧ (withPans (panOf 76 0 31 :: List.replicate 7 (panOf 64 0 1))).panFree b0 = false)
    ∧ ((withPans [panOf 76 1 1]).openPan? b0.id 76 = some (panOf 76 1 1) ∧ (panOf 76 1 1).u ≠ [f3.getU 0])
    ∧ ((withPans (List.replicate 8 (panOf 64 0 1))).openPan? b0.id 76 = none ∧ (withPans (List.replicate 8 (panOf 64 0 1))).panFree b0 = false) :=
  ⟨rfl, by decide, by decide, by decide, by decide, filings_two, rfl, ⟨by decide, by decide⟩, ⟨by decide, by decide⟩, ⟨by decide, by decide, by decide⟩,
   ⟨by decide, by decide⟩, ⟨by decide, by decide⟩, ⟨by decide, by decide⟩⟩
/-- A posted RED of thread 0 that is not yet acknowledged, or has failed. -/
def owed (failed : Bool) : State :=
  let s := s0
  { s with sync := { s.sync with deliveries := [⟨0, 2, 3, [0], 0, 64, none, 0, failed, 7, 0, [], none⟩] } }
theorem witness_SpawnAndExit : activeMask f0 always ≠ 0 ∧ IsPacket b0.kernel (ofs f0 b0.kernel 0) ∧ activeMask f0 onP1 = 0
    ∧ (s0.fenceWork b0.id g0.job 2 0xFF (w0.serials (activeMask f0 always))).fenceDone b0.id 2 0xFF (w0.serials (activeMask f0 always)) = true
    ∧ ((owed false).fenceWork b0.id g0.job 2 0xFF (w0.serials (activeMask f0 always))).fenceDone b0.id 2 0xFF (w0.serials (activeMask f0 always)) = false :=
  ⟨by decide, packet64, by decide, by decide, by decide⟩

def sd (f : Frag) : State := paged dataLeaf (at' f w0 b0 g0)
/-- A release whose store is bound and not yet counted. -/
def sh : State := let s := s0; { s with sync := { s.sync with histories := [⟨.hbm 0, 0, [⟨1, 7, 2, 64, 0, [], [0]⟩]⟩] } }
theorem witness_Ordering : Runs (sd f1) f1 w0 b0 g0 ∧ Drained (sd f1) b0 ∧ HasU b0 [0, 0, 63] ∧ activeMask f1 always ≠ 0 ∧ f1.relSent = false
    ∧ OneAccess (sd f1) f1 w0 b0 g0 .g (addr f1 0 8) 8 .read syncPageBad (.hbm 8) (some (leafOf dataLeaf))
    ∧ OneAccess (sd f1) f1 w0 b0 g0 .g (addr f1 0 8) 8 .both syncPageBad (.hbm 8) (some (leafOf dataLeaf))
    ∧ (let base : DWord := 64; let len : DWord := 64; let sync : DWord := 56
       base.toNat % 64 = 0 ∧ len.toNat % 64 = 0 ∧ sync.toNat % 8 = 0 ∧ canonical base = true ∧ canonical (base + len - 1) = true ∧ len.toNat ≤ 2 ^ 40
       ∧ (∀ x ∈ b0.binds, x.entry ≠ 0 → x.length ≤ (base - x.base).toNat ∧ len.toNat ≤ (x.base - base).toNat)
       ∧ len.toNat ≤ (sync - base).toNat ∧ 8 ≤ (base - sync).toNat)
    ∧ NoOwnStore w0 b0 f1.mask (.hbm 8) 8 ∧ activeMask f0 onP1 = 0
    ∧ (let ths := w0.serials (activeMask f0 always)
       (s0.fenceWork b0.id g0.job 7 0xFF ths).fenceFailures b0.id 7 0xFF ths = [] ∧ (s0.fenceWork b0.id g0.job 7 0xFF ths).fenceDone b0.id 7 0xFF ths = true
       ∧ ((owed false).fenceWork b0.id g0.job 7 0xFF ths).fenceDone b0.id 7 0xFF ths = false)
    ∧ (∃ h x, h ∈ sh.sync.histories ∧ x ∈ h.stores ∧ x.job = 0 ∧ x.sync = 64 ∧ (∀ r ∈ x.tags, r.1 ≤ sh.releaseCount 0 64) ∧ ∃ t ∈ x.threads, t ∈ [0]) ∧ sh.warp? 3 = some w0
    ∧ w0.threads.toList.getD 31 none = some (Thread.born 31 31 0) :=
  ⟨⟨rfl, rfl, rfl⟩, drained_of _ _ (by decide), by simp [HasU]; decide, by decide, rfl, ⟨by decide, trivial, by decide, settled_of _ _ _ rfl⟩,
   ⟨by decide, trivial, by decide, settled_of _ _ _ rfl⟩, ⟨by decide, by decide, by decide, by decide, by decide, by decide, (by intro x hx; cases hx), by decide, by decide⟩,
   (by intro e he; cases he), by decide, ⟨by decide, by decide, by decide⟩,
   ⟨_, _, List.mem_singleton.mpr rfl, List.mem_singleton.mpr rfl, rfl, rfl, (by intro r hr; cases hr), 0, List.mem_singleton.mpr rfl, List.mem_singleton.mpr rfl⟩, rfl, by decide⟩
/-- A count of 0 and one past the block's threads are refused; 1 of 32 arrivals waits; 32 of 32 complete. -/
theorem witness_ThreadBarriers : Meeting (.bar always 1 0) always 1 (.bar 0) ∧ HasU b0 [1, 63] ∧ f0.arrived ≠ some (.bar 0) ∧ Drained s0 b0
    ∧ (let n := ((fu 0 33).getU 1).toNat; n = 0) ∧ countLimit b0 g0 (.bar 0) < ((fu 0 33).getU 2).toNat
    ∧ (s0.phase b0 (.bar 0)).arrivals + Mask.count (activeMask f0 always) = s0.barThreads b0 (.bar 0)
    ∧ (s0.phase b0 (.bar 0)).arrivals + Mask.count (activeMask f1 always) ≠ s0.barThreads b0 (.bar 0)
    ∧ (s0.phase b0 (.bar 0)).arrivals = 0 ∧ activeMask f0 onP1 = 0 :=
  ⟨.bar .., by simp [HasU]; decide, by decide, witness_drained, by decide, by decide, by decide, by decide, by decide, by decide⟩
theorem one_a (s : State) (f : Frag) (n : Nat) (k : Access) (e : BitVec 128 → Bool) (hs : s.sync.histories = []) (h : s.isPoisoned (.buf 2 .a 0) n = false)
    (hn : n ≤ 65536) (hh : s.sync.hidden = [] := by rfl) : OneAccess s f w0 b0 g0 .a 0 n k e (.buf 2 .a 0) none := by
  refine ⟨?_, trivial, h, settled_of _ _ _ hs hh⟩
  have : b0.quota.qa * 4096 = 65536 := rfl
  simp [State.check, checkBuf, Block.limit, this]
  rw [if_neg (by omega)]; rfl
/-- PENDING is 0 here: 2^63 is out of range, 2^63 − 1 is not; an arrival of 2^63 + 1 is, one of 2^63 is not. -/
theorem witness_ByteBarriers : let f := fu 0 0x8000000000000000
    OneAccess s0 f w0 b0 g0 .a (addr f 1 0) 16 .both noKeyRule (.buf 2 .a 0) none ∧ Drained s0 b0 ∧ HasU b0 [1, 2] ∧ (s0.byteBar (.buf 2 .a 0)).pending = 0
    ∧ (2 : Int) ^ 63 ≤ ((f.getU 2).toNat : Int) ∧ ¬((s0.byteBar (.buf 2 .a 0)).pending - ((f.getU 2).toNat : Int) < -2 ^ 63)
    ∧ ((fu 0 0x7FFFFFFFFFFFFFFF).getU 2).toNat < 2 ^ 63 ∧ (s0.byteBar (.buf 2 .a 0)).pending - (((fu 0 0x8000000000000001).getU 2).toNat : Int) < -2 ^ 63
    ∧ (s0.byteBar (.buf 2 .a 0)).phase = ((fu 0 0x8000000000000000).getU 2).setWidth 32 ∧ (s0.byteBar (.buf 2 .a 0)).phase ≠ ((fu 0 1).getU 2).setWidth 32 :=
  ⟨one_a _ _ _ _ _ rfl (by decide) (by decide), witness_drained, by simp [HasU]; decide, by decide, by decide, by decide, by decide, by decide, by decide, by decide⟩
/-- The fragment waits by polling. -/
def sp : State := let s := at' { f0 with run := .parked .barrier 0 } w0 b0 g0; { s with sync := { s.sync with polls := [4] } }
theorem witness_Counters : OneAccess s0 (fu 0 1) w0 b0 g0 .a (addr (fu 0 1) 1 0) 8 .read counterPageBad (.buf 2 .a 0) none
    ∧ NoOwnStore w0 b0 (fu 0 1).mask (.buf 2 .a 0) 8
    ∧ ((fu 0 1).getU 1).toNat ≤ natOfBytes (homeBytes s0 (.buf 2 .a 0) 8) ∧ natOfBytes (homeBytes s0 (.buf 2 .a 0) 8) < ((fu 0 1).getU 2).toNat
    ∧ 4 ∈ sp.sync.polls ∧ ∃ f ∈ sp.work.frags, f.id = 4 ∧ ∃ since, f.run = .parked .barrier since :=
  ⟨one_a _ _ _ _ _ rfl (by decide) (by decide), (by intro e he; cases he), by decide, by decide, by decide, _, List.mem_singleton.mpr rfl, rfl, 0, rfl⟩

/-! ## Pins, traps -/

/-- The warp with 64 pinned. -/
def wp : Warp := { w0 with pins := w0.pins.set 0 64 }
def pinState (l : List DWord) : State := (at' f0 wp b0 g0).setBittern 0 l
theorem witness_PinsAndAllowances : HasU b0 [1, 63] ∧ Drained (pinState []) b0 ∧ (fu 0 64).getU 1 = 0 ∧ (fu 0 64).getU 2 ≠ 0
    ∧ s0.isPinned 64 = false ∧ (pinState [64, 128, 192]).isPinned 64 = true ∧ (pinState [64, 128, 192]).bittern g0.job = [64] ++ 128 :: [192]
    ∧ (∀ z ∈ [(64 : DWord)], (pinState [64, 128, 192]).isPinned z = true) ∧ (pinState [64, 128, 192]).isPinned 128 = false
    ∧ ((pinState []).isPinned 64 = true ∧ (∀ z ∈ (pinState []).bittern g0.job, (pinState []).isPinned z = true) ∧ ((pinState []).bittern g0.job).length < 1024)
    ∧ ((∀ z ∈ (pinState (List.replicate 1024 64)).bittern g0.job, z = 64) ∧ (pinState (List.replicate 1024 64)).isPinned 64 = true
      ∧ 1024 ≤ ((pinState (List.replicate 1024 64)).bittern g0.job).length) := by
  refine ⟨by simp [HasU]; decide, drained_of _ _ rfl, by decide, by decide, rfl, rfl, rfl, by intro z hz; rw [List.mem_singleton.mp hz]; rfl, rfl,
    ⟨rfl, (by intro z hz; cases hz), by decide⟩, ?_, rfl, ?_⟩
  · intro z hz
    exact List.eq_of_mem_replicate (show z ∈ List.replicate 1024 64 from hz)
  · show 1024 ≤ (List.replicate 1024 (64 : DWord)).length
    rw [List.length_replicate]
/-- A handler whose frame names the packet at 64. -/
def wr (cause info : DWord) : Warp := { w0 with frame := ⟨64, cause, 1, 0, info, 0, 0⟩ }
/-- A frame that RETT .subst can substitute for, and one whose cause writes no descriptor. -/
theorem witness_TrapInstructions : activeMask f0 always ≠ 0 ∧ activeMask f0 onP1 = 0 ∧ f0.handler = false
    ∧ Runs (at' fh (wr 8 1) b0 g0) fh (wr 8 1) b0 g0 ∧ fh.handler = true ∧ (∃ next, (at' fh (wr 8 1) b0 g0).boundary g0.job b0.kernel (wr 8 1).frame.tpc = .ok next)
    ∧ ((wr 8 1).frame.tinfo.setWidth 4 = 1#4 ∧ (wr 8 1).frame.tinfo.extractLsb' 10 2 = 0#2 ∧ (wr 8 1).frame.tcause.toNat ∉ [0x14, 0x17, 0x18, 0x19, 0x1B])
    ∧ ¬((wr 0x14 1).frame.tcause.toNat ∉ [0x14, 0x17, 0x18, 0x19, 0x1B]) := by
  refine ⟨by decide, by decide, rfl, ⟨rfl, rfl, rfl⟩, rfl, ⟨68, by decide⟩, ⟨by decide, by decide, by decide⟩, by decide⟩
/-- A sibling in handler mode. -/
def sib : Frag := { f0 with id := 5, handler := true }
def fe : Frag := { f0 with run := .atEntry ⟨.software, 1, 0, 0⟩ }
def queued (p : Bool) : State := let s := s0; { s with work := { s.work with queues := [newQueue 0 16 0 p 1000 true] } }
def wt (tvec : DWord) (dctl : BitVec 3) : Warp := { w0 with tvec, dctl }
/-- A debug stop of another warp with FREEZE set. -/
def frozen : State :=
  let s := s0
  { s with work := { s.work with warps := [w0, { wt 0 2 with id := 7 }], frags := [f0, { f0 with id := 8, warp := 7, run := .stopped }] } }
theorem witness_TrapEntry : fh.handler = true ∧ f0.handler = false
    ∧ (∃ x ∈ ([f0, sib] : List Frag).filter (fun x => x.warp == w0.id && x.id != f0.id), x.handler = true ∨ x.run = .stopped)
    ∧ (∀ x ∈ ([f0] : List Frag).filter (fun x => x.warp == w0.id && x.id != f0.id), x.handler = false ∧ x.run ≠ .stopped)
    ∧ (wt 0 4).dctl.getLsbD 2 = true ∧ ¬((wt 0 0).dctl.getLsbD 2 = true)
    ∧ (wt 0 0).tvec = 0 ∧ ((wt 65 0).tvec ≠ 0 ∧ ¬IsPacket b0.kernel (wt 65 0).tvec) ∧ ((wt 64 0).tvec ≠ 0 ∧ IsPacket b0.kernel (wt 64 0).tvec)
    ∧ (fe.run = .atEntry ⟨.software, 1, 0, 0⟩ ∧ (at' fe w0 b0 g0).frag? fe.id = some fe ∧ (at' fe w0 b0 g0).warp? fe.warp = some w0
      ∧ (at' fe w0 b0 g0).block? w0.block = some b0 ∧ b0.run = .placed ∧ b0.saving = false)
    ∧ (∀ p, (queued p).queue? g0.gid.queue = some (newQueue 0 16 0 p 1000 true))
    ∧ (∃ v ∈ frozen.work.warps, v.block = w0.block ∧ v.id ≠ w0.id ∧ v.dctl.getLsbD 1 = true ∧ ∃ x ∈ frozen.work.frags, x.warp = v.id ∧ x.run = .stopped)
    ∧ (∃ y ∈ [b0], ∃ z ∈ s0.work.blocks, z.grid = y.grid ∧ z.gang = y.gang ∧ z.id = b0.id ∧ b0.run = .placed ∧ b0.preq = none) := by
  refine ⟨rfl, rfl, ⟨sib, ?_, .inl rfl⟩, ?_, by decide, by decide, rfl, ⟨by decide, not_packet _ (by decide)⟩, ⟨by decide, packet64⟩,
    ⟨rfl, rfl, rfl, rfl, rfl, rfl⟩, fun _ => rfl, ⟨{ wt 0 2 with id := 7 }, List.mem_cons_of_mem _ (List.mem_singleton.mpr rfl), rfl, by decide, rfl,
      { f0 with id := 8, warp := 7, run := .stopped }, List.mem_cons_of_mem _ (List.mem_singleton.mpr rfl), rfl, rfl⟩,
    ⟨b0, List.mem_singleton.mpr rfl, b0, List.mem_singleton.mpr rfl, rfl, rfl, rfl, rfl, rfl⟩⟩
  · exact List.mem_filter.mpr ⟨List.mem_cons_of_mem _ (List.mem_singleton.mpr rfl), by decide⟩
  · intro x hx
    obtain ⟨h1, h2⟩ := List.mem_filter.mp hx
    rw [List.mem_singleton.mp h1] at h2
    exact absurd h2 (by decide)

/-! ## Atomics, typed and remote accesses -/

theorem by_lane (act : Mask) (one : Nat → State → State) (s : State) : ∃ t, t 0 = s ∧ ByLane act one t :=
  ⟨fun n => Nat.rec s (fun l x => if act.getLsbD l then one l x else x) n, rfl, fun _ _ => rfl⟩
/-- The page also takes near-memory arithmetic. -/
def nearLeaf : BitVec 128 := dataLeaf ||| BitVec.ofNat 128 (2 ^ 16)
theorem witness_Atomics : let s := at' f1 w0 b0 g0; let r := paged nearLeaf (at' f1 w0 b0 g0)
    Drained s b0 ∧ HasU b0 [0] ∧ (62#6).toNat + regsOfWd (memAt 0 .a 3 0).wd ≤ b0.kernel.vreg
    ∧ (memAt 0 .a 3 0x900).e.toNat + (if (memAt 0 .a 3 0x900).aop = 9 then 2 else 1) * 2 ≤ b0.kernel.vreg
    ∧ Sound s (activeMask f1 always) 8 (fun _ => .buf 2 .a 0)
    ∧ Resolves s f1 w0 b0 g0 (activeMask f1 always) (memAt 0 .a 3 0) true 8 .both pteKy atomFmtBad (fun _ => .buf 2 .a 0)
    ∧ Resolves s f1 w0 b0 g0 (activeMask f1 always) (memAt 0 .a 3 0) true 8 .write pteKy atomFmtBad (fun _ => .buf 2 .a 0)
    ∧ Resolves r f1 w0 b0 g0 (activeMask f1 always) (memAt 0 .g 3 0x600) true 8 .redm pteKy (fun e => !redmFmt (memAt 0 .g 3 0x600).aop (pteFmt e)) (fun _ => .hbm 0)
    ∧ (∀ one, ∃ t, t 0 = s ∧ ByLane (activeMask f1 always) one t) :=
  ⟨drained_of _ _ (by decide), by simp [HasU]; decide, by decide, by decide,
   fun l _ => by show State.isPoisoned _ (.buf 2 .a 0) 8 = false; decide,
   fun l hl => by obtain rfl := only_lane l hl; exact ⟨trivial, none, by decide⟩, fun l hl => by obtain rfl := only_lane l hl; exact ⟨trivial, none, by decide⟩,
   fun l hl => by obtain rfl := only_lane l hl; exact ⟨trivial, some (leafOf nearLeaf), by decide⟩, fun one => by_lane _ one _⟩
/-- The first granule of A full, and empty with the wait one cycle short of its limit. -/
theorem witness_FullEmpty : let b := { b0 with fullA := [0] }; let f := { f1 with emptyWait := 16777215 }
    Runs (at' f1 w0 b g0) f1 w0 b g0 ∧ Runs (at' f w0 b0 g0) f w0 b0 g0 ∧ f.emptyWait < 16777216 ∧ 16777216 ≤ ({ f with emptyWait := 16777216 } : Frag).emptyWait ∧ NothingEarly s0 w0 (activeMask f1 always)
    ∧ (∀ l, l < 32 → (activeMask f1 always).getLsbD l → b.isFull .a (0 / 16) = true) ∧ (∃ l, l < 32 ∧ (activeMask f always).getLsbD l ∧ b0.isFull .a (0 / 16) = false)
    ∧ Resolves (at' f1 w0 b g0) f1 w0 b g0 (activeMask f1 always) (memAt 0 .a 4 0) false 16 .read noKeyRule noKeyRule (fun _ => .buf 2 .a 0) :=
  ⟨⟨rfl, rfl, rfl⟩, ⟨rfl, rfl, rfl⟩, by decide, by decide, nothing_early _ _ _ rfl, fun _ _ _ => by decide, ⟨0, by decide, by decide, by decide⟩,
   fun l hl => by obtain rfl := only_lane l hl; exact ⟨trivial, none, by decide⟩⟩
/-- A page of FP32 and a page of Q4 with BG 1. -/
def fp32Leaf : BitVec 128 := dataLeaf ||| BitVec.ofNat 128 (1 * 2 ^ 10)
def q4Leaf : BitVec 128 := dataLeaf ||| BitVec.ofNat 128 (9 * 2 ^ 10 + 1 * 2 ^ 14)
theorem witness_TypedLoads : (∃ loc p q, ElementAt (paged fp32Leaf (at' f1 w0 b0 g0)) f1 w0 b0 g0 (memAt 0 .g 2 0) 0 (leafOf fp32Leaf) loc p q)
    ∧ (∃ loc p q, ElementAt (paged q4Leaf (at' f1 w0 b0 g0)) f1 w0 b0 g0 (memAt 0 .g 2 0) 0 (leafOf q4Leaf) loc p q ∧ loc.scale.isSome) := by
  refine ⟨⟨elemLoc 1 0 0, .hbm 0, .hbm 0, ?_⟩, ⟨elemLoc 9 1 0, .hbm 0, .hbm (q4Unit 1).2.1, ?_, ?_⟩⟩
  · exact ⟨(by intro h; cases h), by decide, by decide, by decide, by decide, rfl, ⟨some (leafOf fp32Leaf), by decide⟩, (by intro o h; simp [elemLoc] at h),
      ⟨trivial, trivial⟩, by decide, ⟨settled_of _ _ _ rfl, settled_of _ _ _ rfl⟩⟩
  · exact ⟨(by intro h; cases h), by decide, by decide, by decide, by decide, rfl, ⟨some (leafOf q4Leaf), by decide⟩,
      (by intro o h; obtain rfl : (q4Unit 1).2.1 = o := by simpa [elemLoc] using h
          exact ⟨some (leafOf q4Leaf), by decide⟩), ⟨trivial, trivial⟩, by decide, ⟨settled_of _ _ _ rfl, settled_of _ _ _ rfl⟩⟩
  · decide

/-! ## Multicast, remote loads -/

/-- A group of two, this device rank 0 and device 1 rank 1, and a route with allowance to device 1. -/
def g2 : Group := ⟨5, 7, 2, 0, 0, 0, [0, 1]⟩
def routedTo (d : BitVec 11) (s : State) : State :=
  { s with work := { s.work with groups := [g2] }
           fab := { s.fab with routes := [⟨d, ⟨2, 2, 2, 2, 256⟩⟩], allowances := [⟨d, 200, 256, 0, [], []⟩] } }
theorem allowance_one (d : BitVec 11) (s : State) (h : s.fab.restricted = []) (h2 : s.coll.slices = []) : 200 ≤ (routedTo d s).allowance d := by
  unfold State.allowance
  split
  · decide
  · simp [State.heldZero, State.route?, routedTo, State.routeBarred, State.sliceLate, h, h2, isPort, portOf, clsReq]
theorem pays (d : BitVec 11) (n : Nat) (hn : n ≤ 200) (s : State) (h : s.fab.restricted = []) (h2 : s.coll.slices = []) :
    ∃ s', (routedTo d s).pay 4 [(d, n)] = (s', true) := by
  have h3 : n ≤ (routedTo d s).spendable 4 d := by
    have e : (routedTo d s).spendable 4 d = (routedTo d s).allowance d := by simp [State.spendable, routedTo]
    rw [e]; exact le_trans hn (allowance_one d s h h2)
  have h5 : [(d, n)].filter (fun c => decide ((routedTo d s).spendable 4 c.1 < c.2)) = [] := by
    rw [List.filter_cons_of_neg]; rfl
    rw [decide_eq_true_eq]; exact Nat.not_lt.mpr h3
  have h6 : (routedTo d s).keepWaits 4 [d] = routedTo d s := by simp [State.keepWaits, routedTo]
  unfold State.pay
  simp only [List.map_cons, List.map_nil, h6, h5]
  exact ⟨_, rfl⟩
def routed (s : State) : State := routedTo 1 s
/-- The group register s1 names the group. -/
def fg : Frag := f1.setU 1 5
theorem witness_MulticastAndEvict :
    (let s := routedTo 1 (paged dataLeaf (at' fg w0 b0 g0)); let m := { memAt 0 .g 2 0 with e := 1 }
     Runs s fg w0 b0 g0 ∧ HasU b0 [m.e] ∧ s.group? ((fg.getU m.e).setWidth 12) = some g2 ∧ g2.flags.getLsbD 0 = true ∧ g2.flags.getLsbD 2 = true
     ∧ g2.job = g0.job ∧ activeMask fg always ≠ 0
     ∧ Resolves s fg w0 b0 g0 (activeMask fg always) m false 4 .write noKeyRule noKeyRule (fun _ => .hbm 0)
     ∧ (costs (mstCosts g2 [lanePiece w0 b0 .g 0 0 (.hbm 0) [0, 0, 0, 0]]) = [(1, 2)] ∧ ∃ s', s.pay 4 [(1, 2)] = (s', true)))
    ∧ (let s := paged dataLeaf (at' f1 w0 b0 g0)
       (∃ p, evictCheck (s.check g0 w0 b0 .g 0 0 1 .touch noKeyRule noKeyRule) = .ok p (some (leafOf dataLeaf)))
       ∧ [leafOf dataLeaf].any s.evictBlocked = false ∧ [leafOf dataLeaf].any s.drainFull = false) :=
  ⟨⟨⟨rfl, rfl, rfl⟩, by simp [HasU]; decide, by decide, by decide, by decide, rfl, by decide,
    fun l hl => by obtain rfl := only_lane l hl; exact ⟨trivial, some (leafOf dataLeaf), by decide⟩, by decide, pays 1 2 (by decide) _ rfl rfl⟩,
   ⟨.hbm 0, by decide⟩, by decide, by decide⟩

/-- The leaf of a page of HBM of device `d`. -/
def farPte (d : Nat) : BitVec 128 := BitVec.ofNat 128 (1 + 8 + 32 + 2 ^ 20 * (2 ^ 35 + 2 ^ 24 * d))
theorem far_place (d : BitVec 11) (h : d ≠ selfDev) (n : Nat) (hn : n < 2 ^ 40) : placeOfPa (2 ^ 51 + 2 ^ 40 * d.toNat + n) = .far d n := by
  have h0 := d.isLt
  have h1 : (2 ^ 51 + 2 ^ 40 * d.toNat + n) / 2 ^ 40 = 2 ^ 11 + d.toNat := by omega
  have h2 : (2 ^ 51 + 2 ^ 40 * d.toNat + n) / 2 ^ 51 % 2 = 1 := by omega
  have h3 : (2 ^ 51 + 2 ^ 40 * d.toNat + n) % 2 ^ 40 = n := by omega
  have h4 : BitVec.ofNat 11 (2 ^ 11 + d.toNat) = d := by apply BitVec.eq_of_toNat_eq; simp; omega
  unfold placeOfPa
  rw [h1, h2, h3, h4]
  simp [h]
theorem far_check (d : Nat) (hd : d = 1 ∨ d = 2) (h : BitVec.ofNat 11 d ≠ selfDev) :
    (paged (farPte d) (at' f1 w0 b0 g0)).check g0 w0 b0 .g 0 0 4 .read noKeyRule noKeyRule = .ok (.far (BitVec.ofNat 11 d) 0) (some (leafOf (farPte d))) := by
  have p := far_place (BitVec.ofNat 11 d) h 0 (by decide)
  rcases hd with rfl | rfl
  · have : (paged (farPte 1) (at' f1 w0 b0 g0)).check g0 w0 b0 .g 0 0 4 .read noKeyRule noKeyRule
        = .ok ((leafOf (farPte 1)).place 0) (some (leafOf (farPte 1))) := rfl
    have q : (leafOf (farPte 1)).place 0 = placeOfPa (2 ^ 51 + 2 ^ 40 * (BitVec.ofNat 11 1).toNat + 0) := by
      unfold Leaf.place
      rw [if_pos (by decide)]
      exact congrArg placeOfPa (by decide)
    rw [this, q, p]
  · have : (paged (farPte 2) (at' f1 w0 b0 g0)).check g0 w0 b0 .g 0 0 4 .read noKeyRule noKeyRule
        = .ok ((leafOf (farPte 2)).place 0) (some (leafOf (farPte 2))) := rfl
    have q : (leafOf (farPte 2)).place 0 = placeOfPa (2 ^ 51 + 2 ^ 40 * (BitVec.ofNat 11 2).toNat + 0) := by
      unfold Leaf.place
      rw [if_pos (by decide)]
      exact congrArg placeOfPa (by decide)
    rw [this, q, p]
/-- A page of another device, with a reply for its line at hand, or with none and a READ on its way. -/
theorem witness_RemoteLoads : ∃ d, (∃ leaf, (paged (farPte d) (at' f1 w0 b0 g0)).check g0 w0 b0 .g 0 (laneAddr f1 (memAt 0 .g 2 0) false 0) 4 .read noKeyRule noKeyRule
      = .ok (.far (BitVec.ofNat 11 d) 0) leaf)
    ∧ (let r : Reply := ⟨BitVec.ofNat 11 d, 0, 0, 0, []⟩; [r].find? (fun x => x.dev == BitVec.ofNat 11 d && x.addr == 0 / 64 * 64) = some r ∧ r.status = 0)
    ∧ (let s := at' f1 w0 b0 g0; { s with fab := { s.fab with requests := [⟨0, BitVec.ofNat 11 d, 0, 1, .load 4, 0⟩] } } : State).awaits f1.id = true ∧ f1.replies = [] ∧ NothingEarly s0 w0 (activeMask f1 always)
    ∧ (at' f1 w0 b0 g0).awaits f1.id = false ∧ ∃ s', (routedTo (BitVec.ofNat 11 d) (paged (farPte d) (at' f1 w0 b0 g0))).pay 4 [(BitVec.ofNat 11 d, 1)] = (s', true) := by
  by_cases h : BitVec.ofNat 11 1 = selfDev
  · exact ⟨2, ⟨_, far_check 2 (.inr rfl) (h ▸ by decide)⟩, ⟨by decide, rfl⟩, rfl, rfl, nothing_early _ _ _ rfl, rfl, pays _ 1 (by decide) _ rfl rfl⟩
  · exact ⟨1, ⟨_, far_check 1 (.inl rfl) h⟩, ⟨by decide, rfl⟩, rfl, rfl, nothing_early _ _ _ rfl, rfl, pays _ 1 (by decide) _ rfl rfl⟩

/-! ## Engines -/

def su : State := at' f1 w0 b0 g0
def cu : Ctx := setting su f1 w0 b0 g0 (activeMask f1 (uni false))
def sg : State := paged dataLeaf su
def cg : Ctx := setting sg f1 w0 b0 g0 (activeMask f1 (uni false))
/-- 16 bytes from A to W, and each completion at the last place of A or in a page. -/
theorem witness_CopyQueues : QueueRoom b0 w0 7 ∧ HasCk b0 .cnt 63 ∧ Completes cu .none 0 .none
    ∧ Completes cu .bar 65520 (.bar 65520) ∧ Completes cu .cnta 65528 (.cnta 65528) ∧ Completes cg .cnt 8 (.cnt (.hbm 8))
    ∧ Spans cu .a .read noKeyRule noKeyRule false (su.chunks 0 .a 0 16) [⟨.buf 2 .a 0, 16, 0, 0, false⟩]
    ∧ Spans cu .w .read noKeyRule noKeyRule true (su.chunks 0 .w 65536 16) [⟨.buf 2 .w 65536, 16, 0, 65536, true⟩]
    ∧ Spans cu .w .write noKeyRule noKeyRule false (su.chunks 0 .w 65536 16) [⟨.buf 2 .w 65536, 16, 0, 65536, false⟩]
    ∧ (65536#64).toNat % 16 = 0 ∧ (16777216#64).toNat % 16 = 0 ∧ (16777216#64).toNat ≤ 16777216 :=
  ⟨by unfold QueueRoom; decide, by intro _; simp [HasU], rfl, ⟨by decide, 2, 65520, none, by decide, rfl⟩, ⟨by decide, 2, 65528, none, by decide, rfl⟩,
   ⟨by decide, .hbm 8, some (leafOf dataLeaf), by decide, rfl⟩,
   .cons ⟨.buf 2 .a 0, none, by decide, rfl⟩ .nil, .cons ⟨.buf 2 .w 65536, none, by decide, rfl⟩ .nil,
   .cons ⟨.buf 2 .w 65536, none, by decide, rfl⟩ .nil, by decide, by decide, by decide⟩
/-- A tensor record at VA 0: BF16, 4 by 2, from 0x1000, rows of 64 bytes. -/
def tlrBytes : List Byte := bytesOf (0x1000 : DWord) 8 ++ bytesOf (4 : Word) 4 ++ bytesOf (2 : Word) 4 ++ List.replicate 8 0
  ++ bytesOf (64 : DWord) 8 ++ List.replicate 16 0 ++ [2, 2] ++ List.replicate 14 0
def theTlr : Tlr := ⟨0x1000, [4, 2, 1, 1], [64, 0, 0], 2, 0, 2, 0⟩
def st : State := { sg with mem := { sg.mem with hbm := sg.mem.hbm.putN 0 tlrBytes } }
def ct : Ctx := setting st f1 w0 b0 g0 (activeMask f1 (uni false))
def box : List BoxRun := boxRuns theTlr 0 0 0 0 32 1
theorem witness_TensorCopies : QueueRoom b0 w0 0 ∧ HasU b0 [0, 2, 3]
    ∧ OneAccess st f1 w0 b0 g0 .g (f1.getU 0) 64 .read noKeyRule (.hbm 0) (some (leafOf dataLeaf)) ∧ readTlr (seenBytes st f1 b0 (.hbm 0) 64) = some theTlr
    ∧ (∃ spans, Spans ct .g .read (fun e => pteKy e != (theTlr.key != 0)) (fun e => pteFmt e != 0 && pteTag e != theTlr.tag) false
        (box.flatMap (fun x => st.chunksG 0 64 x.va x.len)) spans) ∧ boxBytes box ≤ b0.limit .a ∧ theTlr.key = 0 ∧ ¬(theTlr.fmt = 9 ∨ theTlr.fmt = 10)
    ∧ NothingEarly st w0 f1.mask :=
  ⟨by unfold QueueRoom; decide, by simp [HasU]; decide, ⟨by decide +kernel, trivial, by decide +kernel, settled_of _ _ _ rfl⟩, by decide +kernel,
   ⟨[⟨.hbm 0x1000, 8, 0, 0x1000, false⟩], by
     rw [show box.flatMap (fun x => st.chunksG 0 64 x.va x.len) = [(0x1000, 8)] from by decide +kernel]
     exact .cons ⟨.hbm 0x1000, some (leafOf dataLeaf), by decide +kernel, rfl⟩ .nil⟩, by decide, rfl, by decide,
   nothing_early _ _ _ rfl⟩

/-! ## Tiles and accumulators -/

theorem witness_TileRows : HasT b0 [3] ∧ HasU b0 [0] ∧ (∀ i, (activeMask f1 always).getLsbD i →
      (rowAddr f1 0 1 0 i).toNat % 16 = 0 ∧ (rowAddr f1 0 1 0 i).toNat + 64 ≤ b0.limit .a ∧ (rowAddr f1 0 1 0 i).toNat + 64 ≤ b0.limit .w
      ∧ sealedAt b0 (rowAddr f1 0 1 0 i).toNat 64 = false ∧ su.isPoisoned (.buf b0.id .w (rowAddr f1 0 1 0 i).toNat) 64 = false
      ∧ Settled su (.buf b0.id .w (rowAddr f1 0 1 0 i).toNat) 64) ∧ ∀ m, NothingEarly su w0 m :=
  ⟨by simp [HasT]; decide, by simp [HasU]; decide, fun i hi => by
    obtain rfl := only_lane i hi; exact ⟨by decide, by decide, by decide, by decide, by decide, settled_of _ _ _ rfl⟩, fun _ => nothing_early _ _ _ rfl⟩
/-- The last accumulator's place in C. -/
def fc : Frag := f1.setU 1 12288
theorem witness_Accumulators : HasA b0 [3] ∧ HasV b0 [63] ∧ HasT b0 [3] ∧ (addr fc 1 0).toNat % 128 = 0 ∧ (addr fc 1 0).toNat + 4096 ≤ b0.limit .c
    ∧ activeMask fc always ≠ 0 ∧ ∀ i, (activeMask fc always).getLsbD i →
      (at' fc w0 b0 g0).isPoisoned (.buf b0.id .c ((addr fc 1 0).toNat + 128 * i)) 128 = false ∧ Settled (at' fc w0 b0 g0) (.buf b0.id .c ((addr fc 1 0).toNat + 128 * i)) 128 :=
  ⟨by simp [HasA]; decide, by simp [HasV]; decide, by simp [HasT]; decide, by decide, by decide, by decide, fun i hi => by
    obtain rfl := only_lane i hi; exact ⟨by decide, settled_of _ _ _ rfl⟩⟩
theorem clean_w (o n : Nat) : su.isPoisoned (.buf 2 .w o) n = false := by
  show (touchedLines o n).any (fun l => ([] : List (Buf × Nat)).contains (Buf.w, l)) = false
  simp
theorem witness_Products : Product (.mmaz always 0 0 2 0 false .tile 2 2) true always 0 0 2 0 .tile 2 2 ∧ HasA b0 [0] ∧ HasT b0 [0, 2]
    ∧ activeMask f1 always ≠ 0 ∧ activeMask f1 onP1 = 0
    ∧ (∃ m o fmt bg, InW su b0 g0 false (f1.getU 0) 2 2 m o fmt bg) ∧ (∃ m o fmt bg, InW su b0 g0 true (f1.getU 0) 2 2 m o fmt bg) := by
  refine ⟨.mmaz .., by simp [HasA]; decide, by simp [HasT]; decide, by decide, by decide, ⟨b0, 0, 2, 0, ?_⟩, ⟨b0, 0, 2, 0, ?_⟩⟩
  · exact ⟨fun _ => ⟨rfl, by decide⟩, (by intro h; cases h), by decide, by decide, by decide, by decide, by decide, (by intro h; cases h), clean_w, fun _ => settled_of _ _ _ rfl⟩
  · exact ⟨(by intro h; cases h), fun _ => ⟨by decide, by decide, rfl, by decide⟩, by decide, by decide, by decide, by decide, by decide, (by intro h; cases h), clean_w, fun _ => settled_of _ _ _ rfl⟩
/-- B in the tensor of the record. -/
theorem witness_Products_tensor : HasU b0 [0, 1]
    ∧ (st.check g0 w0 b0 .g (Mask.lowest (activeMask f1 always)) (f1.getU 0) 64 .read noKeyRule noKeyRule = .ok (.hbm 0) (some (leafOf dataLeaf)))
    ∧ mmaPair 2 theTlr.fmt = true
    ∧ (∀ r ∈ tensorRuns theTlr (f1.getU 1) (rowCount 2),
        st.checkG b0.core g0.job (BitVec.ofNat 64 r.1) r.2 .read (fun x => pteKy x != (theTlr.key != 0)) (fun x => pteFmt x != 0 && pteTag x != theTlr.tag) = .ok (.hbm r.1) (some (leafOf dataLeaf))
        ∧ st.isPoisoned (.hbm r.1) r.2 = false ∧ r.1 < 2 ^ 64) ∧ (∀ a k u o, Place.hbm a ≠ .buf k u o) ∧ NothingEarly st w0 (activeMask f1 always) :=
  ⟨by simp [HasU]; decide, by decide +kernel, by decide +kernel, by decide +kernel, (by intro a k u o h; cases h), nothing_early _ _ _ rfl⟩

/-! ## Queues and placement -/

/-- A grid of `n` blocks in gangs of `k`, none of them placed. -/
def gridOf (n k : Nat) : Grid := { g0 with launch := { placedLaunch with gx := n, gang := k }, nextUnit := 0 }
/-- The device with its ROM done, one queue, and some grids, blocks and first gangs. -/
def host (q : Queue) (gs : List Grid) (bs : List Block) (fs : List FirstGang) : State :=
  let s := paged dataLeaf (at' f0 w0 b0 g0)
  { s with fw := { s.fw with dstat := up }, time := 100000
           work := { s.work with queues := [q], grids := gs, blocks := bs, warps := [], frags := [], firstGangs := fs } }
def q0 : Queue := newQueue 0 16 0 true 1000 true
/-- A record with sequence number 1 and its completion record at VA 0. -/
def rec1 : BitVec 2048 := BitVec.ofNat 2048 (2 ^ 896)
def q1 : Queue := { q0 with tail := 1, ring := [(0, rec1)] }
def savedBlock : Block := { b0 with run := .saved, core := 192 }
/-- TAIL one past and at the ring's end; a record in turn and out of turn, with and without a place for its completion record. -/
theorem witness_LaunchAndPlacement_queue : OpenWindow (host q1 [] [] []) ∧ (host q1 [] [] []).queue? 0 = some q1 ∧ q1.enable = true
    ∧ q1.head + q1.size < (17#64).toNat ∧ ¬(q1.head + q1.size < (16#64).toNat) ∧ 15 < q1.size
    ∧ q1.status ≠ .faulted ∧ q1.head < q1.tail ∧ (getKey (q1.head % q1.size) q1.ring).getD 0 = rec1 ∧ rec1.toNat / 2 ^ 896 % 2 ^ 64 = q1.head + 1
    ∧ (host q1 [] [] []).cvaPlace? q1.job (readLaunch rec1).cva ≠ none ∧ s0.cvaPlace? q1.job (readLaunch rec1).cva = none
    ∧ (0#2048).toNat / 2 ^ 896 % 2 ^ 64 ≠ q1.head + 1 :=
  ⟨⟨⟨rfl, rfl, rfl⟩, (by intro h; cases h)⟩, rfl, rfl, by decide, by decide, by decide, by decide, by decide, rfl, by decide +kernel, by decide +kernel, by decide +kernel, by decide +kernel⟩
theorem witness_LaunchAndPlacement_grid :
    ((host q0 [g0] [] []).gridOf? g0.gid (host q0 [g0] [] []).gridDone = some g0)
    ∧ ((host q0 [g0] [] []).cvaWaits g0.job g0.launch.cva = false ∧ (paged (BitVec.ofNat 128 (1 + 4 + 8 + 32 + 2 ^ 6 * 5)) (host q0 [g0] [] [])).cvaWaits g0.job g0.launch.cva = true)
    ∧ ((host q0 [g0] [] []).cvaPlace? g0.job g0.launch.cva = some (.hbm 0) ∧ (host q0 [g0] [] []).mem.hbm.wf = true)
    ∧ (let s := host q0 [gridOf 1 1] [] []
       s.nextGrid? (fun x => x.gid == g0.gid) false = some (gridOf 1 1, 0) ∧ (gridOf 1 1).launch.gang = 1 ∧ s.coreFits (gridOf 1 1) 0 191 = true
       ∧ s.clusterOk (gridOf 1 1) (false, 0) (191 / 16) = true ∧ s.partsTake 191 (gridOf 1 1) [3] = true)
    ∧ (let s := host q0 [gridOf 2 2] [] []
       s.nextGrid? (fun x => x.gid == g0.gid) false = some (gridOf 2 2, 0) ∧ 1 < (gridOf 2 2).launch.gang ∧ s.coresOk (gridOf 2 2) (false, 0) [14, 15] = true
       ∧ s.autoParts 14 (gridOf 2 2) ≠ none ∧ (s.placeBlock (gridOf 2 2) 0 14 [0]).autoParts 15 (gridOf 2 2) ≠ none) := by
  refine ⟨by decide +kernel, ⟨by decide +kernel, by decide +kernel⟩, ⟨by decide +kernel, by decide +kernel⟩, ⟨by decide +kernel, rfl, by decide +kernel, by decide +kernel, by decide +kernel⟩,
    by decide +kernel, by decide, by decide +kernel, by decide +kernel, by decide +kernel⟩
/-- A gang that has been first for 100 µs; a saved block on a core that takes it. -/
theorem witness_LaunchAndPlacement_hold : let f : FirstGang := ⟨0, 1, 0, 0⟩
    (let s := host q0 [gridOf 2 2] [] [f]
     s.noteFirst.work.firstGangs.find? (fun x => (match s.grid? x.grid with | some y => y.gid == g0.gid | none => false) && x.since + 100000 ≤ s.time) = some f
     ∧ s.grid? f.grid = some (gridOf 2 2) ∧ 11 < 12 ∧ (gridOf 2 2).launch.gang ≤ (s.work.liveCores.filter (fun c => c / 16 == 11)).length
     ∧ (∀ h ∈ s.work.holds, h.cluster ≠ 11 ∧ ¬(h.grid = f.grid ∧ h.gang = f.gang)))
    ∧ (let s := host q0 [gridOf 1 1] [savedBlock] []
       s.block? savedBlock.id = some savedBlock ∧ s.grid? savedBlock.grid = some (gridOf 1 1) ∧ s.nextGrid? (fun x => x.key == g0.key) true = some (gridOf 1 1, 0)
       ∧ s.coresOk (gridOf 1 1) (true, 0) [0] = true ∧ s.autoParts 0 (gridOf 1 1) ≠ none
       ∧ savedBlock ∈ s.work.blocks.filter (fun x => x.grid == (gridOf 1 1).key && x.gang == 0 && x.run == .saved)) := by
  refine ⟨⟨by decide +kernel, rfl, by decide, by decide +kernel, (by intro h hh; cases hh)⟩, rfl, rfl, by decide +kernel, by decide +kernel, by decide +kernel,
    List.mem_filter.mpr ⟨List.mem_singleton.mpr rfl, by decide⟩⟩
theorem witness_EntryState : 1 ≤ g0.launch.threads ∧ g0.launch.threads ≤ g0.quota.qthr := by decide

/-! ## Pans, buffers, engine queues -/

def pan32 : Pan := { panOf 76 0 32 with opened := 0, timer := 512 }
def bspare : Block := { b0 with slots := [0, 31] }
def withPan (p : Pan) (b : Block) : State := let s := at' f0 w0 b g0; { s with cycle := 512, work := { s.work with pans := [p] } }
/-- An entry of the fragment store buffer, and one that drains from the block's. -/
def entry0 : Entry := ⟨8, 8, [4], 3, 0, [⟨[0], 0, .buf 2 .a 0, [1], none⟩], false, false, false⟩
def bfsb : Block := { b0 with fsb := [entry0] }
def bbsb : Block := { b0 with bsb := [{ entry0 with draining := true }] }
/-- An operation from A to W at the head of queue 0, and one with a remote source. -/
def opOf (src : Place) (wrote : Bool) (out : Nat) : EngOp :=
  ⟨9, 3, 4, 9, [⟨some ⟨src, 16, 0, 0, false⟩, some ⟨.buf 2 .w 0, 16, 0, 0, false⟩, 16⟩], 0, false, none, none, .none, 16, [], false, wrote, [], out⟩
def bop (o : EngOp) (fsb : List Entry) : Block := { (b0.setQueue 0 [o]) with fsb }
theorem free_head (o : EngOp) (fsb : List Entry) (h : o.waits = []) (h2 : o.outstanding = 0) : HeadFree s0 (bop o fsb) g0 o :=
  ⟨⟨(by intro h; cases h), (by intro x hx; rw [List.mem_singleton.mp (List.mem_filter.mp hx).1]; rfl), by decide⟩, (by intro h; cases h),
   (by rw [h]; intro k hk; cases hk), h2⟩
theorem witness_BlockMachinery_pan : (withPan pan32 b0).pan? pan32.id = some pan32 ∧ pan32.opened + pan32.timer ≤ (withPan pan32 b0).cycle
    ∧ pan32.threads.length = 32 ∧ ({ panOf 76 0 1 with expired := true } : Pan).threads.length ≤ 32
    ∧ (withPan pan32 bspare).block? pan32.block = some bspare ∧ bspare.preq = none ∧ bspare.run = .placed ∧ 31 < 32
    ∧ (withPan pan32 bspare).contextFree bspare (BitVec.ofNat 5 31) = true ∧ bspare.restoring = false ∧ (withPan pan32 bspare).blockFilling bspare = false :=
  ⟨by decide, by decide, by decide, by decide, rfl, rfl, rfl, by decide, by decide, rfl, by decide⟩
theorem witness_BlockMachinery_buffers : (blockOf? (at' f0 w0 bfsb g0) 4 = some bfsb ∧ releasable (bfsb.fsbOf 4) ≠ [])
    ∧ (∃ e, bbsb.bsb[0]? = some e ∧ e.draining = true ∧ bbsb.drainable e = true)
    ∧ (∀ o, (at' f0 w0 (bop o []) g0).block? 2 = some (bop o []) ∧ (bop o []).queue 0 = [o])
    ∧ HeadFree s0 (bop (opOf (.buf 2 .a 0) true 0) []) g0 (opOf (.buf 2 .a 0) true 0)
    ∧ ¬OldStoresDone (bop (opOf (.buf 2 .a 0) false 0) [entry0]) (opOf (.buf 2 .a 0) false 0)
    ∧ (OldStoresDone (bop (opOf (.buf 2 .a 0) false 0) []) (opOf (.buf 2 .a 0) false 0) ∧ (opOf (.buf 2 .a 0) false 0).sources = []
      ∧ (opOf (.buf 2 .a 0) false 0).targets = [] ∧ s0.opPoisoned (opOf (.buf 2 .a 0) false 0) = false)
    ∧ ((opOf (.far 1 0) false 0).started = false ∧ (opOf (.far 1 0) false 0).sources ≠ [] ∧ s0.opPoisoned (opOf (.far 1 0) false 0) = false) := by
  refine ⟨⟨rfl, by decide⟩, ⟨{ entry0 with draining := true }, rfl, rfl, by decide⟩, fun o => ⟨rfl, rfl⟩, free_head _ _ rfl rfl, ?_, ⟨?_, by decide, by decide, by decide⟩,
    by decide, by decide, by decide⟩
  · intro h; exact absurd (h entry0 (by decide)) (by decide)
  · unfold OldStoresDone; decide
/-- A remote part unanswered for 100 µs, and an LDF that has waited its limit. -/
theorem witness_BlockMachinery_limits :
    (let r : Request := ⟨0, 1, 0, 1, .engine 2 0 9, 0⟩; let s : State := { (at' f0 w0 (bop (opOf (.far 1 0) false 1) []) g0) with time := 100000 }
     r.purpose = .engine 2 (0#3).toNat 9 ∧ r.sent + 100000 ≤ s.time)
    ∧ (let w : Nat := 0x62E20300 + 2 ^ 32 * 0x00881020; let f : Frag := { f0 with run := .parked .fullEmpty 0, emptyWait := 16777215 }
       let s0 := State.reset.withFetchWord 64 w; let s : State := { s0 with cycle := 1, work := { s0.work with frags := [f] } }
       f.run = .parked .fullEmpty 0 ∧ 16777216 ≤ f.emptyWait + (s.cycle - 0)
       ∧ ∃ h d m cf pipe, (s.fetch g0.job placedKernel f.pc).1 = .ok (.ldf h d m) cf pipe) :=
  ⟨⟨rfl, by decide⟩, rfl, by decide, _, _, _, _, _, rfl⟩

/-! ## Packets -/

/-- A packet of device 1 at the last port, of key 0 and of key 7. -/
def pkt (n : BitVec 3) : Arrival := ⟨17, 1, 0, 0, 0, n, false⟩
def p0 : Arrival := pkt 0
def p7 : Arrival := ⟨0, 1, 7, 0, 0, 0, false⟩
theorem opens (s : State) (h : s.fw.dstat = up) : OpenWindow s := ⟨by rw [h]; decide, by rw [h]; intro h; cases h⟩
theorem fitting (s : State) (n : BitVec 3) (cls : BitVec 2) (h : s.fw.dstat = up) (hn : n.toNat ≤ 4) : Fitting s (pkt n) cls n.toNat :=
  ⟨⟨rfl, hn⟩, fun _ => opens s h⟩
def admits7 : State := let s := sg; { s with fab := { s.fab with members := [(0, [7])] } }
theorem taken (s : State) (n : BitVec 3) : Taken s (pkt n) := ⟨rfl, by show 17 < 18; decide, .inl rfl⟩
theorem taken0 (s : State) : Taken s p0 := taken s 0
def heldState : State := let s := sg; { s with coll := { s.coll with ranges := [⟨0, 0, 64, some (5, 0), [⟨.hbm 0, 64, 0, 0, false⟩]⟩] } }
def poisonState : State := let s := sg; { s with mem := { s.mem with poisoned := [0] } }
theorem status_beyond : StatusAt sg (2 ^ 39 - 63) 64 true 3 := .inl ⟨rfl, by decide⟩
theorem status_ok : StatusAt sg (2 ^ 39 - 64) 64 true 0 :=
  .inr ⟨by decide, .inr ⟨(by rintro ⟨r, hr, _⟩; cases hr), .inr ⟨rfl, (by rintro ⟨_, h⟩; revert h; decide)⟩⟩⟩
theorem status_held : StatusAt heldState 63 1 false 2 :=
  .inr ⟨by decide, .inl ⟨rfl, _, List.mem_singleton.mpr rfl, rfl, _, List.mem_singleton.mpr rfl, by decide⟩⟩
theorem status_poison : StatusAt poisonState 0 64 true 1 :=
  .inr ⟨by decide, .inr ⟨(by rintro ⟨r, hr, _⟩; cases hr), .inl ⟨rfl, rfl, by decide⟩⟩⟩
/-- The first and the last port, key 0 and an admitted one, each STATUS, a READ refused at its first line, and WRITEs to a VA that its page takes,
refuses and holds. -/
theorem witness_PacketsAtHome : Taken sg p0 ∧ Taken admits7 p7 ∧ (∀ n : BitVec 3, n.toNat ≤ 4 → ∃ t, Arrives sg (pkt n) 0 n.toNat t)
    ∧ StatusAt sg (2 ^ 39 - 63) 64 true 3 ∧ StatusAt sg (2 ^ 39 - 64) 64 true 0
    ∧ StatusAt heldState 63 1 false 2 ∧ StatusAt poisonState 0 64 true 1 ∧ maskLines 0x9 = [] ++ 0 :: [3] ∧ (arrived sg p0 0 1).sync.histories = []
    ∧ lineFlits [0, 63] 1
    ∧ (∃ j lf, (arrived sg p0 0 2).keyJob? p0.key = some j ∧ (arrived sg p0 0 2).leaf? j.num 0 = some lf ∧ pteW lf.pte = true ∧ pteShst lf.pte = shPrivate
        ∧ (0#64).toNat + 64 ≤ lf.page.toNat + lf.size ∧ lf.place 0 = .hbm 0 ∧ (arrived sg p0 0 2).heldAt (.hbm 0) 64 = false ∧ heldState.heldAt (.hbm 0) 64 = true
        ∧ lf.page.toNat + lf.size < (0x3FFFFFC1#64).toNat + 64)
    ∧ ((pkt 1).len ≠ 0 ∧ ∃ x ∈ [((17 : Nat), [channel 0 0])], x.1 = p0.port.toNat ∧ channel 0 p0.hop ∈ x.2)
    ∧ (({ p0 with bad := true } : Arrival).bad = true ∧ 18 ≤ ({ p0 with port := 18 } : Arrival).port.toNat ∧ (p7.key ≠ 0 ∧ ∀ m ∈ sg.fab.members, m.1 = p7.port.toNat → p7.key ∉ m.2)) := by
  refine ⟨taken0 _, ⟨rfl, by decide, .inr ⟨_, List.mem_singleton.mpr rfl, rfl, List.mem_singleton.mpr rfl⟩⟩, fun n hn => ⟨_, fitting _ n 0 rfl hn, rfl⟩, status_beyond,
    status_ok, status_held, status_poison, by decide, rfl, ⟨[0], by decide, (by simp [eq_comm]), rfl⟩, ?_,
    ⟨by decide, _, List.mem_singleton.mpr rfl, rfl, List.mem_singleton.mpr rfl⟩, rfl, by decide, by decide, (by intro m hm; cases hm)⟩
  exact ⟨_, leafOf dataLeaf, rfl, by decide, by decide, by decide, by decide, by decide, by decide, by decide, by decide⟩
/-- A request of some purpose, unanswered for 100 µs. -/
def asked (why : Purpose) : State := let s := sg; { s with time := 100000, fab := { s.fab with requests := [⟨3, 1, 0, 1, why, 0⟩] } }
def owes : Returns := ⟨1, 65535, 65535, 0, 0, 0, some 0⟩
theorem witness_Replies :
    (∀ why, why ∈ [Purpose.load 4, .atomic 4 31, .engine 2 7 9, .posted, .collRead 5 0, .collWrite 5 0, .record 1] →
      Taken (asked why) p0 ∧ Arrives (asked why) p0 1 0 (arrived (asked why) p0 1 0) ∧ Answers (arrived (asked why) p0 1 0) p0 3 ⟨3, 1, 0, 1, why, 0⟩)
    ∧ Fitting (asked .posted) p0 3 0 ∧ (0#8).toNat < 2 ∧ 2 ≤ (4#8).toNat ∧ (4#8).toNat < 5 ∧ 0 < (1#8).toNat
    ∧ (let o := opOf (.far 1 0) false 1; (at' f1 w0 (bop o []) g0).block? 2 = some (bop o []) ∧ ((bop o []).queue 0).find? (fun x => x.id == o.id) = some o)
    ∧ (∃ w, (asked .posted).work.warps[0]? = some w)
    ∧ (∃ r ∈ (asked (.load 4)).fab.requests, r.isOf [4] = true ∧ r.sent + 100000 ≤ (asked (.load 4)).time)
    ∧ ((asked .posted).fab.requests.find? (fun x => x.tag == 3 && x.isPosted) = some ⟨3, 1, 0, 1, .posted, 0⟩)
    ∧ ([owes].find? (fun x => x.dev == 1) = some owes ∧ owes.since = some 0 ∧ 0 + 200 ≤ (asked .posted).time ∧ owes.req < 65536 ∧ owes.page < 65536) := by
  refine ⟨?_, fitting _ 0 3 rfl (by decide), by decide, by decide, by decide, by decide, ⟨rfl, rfl⟩, ⟨w0, rfl⟩, ⟨_, List.mem_singleton.mpr rfl, by decide, by decide⟩, by decide, by decide, rfl, by decide, by decide, by decide⟩
  intro why h
  simp only [List.mem_cons, List.not_mem_nil, or_false] at h
  rcases h with rfl | rfl | rfl | rfl | rfl | rfl | rfl <;> exact ⟨taken0 _, ⟨fitting _ 0 1 rfl (by decide), rfl⟩, by unfold Answers; decide⟩

/-! ## Sharded pages -/

/-- The leaf of a 1 GiB sharded page of the group, in a state, as weights or gradients. -/
def shardPte (shst : Nat) (role : Bool) : BitVec 128 :=
  BitVec.ofNat 128 (1 + 8 + 32 + 2 ^ 6 * shst + (if role then 2 ^ 9 + 2 ^ 10 + 4 else 0) + 2 ^ 56 * 5)
def shardState (e : BitVec 128) (ts : List Transition) (pool : Nat) (swapped : Bool) : State :=
  let s := paged e su
  { s with
    mem := { s.mem with transitions := ts, framePool := pool }
    work := { s.work with groups := [g2], jobs := [⟨0, placedRoot, 0, swapped, [], [], [], none⟩] } }
def msg : PageMsg := ⟨1, 5, 0, 1, 0, 2, 0, 0, 1, [], 0⟩
def u0 (s : State) : State := (arrived s p0 2 0).hearPage 0 0 1
/-- HBM of `shardState`, with its page tables. -/
def shardHbm (shst : Nat) (role : Bool) : Memory := (paged (shardPte shst role) su).mem.hbm
theorem shard_mem (e : BitVec 128) (ts : List Transition) (n : Nat) (x : Bool) : (shardState e ts n x).mem.hbm = (paged e su).mem.hbm := by
  unfold shardState; generalize paged e su = s; rfl
theorem shard_hbm (k : Nat) (role : Bool) (ts : List Transition) (n : Nat) (x : Bool) : (shardState (shardPte k role) ts n x).mem.hbm = shardHbm k role := shard_mem ..
theorem shard_job (e : BitVec 128) (ts : List Transition) (n : Nat) (x : Bool) : (shardState e ts n x).job? 0 = some ⟨0, placedRoot, 0, x, [], [], [], none⟩ := rfl
theorem runs_shard (e : BitVec 128) (ts : List Transition) (n : Nat) (x : Bool) : Runs (shardState e ts n x) f1 w0 b0 g0 := ⟨rfl, rfl, rfl⟩
theorem shard_walk : ∀ shst ∈ [1, 2, 3, 4, 5, 6], ∀ role : Bool,
    walkFrom (shardHbm shst role) 0 levels placedRoot = some (placedRoot + 16384, shardPte shst role, 2 ^ 30) := by decide
theorem leaf_of_walk (s : State) (j : Job) (e : BitVec 128) (m : Memory) (hj : s.job? 0 = some j) (hr : j.root = placedRoot) (hp : s.mem.hbm = m)
    (hw : walkFrom m 0 levels placedRoot = some (placedRoot + 16384, e, 2 ^ 30)) :
    s.leaf? 0 0 = some (leafOf e) := by
  unfold State.leaf?
  rw [if_neg (by decide), hj]
  show (match walkFrom s.mem.hbm 0 levels j.root with | none => none | some (pa, e, size) => some (⟨0, pa, e, pageBase 0 size, size⟩ : Leaf)) = _
  rw [hp, hr, hw]; rfl
theorem group_ok (s : State) (lf : Leaf) (h : s.group? (pteSgid lf.pte) = some g2) (hj : lf.job = 0 := by rfl) : s.groupOk lf = true := by
  unfold State.groupOk; rw [h, hj]; decide
theorem leaf_shard (k : Nat) (hk : k ∈ [1, 2, 3, 4, 5, 6]) (role : Bool) (ts : List Transition) (n : Nat) (x : Bool) :
    (shardState (shardPte k role) ts n x).leaf? 0 0 = some (leafOf (shardPte k role)) :=
  leaf_of_walk _ _ _ _ (shard_job ..) rfl (shard_hbm ..) (shard_walk k hk role)
theorem leaf_arrived (s : State) (j : BitVec 16) (va : DWord) : (arrived s p0 2 0).leaf? j va = s.leaf? j va := rfl
theorem leaf_u0 (s : State) (j : BitVec 16) (va : DWord) : (u0 s).leaf? j va = s.leaf? j va := rfl
theorem reaches (shst : Nat) (role : Bool) (ts : List Transition) (pool : Nat) (swapped : Bool) (h : shst ∈ [1, 2, 3, 4, 5, 6]) :
    Reaches (shardState (shardPte shst role) ts pool swapped) p0 msg (leafOf (shardPte shst role)) g2 (u0 (shardState (shardPte shst role) ts pool swapped)) :=
  have hs : ∀ shst ∈ [1, 2, 3, 4, 5, 6], ∀ role : Bool, pteShst (shardPte shst role) ≠ shPrivate ∧ pteShst (shardPte shst role) ≠ shFailed := by decide
  have hz : ∀ shst ∈ [1, 2, 3, 4, 5, 6], ∀ role : Bool, pteSz (shardPte shst role) = msg.sz ∧ pteSgid (shardPte shst role) = msg.sgid := by decide
  have hgr : (shardState (shardPte shst role) ts pool swapped).group? (pteSgid (shardPte shst role)) = some g2 := by rw [(hz shst h role).2]; rfl
  have hok := group_ok (shardState (shardPte shst role) ts pool swapped) (leafOf (shardPte shst role)) hgr
  ⟨taken0 _, fitting _ 0 2 rfl (by decide), ⟨_, rfl, (leaf_arrived ..).trans (leaf_shard shst h role ts pool swapped)⟩, rfl, hs shst h role, by decide, hz shst h role, ⟨hok, hgr⟩, rfl⟩
def tr (kind : OpKind) (requested : Bool) (got : List (Nat × Nat)) : Transition := ⟨0, 0, kind, 0, 1, true, requested, [], false, got, [], [], [(1, 0)]⟩
theorem witness_Gathers_open : Current msg (leafOf (shardPte 1 false)) ∧ pteRole (shardPte 1 false) = false
    ∧ (leafOf (shardPte 1 false)).page.toNat / (leafOf (shardPte 1 false)).size % g2.n = g2.rank
    ∧ (∃ x, (u0 (shardState (shardPte 1 false) [tr .gather false []] 16384 false)).transition? 0 0 = some x ∧ x.requested = false ∧ x.opn = msg.opn)
    ∧ ((u0 (shardState (shardPte 1 false) [] 16384 false)).transition? 0 0 = none ∧ (u0 (shardState (shardPte 1 false) [] 16384 false)).canOpen true = true
      ∧ (u0 (shardState (shardPte 1 false) [] 16384 false)).frameFree (2 ^ 30) = true)
    ∧ (u0 (shardState (shardPte 1 false) [] 16383 false)).frameFree (2 ^ 30) = false
    ∧ (u0 (shardState (shardPte 1 false) [] 16384 true)).isSwapped 0 = true ∧ (u0 (shardState (shardPte 1 false) [] 16384 false)).isSwapped 0 = false
    ∧ (u0 (shardState (shardPte 1 false) [tr .gather true []] 16384 false)).transition? 0 0 ≠ none
    ∧ NotOpen (u0 (shardState (shardPte 1 false) [tr .gather true []] 16384 false)) (leafOf (shardPte 1 false)) msg := by
  refine ⟨by unfold Current; decide, by decide, by decide, ⟨_, rfl, by decide, by decide⟩, ⟨by decide, by decide, by decide⟩, by decide, by decide, by decide, by decide, ?_⟩
  intro x hx
  have : x = { tr .gather true [] with heard := setKey 1 0 [(1, 0)] } := by
    have h : (u0 (shardState (shardPte 1 false) [tr .gather true []] 16384 false)).transition? 0 0 = some { tr .gather true [] with heard := setKey 1 0 [(1, 0)] } := by decide
    exact (Option.some.inj (h.symm.trans hx)).symm
  subst this
  intro h; revert h; decide
theorem open_count (n : Nat) :
    (u0 (shardState (shardPte 1 false) (List.replicate n { tr .gather false [] with job := 1 }) 16384 false)).canOpen true = decide (n < 3072) := by
  have h : updWhere (fun t => t.job == 0 && t.page == 0) (fun t => { t with heard := setKey 1 0 t.heard })
      (List.replicate n { tr .gather false [] with job := 1 }) = List.replicate n { tr .gather false [] with job := 1 } := by
    rw [updWhere, List.map_replicate]; simp [tr]
  have k : (u0 (shardState (shardPte 1 false) (List.replicate n { tr .gather false [] with job := 1 }) 16384 false)).mem.transitions
      = List.replicate n { tr .gather false [] with job := 1 } := h
  unfold State.canOpen
  rw [k, List.filter_replicate]
  simp [tr]
  omega
/-- 3,072 operations of this device are open. -/
theorem witness_Gathers_busy : ∃ ts, (u0 (shardState (shardPte 1 false) ts 16384 false)).canOpen true = false :=
  ⟨_, (open_count 3072).trans (by decide)⟩
theorem all_landed : AllLanded ((tr .gather false [(1, 2 ^ 25 - 1)]).count 1 1) (leafOf (shardPte 2 false)) g2
    ∧ ¬AllLanded ((tr .gather false [(1, 2 ^ 25 - 2)]).count 1 1) (leafOf (shardPte 2 false)) g2 := by
  constructor
  · have h : ∀ r, r < 2 → r ≠ 0 → ownedBy (2 ^ 26) 2 r ≤ (getKey r (tr .gather false [(1, 2 ^ 25 - 1)] |>.count 1 1).got).getD 0 := by decide
    exact h
  · intro h
    exact absurd (h 1 (by decide) (by decide)) (by decide)
theorem witness_Gathers_landing : (AllLanded ((tr .gather false [(1, 2 ^ 25 - 1)]).count 1 1) (leafOf (shardPte 2 false)) g2)
    ∧ (∃ x, (u0 (shardState (shardPte 6 false) [tr .fill false []] 16384 false)).fill? 0 0 = some x) ∧ msg.status ≠ 1 ∧ ({ msg with status := 1 } : PageMsg).status = 1
    ∧ ({ msg with gen := 1 } : PageMsg).gen ≠ pteGen (shardPte 1 false)
    ∧ (let s := shardState (shardPte 6 false) [] 16384 false; let j : Job := ⟨0, placedRoot, 0, false, [], [], [0], none⟩; let s : State := { s with work := { s.work with jobs := [j] } }
       s.job? 0 = some j ∧ j.swapped = false ∧ s.leaf? 0 0 = some (leafOf (shardPte 6 false)) ∧ pteShst (shardPte 6 false) = shPending ∧ s.frameFree (2 ^ 30) = true
       ∧ s.leafGroup (leafOf (shardPte 6 false)) = some g2)
    ∧ (let s := shardState (shardPte 3 false) [] 16384 false
       s.leaf? 0 0 = some (leafOf (shardPte 3 false)) ∧ pteShst (shardPte 3 false) = shGathered ∧ s.transition? 0 0 = none ∧ s.pageHeld (leafOf (shardPte 3 false)) = false) :=
  ⟨all_landed.1, ⟨_, rfl⟩, by decide, rfl, by decide, ⟨rfl, rfl, rfl, by decide, by decide, rfl⟩, ⟨rfl, by decide, by decide, by decide⟩⟩
/-- A granule that has been taken already; pages that memory pressure takes from each state; a walk under way. -/
theorem witness_Gathers_pressure : ({ tr .gather false [] with seen := [0] } : Transition).repeats msg = true ∧ (tr .gather false []).repeats msg = false
    ∧ (∀ k ∈ [3, 4, 6], let s := shardState (shardPte k false) [] 16384 false
        s.leaf? 0 0 = some (leafOf (shardPte k false)) ∧ s.transition? 0 0 = none ∧ s.fill? 0 0 = none ∧ s.pageHeld (leafOf (shardPte k false)) = false)
    ∧ pteShst (shardPte 4 false) = shPartial ∧ pteShst (shardPte 6 false) = shPending ∧ (shardState (shardPte 6 false) [] 16384 false).job? 0 ≠ none
 := by
  refine ⟨by decide, by decide, by decide, by decide, by decide, by decide⟩
/-- A walk for two cores behind `n` others of its die. -/
def walking (n : Nat) : State := let s := sg; { s with mem := { s.mem with
  walks := (List.range n).map (fun i => ⟨0, BitVec.ofNat 64 (65536 * (i + 1)), [95]⟩) ++ [⟨0, 0, [0, 191]⟩] } }
/-- A table with a leaf at the given one of its three last levels; `depth` is 0 for 1 GiB, 2 for 64 KiB. -/
def deepHbm (depth : Nat) : Memory :=
  (List.range (3 + depth)).foldl (fun m i => m.putN (placedRoot + 8192 * i)
    (bytesOf (if i = 2 + depth then BitVec.ofNat 128 (1 + 8 + 16 * (2 - depth)) else BitVec.ofNat 128 (1 + 48 + (placedRoot + 8192 * (i + 1)))) 16)) []
theorem witness_Gathers_walks : (∀ n, n = 0 ∨ n = 63 ∨ n = 64 → let s := walking n
      s.mem.walks.find? (fun y => y.job == 0 && y.page == 0) = some ⟨0, 0, [0, 191]⟩ ∧ s.inWalker ⟨0, 0, [0, 191]⟩ = decide (n < 64))
    ∧ ([0, 191] : List Nat).Nodup ∧ (walking 0).leaf? 0 0 = some (leafOf dataLeaf)
    ∧ ((walking 1).mem.walks.filter (fun y => y.job == 0 && y.page == 0)).length ≤ 1 ∧ canonical 0 = true ∧ pointerValid 48 (pteAt [] placedRoot) = false := by
  refine ⟨?_, by decide, by decide, by decide, by decide, by decide⟩
  rintro n (rfl | rfl | rfl) <;> decide
theorem witness_Gathers_tables : ∀ depth, depth < 3 → let e := fun i => pteAt (deepHbm depth) (placedRoot + 8192 * i)
      pointerValid 48 (e 0) = true ∧ pointerValid 39 (e 1) = true ∧ pointerNext (e 0) = placedRoot + 8192
      ∧ (depth = 0 ∨ pointerValid 30 (e 2) = true ∧ (depth = 1 ∨ pointerValid 21 (e 3) = true)) ∧ leafValid (30 - 9 * depth + (if depth = 2 then 4 else 0)) (e (2 + depth)) = true := by
  decide
/-- A copy of the page in an engine queue holds it. -/
def heldPage : State := let s := shardState (shardPte 4 true) [] 16384 false
  { s with work := { s.work with blocks := [bop (opOf (.frame 0 0 0) false 0) []] } }
theorem witness_Drains : pteRole (shardPte 4 true) = true ∧ Current msg (leafOf (shardPte 4 true))
    ∧ (u0 (shardState (shardPte 4 true) [] 16384 false)).pageEntryFree = true ∧ (u0 (shardState (shardPte 4 true) [] 16384 false)).pageHeld (leafOf (shardPte 4 true)) = false
    ∧ (u0 (shardState (shardPte 4 true) [] 16384 false)).canOpen false = true ∧ NotOpen (u0 (shardState (shardPte 4 true) [] 16384 false)) (leafOf (shardPte 4 true)) msg
    ∧ ({ heldPage with work := { heldPage.work with blocks := [{ bop { opOf (.frame 0 0 0) false 0 with moves := [⟨some ⟨.frame 0 0 0, 16, 0, 0, false⟩, none, 16⟩] } [] with grid := 1 }] } } : State).pageHeld (leafOf (shardPte 4 true)) = true
    ∧ (∃ x, OpenHere (u0 (shardState (shardPte 5 true) [tr .drain false []] 16384 false)) (leafOf (shardPte 5 true)) msg x ∧ x.kind = .drain)
    ∧ (u0 (shardState (shardPte 5 true) [tr .drain false []] 16384 false)).leaf? 0 0 = some (leafOf (shardPte 5 true))
    ∧ (∃ x, OpenHere (u0 (shardState (shardPte 3 false) [tr .gather false []] 16384 false)) (leafOf (shardPte 3 false)) msg x ∧ x.kind = .gather)
    ∧ (let x : Packet := ⟨1, 2, .gdata p0 msg⟩; [x] = [] ++ x :: [] ∧ x.answeredBy p0 msg = true)
    ∧ (g2.n ≠ 0 ∧ ({ msg with gran := 2 } : PageMsg).gran.toNat % g2.n = g2.rank ∧ msg.ngran = 1 ∧ 1 < ownedBy (leafOf (shardPte 5 true)).granules g2.n g2.rank)
    ∧ (0 + 4000 ≤ 4000)
    ∧ (let s : State := { shardState (shardPte 5 true) [tr .drain false []] 16384 false with time := 2000000 }
       s.leaf? 0 0 = some (leafOf (shardPte 5 true)) ∧ s.leafGroup (leafOf (shardPte 5 true)) = some g2 ∧ s.transition? 0 0 = some (tr .drain false [])
       ∧ s.pageHeld (leafOf (shardPte 5 true)) = false ∧ (tr .drain false []).requested = false ∧ (1#6).toNat < g2.n ∧ (1#6).toNat ≠ g2.rank
       ∧ (tr .drain false []).coordinator = true ∧ (tr .drain false []).dones.contains (1#6).toNat = false ∧ getKey 1 (tr .drain false []).heard = some 0
       ∧ 0 + (if g2.tmo = 0 then 2000 else g2.tmo) * 1000 ≤ s.time) := by
  refine ⟨by decide, by unfold Current; decide, by decide, by decide, by decide, ?_, by decide, ⟨_, ⟨rfl, rfl, rfl⟩, rfl⟩, by decide, ⟨_, ⟨rfl, rfl, rfl⟩, rfl⟩,
    ⟨rfl, by decide⟩, ⟨by decide, by decide, by decide, by decide⟩, by decide, rfl, rfl, rfl, by decide, rfl, by decide, by decide, rfl, by decide, by decide, by decide⟩
  intro x hx
  have h : (u0 (shardState (shardPte 4 true) [] 16384 false)).transition? 0 0 = none := by decide
  exact absurd (h.symm.trans hx) (by simp)

/-! ## Collectives -/

/-- A parameter block: an all-gather of 64 FP32 elements in group 5, one chunk of 256 bytes, from 0x1000 to 0x2000, its record at 0x400. -/
def parBytes : List Byte := [3, 1, 0, 0, 5, 0, 0, 0] ++ bytesOf (64 : DWord) 8 ++ bytesOf (0x1000 : DWord) 8 ++ bytesOf (0x2000 : DWord) 8
  ++ bytesOf (256 : Word) 4 ++ List.replicate 12 0 ++ bytesOf (0x400 : DWord) 8 ++ List.replicate 72 0
def pars : CollParams := ⟨3, 1, 0, false, false, 5, 0, 0, 64, 0x1000, 0x2000, 256, 0, 0, 0x400, 0⟩
def collState : State := let s := routed sg; { s with mem := { s.mem with hbm := s.mem.hbm.putN 0 parBytes } }
def cc : Ctx := ⟨collState, f1, w0, b0, g0, activeMask f1 (uni false), .none, 1⟩
theorem witness_Collectives_open : Runs collState f1 w0 b0 g0 ∧ HasU b0 [0] ∧ collState.coll.colls.length < 64 ∧ (f1.getU 0).toNat % 128 = 0
    ∧ ((f1.setU 0 64).getU 0).toNat % 128 ≠ 0
    ∧ Drained collState b0 ∧ Reads collState f1 w0 b0 g0 0 64 64 (.hbm 0) (some (leafOf dataLeaf)) ∧ Reads collState f1 w0 b0 g0 64 64 64 (.hbm 64) (some (leafOf dataLeaf))
    ∧ readParams (seenBytes collState f1 b0 (.hbm 0) 64 ++ seenBytes collState f1 b0 (.hbm 64) 64) = pars
    ∧ paramsClean (seenBytes collState f1 b0 (.hbm 0) 64 ++ seenBytes collState f1 b0 (.hbm 64) 64) = true
    ∧ collState.group? pars.sgid = some g2 ∧ g2.flags.getLsbD 0 = true ∧ g2.flags.getLsbD 2 = true ∧ g2.job = g0.job ∧ ParamsOk pars g2 g0.launch.gang
    ∧ barriersOutside pars g2.n g2.rank b0.quota.qa = false
    ∧ collState.leaf? g0.job pars.crva = some (leafOf dataLeaf) ∧ pteW dataLeaf = true ∧ pteShst dataLeaf = shPrivate ∧ (leafOf dataLeaf).place pars.crva = .hbm 0x400
    ∧ Spans cc .g .read noKeyRule noKeyRule false (collState.chunksG 0 2 pars.src 256) [⟨.hbm 0x1000, 256, 0, 0x1000, false⟩]
    ∧ Spans cc .g .write noKeyRule noKeyRule false (collState.chunksG 0 2 pars.dst 256) [⟨.hbm 0x2000, 256, 0, 0x2000, false⟩] ∧ NothingEarly collState w0 f1.mask := by
  refine ⟨⟨rfl, rfl, rfl⟩, by simp [HasU]; decide, by decide +kernel, by decide +kernel, by decide +kernel, drained_of _ _ (by decide +kernel), ⟨by decide +kernel, trivial, by decide +kernel, settled_of _ _ _ rfl⟩,
    ⟨by decide +kernel, trivial, by decide +kernel, settled_of _ _ _ rfl⟩, by decide +kernel, by decide +kernel, rfl, by decide +kernel, by decide +kernel, rfl, ?_, by decide +kernel, by decide +kernel, by decide +kernel, by decide +kernel, by decide +kernel,
    ?_, ?_, nothing_early _ _ _ rfl⟩
  · exact ⟨by decide, by decide, by decide, by decide, by decide, by decide, by decide, by decide, by decide⟩
  · rw [show collState.chunksG 0 2 pars.src 256 = [(0x1000, 256)] from by decide +kernel]
    exact .cons ⟨.hbm 0x1000, some (leafOf dataLeaf), by decide +kernel, rfl⟩ .nil
  · rw [show collState.chunksG 0 2 pars.dst 256 = [(0x2000, 256)] from by decide +kernel]
    exact .cons ⟨.hbm 0x2000, some (leafOf dataLeaf), by decide +kernel, rfl⟩ .nil
/-- A record with each STATUS at VA 0. -/
def recState (k : Nat) : State := let s := sg; { s with mem := { s.mem with hbm := s.mem.hbm.putN 0 [BitVec.ofNat 8 k] } }
theorem witness_Collectives_wait : ∀ k ∈ [0, 1, 2, 3, 4], Runs (recState k) f1 w0 b0 g0 ∧ HasU b0 [0, 0] ∧ Drained (recState k) b0 ∧ (f1.getU 0).toNat % 32 = 0
    ∧ Reads (recState k) f1 w0 b0 g0 (f1.getU 0) 8 16 (.hbm 0) (some (leafOf dataLeaf)) ∧ natOfBytes ((homeBytes (recState k) (.hbm 0) 16).take 2) = k := by
  intro k hk
  simp only [List.mem_cons, List.not_mem_nil, or_false] at hk
  rcases hk with rfl | rfl | rfl | rfl | rfl <;>
    exact ⟨⟨rfl, rfl, rfl⟩, by simp [HasU]; decide, drained_of _ _ (by decide), by decide, ⟨by decide, trivial, by decide, settled_of _ _ _ rfl⟩, by decide⟩

/-- The collective, open and started or not, and a step and a tuple from rank 1. -/
def theColl (started : Bool) : Coll :=
  ⟨5, 0, 0, 2, 1, 0, 2, 0, pars, [⟨.hbm 0x1000, 256, 0, 0x1000, false⟩], [⟨.hbm 0x2000, 256, 0, 0x2000, false⟩], .hbm 0x400, [], [], [], started,
   List.replicate 256 0, [], none, none, false, none, [], [], [], [], 0, 0, none, [(1, 0)], 0⟩
def openColl (k : Coll) : State := let s := routed sg; { s with time := 2000001, coll := { s.coll with colls := [k], counts := [(5, 1)] } }
def aStep : CStep := ⟨2, 1, 5, 0, 0, 0, 1, 0, List.replicate 256 0⟩
theorem aStep_length : aStep.bytes.length = 256 := List.length_replicate
theorem witness_CollectiveSteps_packets : (∀ st, (∃ t, Taken (openColl (theColl st)) (pkt 4) ∧ Arrives (openColl (theColl st)) (pkt 4) 0 4 t ∧ t.coll? 5 0 = some (theColl st))
      ∧ (∃ t, Arrives (openColl (theColl st)) (pkt 1) 0 1 t ∧ t.coll? 5 0 = some (theColl st)) ∧ ∃ t, Arrives (openColl (theColl st)) (pkt 0) 3 0 t ∧ t.coll? 5 0 = some (theColl st))
    ∧ (∃ t, Arrives (routed sg) (pkt 4) 0 4 t ∧ t.coll? 5 0 = none) ∧ (routed sg).collCount 5 ≤ (0#32).toNat
    ∧ (1 ≤ aStep.stype.toNat ∧ aStep.stype.toNat ≤ 4 ∧ (aStep.bytes.length + 63) / 64 = 4) := by
  refine ⟨fun st => ⟨⟨_, taken _ 4, ⟨fitting _ 4 0 rfl (by decide), rfl⟩, by cases st <;> rfl⟩, ⟨_, ⟨fitting _ 1 0 rfl (by decide), rfl⟩, by cases st <;> rfl⟩,
    ⟨_, ⟨fitting _ 0 3 rfl (by decide), rfl⟩, by cases st <;> rfl⟩⟩, ⟨_, ⟨fitting _ 4 0 rfl (by decide), rfl⟩, rfl⟩, by decide, by decide, by decide, by rw [aStep_length]⟩
theorem witness_CollectiveSteps :
    (let k := { theColl false with differ := [1] }; k.refused = false ∧ k.landing = none ∧ k.started = false ∧ k.differ ≠ [] ∧ k.equal.length + k.differ.length + 1 = k.n)
    ∧ ({ theColl true with refused := true } : Coll).refused = true ∧ ({ theColl true with landing := some (0, 256, 0) } : Coll).landing = some (0, 256, 0)
    ∧ ((theColl true).equal.length + 1 ≠ (theColl true).n ∧ (theColl true).equal.length + (theColl true).differ.length + 1 ≠ (theColl true).n)
    ∧ (1 ≤ pars.op.toNat ∧ pars.op.toNat ≤ 6) ∧ (theColl true).par.rop = 0 ∧ (theColl true).par.fmt ≠ 8 ∧ 0 < (widenBytes (theColl true).par.fmt ((theColl true).own 0)).length
    ∧ (sg.mem.hbm.wf = true ∧ (theColl true).record = .hbm 0x400)
    ∧ (openColl (theColl true)).coll? 5 (0#32).toNat = some (theColl true) ∧ (openColl (theColl true)).group? 5 = some g2
    ∧ [1] = (theColl true).awaited.filter (fun r => decide ((getKey r (theColl true).heard).getD (theColl true).retiredAt + (if g2.tmo = 0 then 2000 else g2.tmo) * 1000
        < (openColl (theColl true)).time))
    ∧ (openColl (theColl true)).fab.requests = [] := by
  refine ⟨⟨rfl, rfl, rfl, by decide, by decide⟩, rfl, rfl, by decide, by decide, rfl, by decide, by decide +kernel, ⟨rfl, rfl⟩, rfl, rfl, ?_, rfl⟩
  decide +kernel

/-! ## Slices, saves, ends, errors -/

/-- A slice of the group, and a state in which its grid may be placed. -/
def aSlice (start grace : Nat) (begun aborted : Bool) : Slice := ⟨5, start, grace, begun, [1], aborted⟩
def sliceState (x : Slice) : State :=
  let s := host q0 [gridOf 1 1] [] []
  { s with work := { s.work with groups := [g2] }, coll := { s.coll with slices := [x] } }
theorem witness_SlicesAndTime_slice :
    (let x := aSlice 100000 0 false false; let s := sliceState x
     s.slice? x.sgid = some x ∧ s.group? x.sgid = some g2 ∧ x.begun = false ∧ x.aborted = false ∧ x.start ≤ s.time ∧ s.tenantGone g2.job = true
     ∧ (let begun := ((s.setSlice { x with begun := true }).modWork fun y =>
          { y with grids := updWhere (fun z => z.job == g2.job) (fun z => { z with aborted := false }) y.grids })
        ∃ z ∈ begun.work.grids, z.job = g2.job ∧ begun.canPlace z = true)
     ∧ x.start + x.grace ≤ s.time ∧ x.late g2 ≠ [])
    ∧ (sliceState (aSlice 100001 0 false false)).time < (aSlice 100001 0 false false).start ∧ (aSlice 0 0 true false).late g2 = [] := by
  refine ⟨⟨rfl, rfl, rfl, rfl, by decide, by decide, ⟨gridOf 1 1, ?_, rfl, by decide +kernel⟩, by decide, by decide⟩, by decide, by decide⟩
  exact List.mem_singleton.mpr rfl
theorem witness_SlicesAndTime_messages :
    (let x := aSlice 100000 0 false false; let s := sliceState x
     Taken s p0 ∧ Arrives s p0 3 0 (arrived s p0 3 0) ∧ (arrived s p0 3 0).slice? 5 = some x ∧ (arrived s p0 3 0).group? 5 = some g2 ∧ g2.rankOf p0.src = some 1 ∧ x.start = (100000#64).toNat
     ∧ x.start ≠ (100001#64).toNat ∧ (∀ b ∈ s.work.blocks, b.run = .placed → ∀ z, s.grid? b.grid = some z → z.job ≠ g2.job))
    ∧ (∃ k ∈ (openColl (theColl true)).coll.colls, k.job = g2.job)
    ∧ (sliceState (aSlice 0 0 false false)).fw.dstat.fwRun = true := by
  refine ⟨⟨taken0 _, ⟨fitting _ 0 3 rfl (by decide), rfl⟩, rfl, rfl, by decide, by decide, by decide, (by intro b hb; cases hb)⟩, ⟨_, List.mem_singleton.mpr rfl, rfl⟩, rfl⟩
/-- A block to be saved, a block past its preemption limit, one with a stopped fragment, and one with no context left. -/
def saveState (b : Block) (ws : List Warp) (fs : List Frag) : State :=
  let s := at' f0 w0 b g0; { s with cycle := 1000, work := { s.work with warps := ws, frags := fs } }
theorem witness_SavesAndEnds :
    (let b := { b0 with saving := true }; (saveState b [w0] [f0]).block? b.id = some b ∧ (saveState b [w0] [f0]).grid? b.grid = some g0 ∧ b.run = .placed)
    ∧ (let b := { b0 with preq := some 0, pdl := 1000 }; b.preq = some 0 ∧ 0 + b.pdl ≤ (saveState b [w0] [f0]).cycle)
    ∧ (∃ f ∈ (saveState b0 [w0] [{ f0 with run := .stopped }]).blockFrags b0.id, f.run = .stopped)
    ∧ (b0.saving = false ∧ (∀ t, b0.preq = some t → (saveState b0 [w0] [f0]).cycle < t + b0.pdl) ∧ (∀ f ∈ (saveState b0 [w0] [f0]).blockFrags b0.id, f.run ≠ .stopped))
    ∧ (let b := { b0 with preq := some 0 }; let s : State := { saveState b [] [] with work := { (saveState b [] []).work with pans := [panOf 76 0 1] } }
       b ∈ s.saveSet b ∧ ∀ x ∈ s.saveSet b, x.preq ≠ none ∧ s.blockWarps x.id = [])
    ∧ (saveState b0 [w0] [f0]).sync.swappedPins.length + 8 ≤ 8192
    ∧ (let s := saveState b0 [] []; s.block? b0.id = some b0 ∧ s.grid? b0.grid = some g0 ∧ b0.fsb = [] ∧ b0.wire = [] ∧ b0.bsb = [] ∧ (∀ x ∈ s.sync.redms, x.block ≠ b0.id) ∧ (∀ q ∈ b0.queues.toList, q = [])
       ∧ (∀ k ∈ s.coll.colls, k.block ≠ b0.id) ∧ (∀ d ∈ s.sync.deliveries, d.block ≠ b0.id) ∧ b0.run = .placed ∧ s.liveThreads b0.id = [])
    ∧ (let s := saveState b0 [] []; s.gridOf? g0.gid (fun x => !x.detached) = some g0 ∧ g0.run ≠ .held)
    ∧ (let g := { g0 with detached := true }; let s := at' f0 w0 b0 g; s.gridOf? g.gid (fun x => !x.detached) = none ∧ s.gridOf? g.gid (fun _ => true) = some g)
    ∧ (let g := { g0 with run := .held }; let s := at' f0 w0 b0 g; s.gridOf? g.gid (fun x => !x.detached) = some g ∧ g.run = .held ∧ (s.killUnplaced g 1).grid? g.key ≠ none)
    ∧ (let b := { b0 with killed := some 1 }; ∃ x ∈ (at' f0 w0 b g0).work.blocks, x.id = b0.id ∧ x.killed ≠ none)
    ∧ (s0.block? b0.id = some b0 ∧ b0.killed = none ∧ ∀ x ∈ s0.work.blocks, x.id = b0.id → x = b0) := by
  refine ⟨⟨rfl, rfl, rfl⟩, ⟨rfl, by decide⟩, ⟨{ f0 with run := .stopped }, List.mem_singleton.mpr rfl, rfl⟩, ⟨rfl, (by intro t h; cases h), by decide⟩, ⟨?_, ?_⟩, by decide,
    ⟨rfl, rfl, rfl, rfl, rfl, (by intro x hx; cases hx), by decide, (by intro k hk; cases hk), (by intro d hd; cases hd), rfl, by decide⟩, ⟨rfl, by decide⟩, ⟨rfl, rfl⟩,
    ⟨rfl, rfl, by decide⟩, ⟨_, List.mem_singleton.mpr rfl, rfl, by decide⟩, rfl, rfl, fun x hx _ => List.mem_singleton.mp hx⟩
  · exact List.mem_singleton.mpr rfl
  · intro x hx
    obtain rfl := List.mem_singleton.mp hx
    exact ⟨by decide, rfl⟩
/-- An engine operation of the block has still to write to g. -/
def busyBlock : Block :=
  bop { opOf (.buf 2 .a 0) false 0 with moves := [⟨some ⟨.buf 2 .a 0, 16, 0, 0, false⟩, some ⟨.hbm 0, 16, 0, 0, false⟩, 16⟩], started := true } []
/-- The unit's soft errors, and the failed bits of its rank, up to the limit. -/
def worn (n : Nat) : Repair := { State.reset.repair with softErrors := List.replicate n (.sfu, 0, 0), erasures := List.replicate n (0, 0) }
/-- A candidate and a parked fragment; a consumed error of a clean and of an unclean block; the 15th and the 16th soft error; a lane, a core and a channel
that are idle; a block that holds a repair up; the last line of HBM. -/
theorem witness_ErrorsAndRepair :
    (s0.frag? f0.id = some f0 ∧ s0.warp? f0.warp = some w0 ∧ s0.block? w0.block = some b0 ∧ s0.candidate f0 = true
      ∧ s0.candidate { f0 with run := .parked .barrier 0 } = false ∧ s0.grid? b0.grid = some g0 ∧ (paged dataLeaf s0).leaf? g0.job 64 = some (leafOf dataLeaf))
    ∧ (∀ mma shadow, let s : State := { s0 with ctl := { s0.ctl with consuming := some ⟨4, mma, shadow⟩ } }
        s.current? = some (f0, w0, b0, g0) ∧ s.ctl.chainFault = false ∧ s.ctl.consuming = some ⟨f0.id, mma, shadow⟩ ∧ activeMask f0 always ≠ 0 ∧ (Dst.vec 0 1).ok b0.kernel = true)
    ∧ (s0.isClean b0 = true ∧ b0.relaunches < 3) ∧ ¬(s0.isClean { b0 with relaunches := 3 } = true ∧ ({ b0 with relaunches := 3 } : Block).relaunches < 3)
    ∧ ((worn 14).softErrors.filter (fun x => decide (0 < x.2.2 + 86400000000000) && (x.1 == Unit9.sfu && x.2.1 == 0))).length < 15
    ∧ 15 ≤ ((worn 15).softErrors.filter (fun x => decide (0 < x.2.2 + 86400000000000) && (x.1 == Unit9.sfu && x.2.1 == 0))).length
    ∧ ((worn 3).erasures.filter (fun x => x.1 == (0#32).toNat % 2 ^ 12)).length < 4 ∧ 4 ≤ ((worn 4).erasures.filter (fun x => x.1 == (0#32).toNat % 2 ^ 12)).length
    ∧ (191 ∈ State.reset.work.liveCores ∧ (∀ x ∈ State.reset.repair.remaps, ¬(x.1 = 191 ∧ x.2.1 = (3#2).toNat)) ∧ State.reset.residents 191 (some (3#2).toNat) = []
      ∧ State.reset.residents 191 none = [] ∧ State.reset.repair.mends = [])
    ∧ (∃ x ∈ ({ State.reset.repair with remaps := [(191, 3, 0)] } : Repair).remaps, x.1 = 191 ∧ x.2.1 = (3#2).toNat)
    ∧ ((255#8).toNat ∉ State.reset.repair.retiredChannels ∧ (∀ b ∈ State.reset.work.blocks, b.run ≠ .placed))
    ∧ (let s := at' f0 w0 busyBlock g0; let r : State := { s with repair := { s.repair with mends := [.core 0] } }
       s.repair.mends = [] ∧ r.repair.mends ≠ [] ∧ (Mend.core 0).blocks (State.forceBlocks r ((Mend.core 0).blocks r)) ≠ [])
    ∧ 64 * (State.reset.capacity / 64 - 1) < State.reset.capacity
    ∧ (∀ channel rank, State.reset.knownBad channel rank = []) ∧ State.reset.repair.mends = []
    ∧ unknownErrors [] 0 = [] ∧ 2 * (unknownErrors [] 15).length + 0 = 8 ∧ 8 < 2 * (unknownErrors [] 31).length + 0
    ∧ unknownErrors [0, 1, 2, 3] 15 = [] ∧ 2 * (unknownErrors [0, 1, 2, 3] 63).length + 4 = 8 := by
  refine ⟨⟨rfl, rfl, rfl, by decide, by decide, rfl, by decide⟩, fun _ _ => ⟨rfl, rfl, rfl, by decide, by decide⟩, by decide, by decide, by decide, by decide, by decide, by decide,
    ⟨by decide, (by intro x hx; cases hx), by decide, by decide, rfl⟩, ⟨_, List.mem_singleton.mpr rfl, rfl, rfl⟩,
    ⟨by decide, (by intro b hb; cases hb)⟩, ⟨rfl, by decide, by decide +kernel⟩, by decide +kernel, fun _ _ => rfl, rfl, by decide, by decide, by decide, by decide, by decide⟩
/-- The ROM waits for an image; an empty one is malformed. -/
theorem witness_BootChecks : State.reset.fw.dstat.rom = true ∧ State.reset.fw.dstat.fwRun = false ∧ Fails State.reset.fw.staging 4 :=
  ⟨rfl, rfl, .form fun h => absurd h.magic (by decide)⟩

/-! ## The host's side -/

/-- The device after boot. -/
def upState : State := let s := State.reset; { s with fw := { s.fw with dstat := up } }
/-- The first and the last byte of HBM, a mapped and a poisoned granule, the window before and after the ROM, and power that falls. -/
theorem witness_BaseDieAndWindow : (State.reset.liveChannels.length = State.reset.nlive ∧ 549755813887 < State.reset.capacity)
    ∧ upState.addrOf? 255 (0x7FFFFFFF / 256 * 256) = some (549755813888 - 256) ∧ upState.addrOf? 255 0x7FFFFFFF = some 549755813887
    ∧ upState.addrOf? 0 0 = some 0 ∧ OpenWindow upState ∧ State.reset.isPoisoned (.hbm 0) 8 = false ∧ poisonState.isPoisoned (.hbm 0) 8 = true
    ∧ ¬Serves State.reset 0 0 1 ∧ upState.sync.histories = []
    ∧ State.reset.fw.dstat.rom = true ∧ upState.fw.dstat.rom = false ∧ (0x40FF8#40).toNat + 8 ≤ 0x41000
    ∧ (0xFFFFFF#24).toNat + 1 ≤ 16777216 ∧ (routed sg).fab.routes ≠ []
    ∧ (upState.fw.resetPending = false ∧ upState.fw.dstat.fwRun = true ∧ upState.power.pgov.rakeEn = true ∧ upState.power.raking = false)
    ∧ (let s : State := { upState with power := { upState.power with raking := true } }; s.power.raking = true)
    ∧ (let s : State := { upState with power := { upState.power with pgovNext := some ⟨0, 50, 20, 2, true, false⟩ } }; (s.power.pgovNext.getD s.power.pgov).rakeEn = false) := by
  refine ⟨⟨by decide +kernel, by decide +kernel⟩, by decide +kernel, by decide +kernel, by decide +kernel, opens _ rfl, by decide, by decide, (fun h => absurd h.window.up.1 (by decide)), rfl, rfl, rfl, by decide, by decide,
    by decide, ⟨rfl, rfl, rfl, rfl⟩, rfl, rfl⟩
theorem witness_Resets : (let s : State := { State.reset with fw := { State.reset.fw with resetPending := true } }; s.fw.resetPending = true ∧ s.power.now = 0)
    ∧ State.reset.fw.resetPending = false := ⟨⟨rfl, by decide⟩, rfl⟩

/-! ## Firmware requests -/

/-- A device whose firmware runs and has a record with this code to read. -/
def askWith (code : Nat) (s : State) : State :=
  { s with fw := { s.fw with
      dstat := up, rpHead := 0, rqTail := 1, request := Memory.putN [] 0 (bytesOf (BitVec.ofNat 16 code) 2) } }
theorem asks (s : State) : ∀ code, code < 0x14 → Asks (askWith code s) code := by
  have h : ∀ code, code < 0x14 → let m := Memory.putN [] 0 (bytesOf (BitVec.ofNat 16 code) 2)
      natOfBytes (m.getN 0 2) = code ∧ natOfBytes (m.getN 2 2) = 0 ∧ natOfBytes (m.getN 6 2) = 0 := by decide
  exact fun code hc => ⟨rfl, (by show (0 : DWord) ≠ 1; decide), (h code hc).1, (h code hc).2⟩
/-- The small state with one job, a queue, a group and no page tables. -/
def bare : State := let s := askWith 0 s0; { s with mem := { s.mem with hbm := [] }, work := { s.work with queues := [{ q0 with size := 32 }], groups := [g2] } }
/-- A job with no grid. -/
def idleJob : State := { bare with work := { bare.work with grids := [], blocks := [] } }
/-- A path of nodes to an empty one, and an entry of each kind. -/
def half : State := { bare with mem := { bare.mem with hbm := (s0.putPte (placedRoot + 16384) (BitVec.ofNat 128 (1 + 48 + (placedRoot + 24576)))).mem.hbm } }
theorem installable (s : State) (h : s.repair.retiredChannels = []) (hl : s.leafPart 30 dataLeaf = [(0, 2 ^ 30)]) (hn : s.holdsNode (0, 2 ^ 30) = false) : Installable s 0 0 dataLeaf 30 := by
  refine ⟨by decide, by decide, by decide, by decide, ?_, ?_⟩
  · intro a ha
    rw [hl, List.mem_singleton] at ha
    subst ha
    have : s.capacity = 256 * 2147483648 := by simp [State.capacity, State.nlive, h]
    exact ⟨by rw [this]; decide, hn⟩
  · intro h; exact absurd (by decide) h
theorem witness_FirmwareRequests_jobs : (∀ code, code < 0x14 → Asks (askWith code bare) code ∧ Asks (askWith code idleJob) code ∧ Asks (askWith code half) code)
    ∧ (State.reset.fw.dstat.fwRun = false ∧ ({ bare.fw with request := Memory.putN [] 2 [1] } : Firmware).request.getN 2 1 ≠ [0])
    ∧ (State.reset.fw.request.wf = true ∧ 65535 < 65536) ∧ (bare.job? 1 = none ∧ (8192#52).toNat % 8192 = 0 ∧ (8192#52).toNat + 8192 ≤ bare.capacity ∧ bare.mappedParts = []) ∧ bare.job? 0 ≠ none
    ∧ (∀ g ∈ idleJob.work.grids, g.job ≠ 0) ∧ idleJob.job? 0 ≠ none ∧ (∃ g ∈ bare.work.grids, g.job = 0)
    ∧ ((4095#16).toNat < 4096 ∧ (∃ i, i < 13 ∧ 65536 = 16 * 2 ^ i) ∧ bare.queue? 4095 = none ∧ bare.queue? 0 = some { q0 with size := 32 })
    ∧ (q0.isReset = true ∧ ({ q0 with tail := 1 } : Queue).isReset = false)
    ∧ (let s : State := { bare with work := { bare.work with queues := [{ q0 with tail := 1 }] } }; s.queue? 0 = some { q0 with tail := 1 })
    ∧ ∃ j, bare.job? j.num = some j := by
  refine ⟨fun c h => ⟨asks _ c h, asks _ c h, asks _ c h⟩, ⟨rfl, by decide⟩, ⟨rfl, by decide⟩, ⟨rfl, by decide⟩, by decide, (by intro g hg; cases hg), by decide,
    ⟨g0, List.mem_singleton.mpr rfl, rfl⟩, ⟨by decide, ⟨12, by decide, rfl⟩, rfl, rfl⟩, ⟨by decide, by decide⟩, rfl, ⟨(bare.job? 0).getD (newJob 0 0 0), rfl⟩⟩
/-- The image of a group entry: bit 0, group flags; a member of 64. -/
def entryOf (n : Nat) : BitVec 2048 := BitVec.ofNat 2048 n
theorem witness_FirmwareRequests_tables :
    (let e := entryOf (3 + 2 * 2 ^ 8); let g := readGroup 6 e
     groupClear e g = true ∧ bare.groupOpen 6 = false ∧ g.flags.getLsbD 0 = true ∧ groupLegal g = true)
    ∧ (let e := entryOf 1; let g := readGroup 6 e; groupClear e g = true ∧ g.flags.getLsbD 0 = true ∧ groupLegal g = false)
    ∧ (let e := entryOf 8; groupClear e (readGroup 6 e) = false)
    ∧ (bare.leaf? 0 0 = none ∧ pteV dataLeaf = true ∧ Installable bare 0 0 dataLeaf 30 ∧ ∃ pa s2, bare.entryFor (bare.leafPart 30 dataLeaf) 0 30 levels placedRoot = some (pa, s2))
    ∧ (half.leaf? 0 0 = none ∧ Installable half 0 0 dataLeaf 30 ∧ half.entryFor (half.leafPart 30 dataLeaf) 0 30 levels placedRoot = none)
    ∧ (bare.leaf? 0 64 = none ∧ ∀ shift, ¬Installable bare 0 64 dataLeaf shift)
    ∧ (65536 * (1 + 8388607) ≤ bare.capacity ∧ bare.frameReserved 1 = false) ∧ bare.frameReserved (2 ^ 22) = true ∧ bare.capacity < 65536 * (0 + 8388609)
    ∧ (0#11).toNat + 80 ≤ 2048 ∧ (1968#11).toNat + 80 ≤ 2048 ∧ (let e : RouteEntry := ⟨17, 0, 0, 0, 128⟩; e.req.toNat < 18 → 128 ≤ e.alim.toNat)
    ∧ (let e : RouteEntry := ⟨17, 0, 0, 0, 127⟩; e.req.toNat < 18 ∧ e.alim.toNat < 128) ∧ (17#5).toNat < 18 ∧ (List.replicate 64 (0 : Word)).length ≤ 64 := by
  have hb : Installable bare 0 0 dataLeaf 30 := installable bare rfl (by decide +kernel) (by decide +kernel)
  have hh : Installable half 0 0 dataLeaf 30 := installable half rfl (by decide +kernel) (by decide +kernel)
  have he : (bare.entryFor (bare.leafPart 30 dataLeaf) 0 30 levels placedRoot).isSome = true := by decide
  refine ⟨⟨by decide +kernel, by decide, by decide +kernel, by decide +kernel⟩, ⟨by decide +kernel, by decide +kernel, by decide +kernel⟩, by decide +kernel,
    ⟨by decide, by decide, hb, ?_⟩, ⟨by decide, hh, by decide⟩, ⟨by decide, fun shift h => absurd h.aligned.1 (by decide)⟩, ⟨by decide, by decide⟩, by decide, by decide, by decide, by decide, by decide, by decide, by decide, by decide⟩
  obtain ⟨⟨pa, s2⟩, h⟩ := Option.isSome_iff_exists.mp he
  exact ⟨pa, s2, h⟩
def wr0 : Warp := { w0 with frame := ⟨64, 1, 1, 0, 0, 0, 0⟩ }
theorem witness_FirmwareRequests_rest :
    bare.group? 5 ≠ none ∧ bare.namesSome (.job 0 none) = true ∧ bare.namesSome (.job 1 none) = false ∧ bare.warp? w0.id = some w0
    ∧ (let s := askWith 0x10 (at' { f0 with run := .stopped } wr0 b0 g0)
       Asks s 0x10 ∧ s.warp? wr0.id = some wr0 ∧ s.block? wr0.block = some b0 ∧ s.grid? b0.grid = some g0
       ∧ (s.warpFrags wr0.id).find? (fun x => x.run == .stopped) = some { f0 with run := .stopped } ∧ ∃ next, s.boundary g0.job b0.kernel wr0.frame.tpc = .ok next)
    ∧ (∀ b ∈ bare.work.blocks, ∀ g, bare.grid? b.grid = some g → g.job = 0 → b.run ≠ .saved) := by
  refine ⟨by decide, by decide, by decide, rfl, ⟨asks _ 0x10 (by decide), rfl, rfl, rfl, rfl, ⟨68, by rfl⟩⟩, ?_⟩
  intro b hb g _ _
  obtain rfl := List.mem_singleton.mp hb
  decide

/-! ## Steps -/

/-- The first fragment of a placed packet is about to issue, with the words of its packet and DCTL. -/
def placed (nbits w : Nat) : State := State.reset.withFetchWord nbits w
theorem witness_StepRuns_code : CodeAt s0 0 placedKernel 64 64 ∧ ((64#64).toNat - (placedKernel.packet 64).toNat) % 4 = 0
    ∧ slotOf placedKernel 64 ∈ boundarySlots (packetAt s0 64) ∧ decodeSlot (packetAt s0 64) (slotOf placedKernel 64) = .ok (.nop false)
    ∧ decodeSlot (packetAt (placed 32 0x3F000000) 64) 0 = .error .reservedOpcode := by
  refine ⟨⟨by decide, by decide, ?_, ?_⟩, by decide, by decide, by decide, by decide⟩
  · have h : ∀ j, j < 3 → s0.codePlace 0 (placedKernel.packet 64 + BitVec.ofNat 64 (4 * j)) = some (.hbm (64 + 4 * j)) := by decide
    exact h
  · have h : ∀ j, j < 3 → s0.isPoisoned (.hbm (64 + 4 * j)) 4 = false := by decide
    exact h
theorem witness_StepRuns_issue : (placed 32 0).ctl.agenda = [.issue 4] ∧ (begunStep (placed 32 0) []).frag? 4 = some f0 ∧ f0.run = .ready
    ∧ (begunStep (placed 32 0) []).warp? f0.warp = some w0 ∧ (begunStep (placed 32 0) []).block? w0.block = some b0 ∧ (begunStep (placed 32 0) []).grid? b0.grid = some g0
    ∧ (∃ pipe s1, (begunStep (placed 32 0) []).fetch g0.job b0.kernel f0.pc = (.ok (.nop false) false pipe, s1))
    ∧ (∃ s1, (begunStep (placed 32 0x3F000000) []).fetch g0.job b0.kernel f0.pc = (.illegal 0, s1))
    ∧ (let s := placed 32 0; let s : State := { s with mem := { s.mem with hbm := [] } }; ∃ s1, (begunStep s []).fetch g0.job b0.kernel f0.pc = (.bad .noMapping 64, s1)) := by
  exact ⟨rfl, rfl, rfl, rfl, rfl, rfl, ⟨_, _, rfl⟩, ⟨_, rfl⟩, ⟨_, rfl⟩⟩
/-- After an instruction retires, with single stepping on and off; an event, and an empty agenda. -/
def stepState (dctl : BitVec 3) (retired : Bool) : State := let s := at' f0 { w0 with dctl } b0 g0; { s with ctl := { s.ctl with retired } }
theorem witness_StepRuns_after : (∀ d, (stepState d true).ctl.retired = true ∧ (stepState d true).frag? f0.id = some f0 ∧ (stepState d true).warp? f0.warp = some { w0 with dctl := d }
      ∧ (stepState d true).block? w0.block = some b0) ∧ f0.handler = false ∧ f0.run = .ready ∧ (1#3).getLsbD 0 = true ∧ (0#3).getLsbD 0 = false
    ∧ (stepState 0 false).ctl.retired = false ∧ s0.ctl.agenda = [] ∧ (let s := s0; ∃ s1 : State, s1.ctl.agenda = [.event .governorPeriod] ∧ s1.work = s.work) :=
  ⟨fun _ => ⟨rfl, rfl, rfl, rfl⟩, rfl, rfl, by decide, by decide, rfl, rfl, ⟨{ s0 with ctl := { s0.ctl with agenda := [.event .governorPeriod] } }, rfl, rfl⟩⟩
/-- One REDM on its way; a block still to be restored; a fragment that waits for an allowance, and one that does not. -/
theorem witness_StepRuns_machine :
    (let x : Redm := ⟨9, 2, [0], 0, .hbm 0, 0, 1, []⟩; ({ s0.sync with redms := [x] } : Sync).redms = [x])
    ∧ (let b := { b0 with restoring := true }; (at' f0 w0 b g0).block? b.id = some b ∧ (at' f0 w0 b g0).grid? b.grid = some g0 ∧ (at' f0 w0 b g0).filling g0.job = false)
    ∧ (∀ a ∈ (stepState 0 true).fab.allowances, ∀ y ∈ a.waiters, y.1 ≠ f0.id)
    ∧ (let f := { f0 with run := .parked .allowance 3 }; (at' f w0 b0 g0).frag? f.id = some f ∧ ∃ n, f.run = .parked .allowance n)
    ∧ (∀ n x, s0.frag? f0.id = some x → x.run ≠ .parked .allowance n) := by
  refine ⟨rfl, ⟨rfl, rfl, by decide⟩, (by intro a ha; cases ha), ⟨rfl, 3, rfl⟩, ?_⟩
  intro n x hx
  obtain rfl : f0 = x := Option.some.inj ((show s0.frag? f0.id = some f0 from rfl).symm.trans hx)
  intro h; cases h
/-- A warp with a handler and nothing in the way of its trap; a queue that may pre-empt. -/
theorem witness_Completions :
    (let w := wt 64 0; let s := at' fe w b0 g0
     s.frag? fe.id = some fe ∧ fe.run = .atEntry ⟨.software, 1, 0, 0⟩ ∧ s.warp? fe.warp = some w ∧ s.block? w.block = some b0 ∧ b0.run = .placed ∧ b0.saving = false
     ∧ (∀ x ∈ s.work.frags, x.warp = w.id → x.id = fe.id) ∧ s.frozen w = false ∧ w.dctl = 0 ∧ w.tvec ≠ 0 ∧ IsPacket b0.kernel w.tvec)
    ∧ (activeMask f0 always = f0.mask ∧ f0.mask ≠ 0 ∧ IsPacket b0.kernel (ofs f0 b0.kernel 0))
    ∧ ((queued true).queue? g0.gid.queue = some (newQueue 0 16 0 true 1000 true) ∧ (newQueue 0 16 0 true 1000 true).preempt = true)
    ∧ fe.handler = false := by
  refine ⟨⟨rfl, rfl, rfl, rfl, rfl, rfl, ?_, by decide, rfl, by decide, packet64⟩, ⟨by decide, by decide, packet64⟩, ⟨rfl, rfl⟩, rfl⟩
  intro x hx _
  rw [List.mem_singleton.mp hx]
/-- An instruction with every field at its last value. -/
theorem witness_EncodingRoundTrip : ∃ x, (Instr.iadd ⟨true, 6, true⟩ 63 63 63).enc = some x ∧ (Instr.iadd ⟨true, 6, true⟩ 63 63 63).wf = true := ⟨_, rfl, by decide⟩
theorem witness_CanonicalKept : State.reset.mem.hbm.wf = true ∧ ∃ t : State, step (placed 32 0) = .next t := ⟨rfl, ⟨_, rfl⟩⟩

/-! ## Further clauses -/

/-- A selector of no register, one of lane scope, one of warp scope; a failure of the same cycle. -/
theorem witness_SpecialRegisters_scope : (¬∃ x, (0xFFF#12, x) ∈ specialValues s0 f0 w0 b0 g0) ∧ 0xFFF#12 ∉ [0x000#12, 0x001, 0x002, 0x022, 0x038, 0x070]
    ∧ (¬∃ x, (0x000#12, x) ∈ specialValues s0 f0 w0 b0 g0) ∧ 0x003#12 ∉ [0x000#12, 0x001, 0x002, 0x022, 0x038, 0x070] ∧ activeMask f0 onP1 = 0
    ∧ ({ w0 with mstNew := (1, 0) } : Warp).mstNew.2 = s0.cycle := by
  refine ⟨?_, by decide, ?_, by decide, by decide, rfl⟩ <;> (rintro ⟨x, h⟩; simp [specialValues] at h)

/-- A reduction of a signalling NaN under an enabled NV, and an inexact one under an enabled NX. -/
def fr (x y : Word) : Frag := f0.setV 1 0xFFFFFFFF (fun l => if l = 0 then x else y)
theorem witness_FloatTraps_reduce : ∀ z ∈ [(0x7F800001#32, 4, 0x10#32), (0x3F800000#32, 0, 1#32)], let f := fr z.1 0x30800000
    Runs (at' f (wx z.2.2) b0 g0) f (wx z.2.2) b0 g0 ∧ f.handler = false ∧ HasV b0 [1] ∧ HasU b0 [2, 3] ∧ Present (wx z.2.2) f false false 0
    ∧ (let fl := fun (_ : Nat) => (reduce .addF32 (given f (activeMask f always) f.mask 1 (fun _ => true)) (someIdle (activeMask f always) f.mask (fun _ => true))).2
       (∃ l, l < 32 ∧ (activeMask f always).getLsbD l = true ∧ enabled (wx z.2.2) l (fl l) z.2.1 = true)
       ∧ ∀ k l, z.2.1 < k → k ≤ 4 → (activeMask f always).getLsbD l → enabled (wx z.2.2) l (fl l) k = false) := by
  intro z hz
  simp only [List.mem_cons, List.not_mem_nil, or_false] at hz
  rcases hz with rfl | rfl
  · refine ⟨⟨rfl, rfl, rfl⟩, rfl, by simp [HasV]; decide, by simp [HasU]; decide, present_here .., ⟨0, by decide, by decide, by decide +kernel⟩, fun k l h1 h2 => absurd h1 (by show ¬(4 < k); omega)⟩
  · refine ⟨⟨rfl, rfl, rfl⟩, rfl, by simp [HasV]; decide, by simp [HasU]; decide, present_here .., ⟨0, by decide, by decide, by decide +kernel⟩, ?_⟩
    have h : ∀ k, k < 5 → 0 < k → ∀ l, l < 32 → enabled (wx 1) l (reduce .addF32 (given (fr 0x3F800000 0x30800000) (activeMask (fr 0x3F800000 0x30800000) always)
      (fr 0x3F800000 0x30800000).mask 1 (fun _ => true)) (someIdle (activeMask (fr 0x3F800000 0x30800000) always) (fr 0x3F800000 0x30800000).mask (fun _ => true))).2 k = false := by
      decide +kernel
    exact fun k l h1 h2 h3 => h k (by omega) h1 l (lanes_below _ l h3)

/-- 2 and 1/2: where the sine and the cosine of πx are zero, and where they are not. -/
theorem witness_SpecialOperandsAndCodes_reals : fp32 0x40000000 = .fin false (2 ^ 23) (-22) ∧ fp32 0x3F000000 = .fin false (2 ^ 23) (-24)
    ∧ ((val (.fin false (2 ^ 23) (-22)) : ℚ) : ℝ) = 2 ∧ ((val (.fin false (2 ^ 23) (-24)) : ℚ) : ℝ) = 1 / 2
    ∧ Real.sin (Real.pi * 2) = 0 ∧ Real.cos (Real.pi * 2) ≠ 0 ∧ Real.sin (Real.pi * (1 / 2)) ≠ 0 ∧ Real.cos (Real.pi * (1 / 2)) = 0 := by
  have e : Real.pi * (1 / 2) = Real.pi / 2 := by ring
  refine ⟨by decide, by decide, by norm_num [val], by norm_num [val], ?_, ?_, ?_, ?_⟩
  · rw [mul_comm]; exact Real.sin_two_pi
  · rw [mul_comm, Real.cos_two_pi]; norm_num
  · rw [e, Real.sin_pi_div_two]; norm_num
  · rw [e]; exact Real.cos_pi_div_two

/-- Targets of the kernel with one packet: those that are not 64 are bad, the lowest of them at `t.addr`. -/
theorem astray_of (act : Mask) (target : Nat → DWord) (info : DWord) (t : TrapInfo) (h1 : ∃ l, l < 32 ∧ act.getLsbD l = true ∧ target l = t.addr)
    (h2 : t.cause = .illegalOp ∧ ¬(64 ≤ t.addr.toNat ∧ t.addr.toNat < 76) ∨ t.cause = .misaligned ∧ (64 ≤ t.addr.toNat ∧ t.addr.toNat < 76) ∧ t.addr.toNat ≠ 64)
    (h3 : ∀ l, l < 32 → act.getLsbD l = true → t.addr.toNat ≤ (target l).toNat ∨ (target l).toNat = 64)
    (h4 : ∀ l, l < 32 → (t.lanes.getLsbD l = true ↔ act.getLsbD l = true ∧ (t.cause = .illegalOp ∧ ¬(64 ≤ (target l).toNat ∧ (target l).toNat < 76)
      ∨ t.cause = .misaligned ∧ (64 ≤ (target l).toNat ∧ (target l).toNat < 76) ∧ (target l).toNat ≠ 64)))
    (h5 : t.info = info) : Astray b0.kernel act target info t := by
  have hv : b0.kernel.va.toNat = 0 := rfl
  have hn : b0.kernel.npkt = 1 := rfl
  have hp : ∀ x : DWord, IsPacket b0.kernel x ↔ x.toNat = 64 := by
    intro x
    constructor
    · rintro ⟨n, h, e⟩; rw [hn] at h; rw [hv] at e; omega
    · intro e; exact ⟨0, by decide, by rw [hv, e]⟩
  have hb : ∀ (x : DWord) c, BadTarget b0.kernel x c ↔ c = .illegalOp ∧ ¬(64 ≤ x.toNat ∧ x.toNat < 76) ∨ c = .misaligned ∧ (64 ≤ x.toNat ∧ x.toNat < 76) ∧ x.toNat ≠ 64 := by
    intro x c; simp only [BadTarget, hp, hv, hn, Nat.zero_add, Nat.mul_one]
  refine ⟨h1, (hb _ _).mpr h2, ?_, fun l hl => by rw [hb]; exact h4 l hl, h5⟩
  intro l c hl ha hc
  rw [hb] at hc
  rcases h3 l hl ha with h | h
  · exact h
  · omega
/-- BRA past the code; JMPI whose lanes name 65 and 76: MISALIGNED at the lower; a RET to 65, a SPAWN of the packet past the last; in handler mode a branch of one
lane of several. -/
def fj : Frag := f3.setV 1 0xFFFFFFFF (fun l => if l = 0 then 65 else 76)
theorem witness_Jumps_targets :
    (∃ r t, Jump (.bra always 1) r ∧ r.taken s0 f0 = true ∧ Astray b0.kernel (activeMask f0 r.h) (r.target f0 b0.kernel) 0 t ∧ t.cause = .illegalOp)
    ∧ (∃ r t, Jump (.jmpi always 63 1 true) r ∧ Runs (at' fj w0 b0 g0) fj w0 b0 g0 ∧ r.taken (at' fj w0 b0 g0) fj = true ∧ HasV b0 r.readsV ∧ HasU b0 r.readsU
      ∧ Astray b0.kernel (activeMask fj r.h) (r.target fj b0.kernel) 0 t ∧ t.cause = .misaligned)
    ∧ (let f : Frag := { fp 1 with handler := true }
       ∃ r, Jump (.bra onP1 0) r ∧ Runs (at' f w0 b0 g0) f w0 b0 g0 ∧ Lists (activeMask f onP1) (r.target f b0.kernel) [64] ∧ ¬OneWay f (activeMask f onP1) [64]) := by
  refine ⟨⟨_, ⟨.illegalOp, 0xFFFFFFFF, 76, 0⟩, .bra .., rfl, astray_of _ _ _ _ ⟨0, by decide, by decide, by decide⟩ (by decide) (by decide) (by decide) rfl, rfl⟩,
    ⟨_, ⟨.misaligned, 1, 65, 0⟩, .jmpi .., ⟨rfl, rfl, rfl⟩, rfl, by simp [HasV]; decide, by simp [HasU], ?_, rfl⟩, ⟨_, .bra .., ⟨rfl, rfl, rfl⟩, ?_, ?_⟩⟩
  · exact astray_of _ _ _ _ ⟨0, by decide, by decide, by decide⟩ (by decide) (by decide) (by decide) rfl
  · refine ⟨List.pairwise_singleton .., fun x => ?_⟩
    simp only [List.mem_singleton]
    exact ⟨fun e => ⟨0, by decide, by decide, e.symm ▸ (by decide)⟩, fun ⟨_, _, _, e⟩ => e.symm.trans (by decide)⟩
  · intro h; exact absurd (h rfl) (by decide)
/-- Return stacks that hold 65. -/
def wbad : Warp := Warp.born 3 2 0 (Vector.ofFn (fun (l : Fin 32) => some { Thread.born l.val l.val 0 with depth := 1, stack := [65] })) 0
theorem witness_CallsAndReturns_targets :
    (∃ h rv ru tg t, Call (.call always 1) h rv ru tg ∧ (∀ l, l < 32 → depthOf w0 l < 8) ∧ Astray b0.kernel (activeMask f0 h) (tg f0 b0.kernel) 0 t)
    ∧ Runs (at' f0 wbad b0 g0) f0 wbad b0 g0 ∧ (∀ l, l < 32 → 0 < depthOf wbad l) ∧ ∃ t, Astray b0.kernel (activeMask f0 always) (topOf wbad) 0 t := by
  refine ⟨⟨_, _, _, _, ⟨.illegalOp, 0xFFFFFFFF, 76, 0⟩, .call .., by decide, ?_⟩, ⟨rfl, rfl, rfl⟩, by decide, ⟨.misaligned, 0xFFFFFFFF, 65, 0⟩, ?_⟩ <;>
    exact astray_of _ _ _ _ ⟨0, by decide, by decide, by decide⟩ (by decide) (by decide) (by decide) rfl
theorem witness_SpawnAndExit_target : ∃ t, Astray b0.kernel (activeMask f0 always) (fun _ => ofs f0 b0.kernel 1) (BitVec.ofNat 64 (3 + 16 * (7#3).toNat)) t :=
  ⟨⟨.illegalOp, 0xFFFFFFFF, 76, 115⟩, astray_of _ _ _ _ ⟨0, by decide, by decide, by decide⟩ (by decide) (by decide) (by decide) rfl⟩
theorem witness_Ordering_release : f1.relSent = false ∧ f1.relPaid = [] := ⟨rfl, rfl⟩
/-- A handler whose frame names no packet. -/
theorem witness_TrapInstructions_frame : let w : Warp := { w0 with frame := ⟨65, 8, 1, 0, 1, 0, 0⟩ }
    Runs (at' fh w b0 g0) fh w b0 g0 ∧ fh.handler = true ∧ ∃ cause, (at' fh w b0 g0).boundary g0.job b0.kernel w.frame.tpc = .error cause :=
  ⟨⟨rfl, rfl, rfl⟩, rfl, .misaligned, by decide⟩

/-- Two accesses: the trap is the one of the lower row, with the lane of that cause. -/
theorem worst_of (x y : LaneAcc) (r r' : Nat) (c c' : Cause) (q q' : BitVec 12) (hx : x.check = .bad r c q) (hy : y.check = .bad r' c' q') (hr : r < r') (hc : c ≠ c')
    (lanes : Mask) (hl : ∀ l, l < 32 → (lanes.getLsbD l = true ↔ x.lane = l)) : Worst [x, y] c q lanes x.addr ∧ Worst [y, x] c q lanes x.addr := by
  have hn : ∀ r q, y.check ≠ .bad r c q := by
    intro r q h; rw [hy] at h; cases h; exact hc rfl
  have hm : ∀ l, l < 32 → (lanes.getLsbD l = true ↔ (x.lane = l ∧ ∃ r q, x.check = .bad r c q) ∨ (y.lane = l ∧ ∃ r q, y.check = .bad r c q)) := by
    intro l h
    rw [hl l h]
    exact ⟨fun e => .inl ⟨e, r, q, hx⟩, fun e => e.elim (·.1) (fun ⟨_, _, _, e⟩ => absurd e (hn _ _))⟩
  constructor
  · refine ⟨⟨[], x, [y], r, rfl, hx, (by intro y hy; cases hy), ?_⟩, by simpa using hm, ⟨[], x, [y], r, q, rfl, hx, rfl, by intro y hy; cases hy⟩⟩
    intro z hz r2 c2 q2 h2
    rw [List.mem_singleton.mp hz, hy] at h2; cases h2; omega
  · refine ⟨⟨[y], x, [], r, rfl, hx, ?_, (by intro y hy; cases hy)⟩, by simpa [or_comm] using hm, ⟨[y], x, [], r, q, rfl, hx, rfl, ?_⟩⟩
    · intro z hz r2 c2 q2 h2
      rw [List.mem_singleton.mp hz, hy] at h2; cases h2; omega
    · intro z hz
      rw [List.mem_singleton.mp hz]; exact hn
/-- Lane 0 reads the four bytes at 65536, past A, and lane 1 those at 2. -/
def fv2 : Frag := f3.setV 1 0xFFFFFFFF (fun l => if l = 0 then 65536 else 2)
def mx (sp : Space) : MemOp := { memAt 0 sp 2 0 with b := 1, ix := true }
theorem witness_AccessFaults_rows : let s := at' fv2 w0 b0 g0
    Runs s fv2 w0 b0 g0 ∧ (∃ xs, Accesses s fv2 w0 b0 g0 (.ld always 4 (mx .a)) none (.vec 4 1) xs ∧ Worst xs .misaligned 0 2 2)
    ∧ ¬CanonVa (2 ^ 56) ∧ CanonVa 0 ∧ Lacks .read noKeyRule 0 ∧ ¬Lacks .read noKeyRule dataLeaf ∧ Lacks .write noKeyRule (shardPte 3 false)
    ∧ pteKy (dataLeaf ||| BitVec.ofNat 128 (2 ^ 18)) = true ∧ Held heldState 0 63 1 ∧ ¬Held heldState 0 64 1 ∧ ¬Grouped s (leafOf (shardPte 3 false))
    ∧ (7#64).toNat % 8 ≠ 0 ∧ (8#64).toNat % 8 = 0 := by
  have e : laneAccs (at' fv2 w0 b0 g0) fv2 w0 b0 g0 (mx .a) false (Mask.lanes (activeMask fv2 always)) 4 .read noKeyRule noKeyRule
      = [⟨0, 65536, 65536, 4, .bad 3 .bufferBounds 0⟩, ⟨1, 2, 2, 4, .bad 2 .misaligned 0⟩] := by decide +kernel
  refine ⟨⟨rfl, rfl, rfl⟩, ⟨_, .ld _ _ _ ⟨by simp [HasU]; decide, by simp [HasV]; decide⟩ (by decide), ?_⟩, ?_, fun i h1 h2 => by simp, .inl (by decide), ?_,
    .inr (.inl (by decide)), by decide, ?_, ?_, ?_, by decide, by decide⟩
  · show Worst (laneAccs (at' fv2 w0 b0 g0) fv2 w0 b0 g0 (mx .a) false (Mask.lanes (activeMask fv2 always)) 4 .read noKeyRule noKeyRule) _ _ _ _
    rw [e]
    exact (worst_of ⟨1, 2, 2, 4, .bad 2 .misaligned 0⟩ ⟨0, 65536, 65536, 4, .bad 3 .bufferBounds 0⟩ _ _ _ _ _ _ rfl rfl (by decide) (by decide) 2 (by decide)).2
  · intro h; exact absurd (h 57 (by decide) (by decide)) (by decide)
  · rintro (h | ⟨h, -⟩ | h)
    · exact absurd h (by decide)
    · exact h (by decide)
    · cases h
  · exact ⟨_, List.mem_singleton.mpr rfl, rfl, rfl, by decide, by decide, by decide⟩
  · rintro ⟨x, hx, -, -, -, h, -⟩
    rw [List.mem_singleton.mp hx] at h; exact absurd h (by decide)
  · rintro ⟨q, h, -⟩; cases h

/-- A page whose translation no core holds; a sharded page that is gathered, and one whose END is still outstanding. -/
def unheld : State := { sg with mem := { sg.mem with l1 := [] } }
def mg : MemOp := memAt 0 .g 2 0
def accOf (c : Check) : LaneAcc := ⟨0, 0, 0, 4, c⟩
theorem page_accs (s : State) (c : Check) (h : s.check g0 w0 b0 .g 0 0 4 .read noKeyRule noKeyRule = c) :
    laneAccs s f1 w0 b0 g0 mg false (Mask.lanes (activeMask f1 always)) 4 .read noKeyRule noKeyRule = [accOf c] := by
  have e : Mask.lanes (activeMask f1 always) = [0] := by decide
  unfold laneAccs
  rw [e]
  show [(⟨0, 0, 0, 4, s.check g0 w0 b0 .g 0 0 4 .read noKeyRule noKeyRule⟩ : LaneAcc)] = _
  rw [h]; rfl
theorem checkG_wait (s : State) (core : Nat) (job : BitVec 16) (va : DWord) (n : Nat) (k : Access) (lf : Leaf) (h1 : canonical va = true)
    (h2 : s.leaf? job va = some lf) (h3 : (k.permitted lf.pte && !weightWrite k lf.pte && pteShst lf.pte != shPrivate && pteShst lf.pte != shFailed
      && pteShst lf.pte != shGathered && pteShst lf.pte != shPartial) = true)
    (h4 : s.rangeHeld job va n = false) (h5 : s.groupOk lf = true) (h6 : s.translated core job lf.page = true) :
    s.checkG core job va n k noKeyRule noKeyRule = .wait lf := by
  simp only [Bool.and_eq_true, bne_iff_ne, Bool.not_eq_true'] at h3
  obtain ⟨⟨⟨⟨⟨a1, a2⟩, a3⟩, a4⟩, a5⟩, a6⟩ := h3
  unfold State.checkG
  simp [h1, h2, a1, a2, a3, a4, a5, a6, h4, h5, h6, noKeyRule]
theorem check_wait (k : Nat) (hk : k = 2 ∨ k = 6) :
    (shardState (shardPte k false) [] 16384 false).check g0 w0 b0 .g 0 0 4 .read noKeyRule noKeyRule = .wait (leafOf (shardPte k false)) := by
  have hl := leaf_of_walk (shardState (shardPte k false) [] 16384 false) ⟨0, placedRoot, 0, false, [], [], [], none⟩ _ (shardHbm k false) (shard_job ..) rfl (shard_hbm ..) (shard_walk k (by rcases hk with rfl | rfl <;> decide) false)
  have hg := group_ok (shardState (shardPte k false) [] 16384 false) (leafOf (shardPte k false))
    (by rw [show pteSgid (leafOf (shardPte k false)).pte = 5 from by rcases hk with rfl | rfl <;> decide]; rfl)
  have hc : (shardState (shardPte k false) [] 16384 false).check g0 w0 b0 .g 0 0 4 .read noKeyRule noKeyRule
      = (shardState (shardPte k false) [] 16384 false).checkG b0.core g0.job 0 4 .read noKeyRule noKeyRule := by
    unfold State.check; exact if_neg (by decide)
  rw [hc]
  exact checkG_wait _ _ _ _ _ _ _ (by decide) hl (by rcases hk with rfl | rfl <;> decide) rfl hg rfl
theorem runs_paged (e : BitVec 128) : Runs (paged e su) f1 w0 b0 g0 := ⟨rfl, rfl, rfl⟩
theorem runs_unheld : Runs unheld f1 w0 b0 g0 := ⟨rfl, rfl, rfl⟩
theorem witness_AccessFaults_waits :
    (Accesses unheld f1 w0 b0 g0 (.ld always 4 mg) none (.vec 4 1) [accOf (.miss (leafOf dataLeaf))] ∧ Runs unheld f1 w0 b0 g0)
    ∧ (∀ k, k = 2 ∨ k = 6 → let s := shardState (shardPte k false) [] 16384 false
       Runs s f1 w0 b0 g0 ∧ Accesses s f1 w0 b0 g0 (.ld always 4 mg) none (.vec 4 1) [accOf (.wait (leafOf (shardPte k false)))]
       ∧ let p := pteShst (s.reLeaf (leafOf (shardPte k false))).pte; p ≠ shGathered ∧ p ≠ shPartial ∧ p ≠ shFailed) := by
  have a : HasAddress b0 mg := ⟨by simp [HasU]; decide, by intro h; cases h⟩
  refine ⟨⟨?_, runs_unheld⟩, fun k hk => ⟨runs_shard _ _ _ _, ?_, ?_⟩⟩
  · have := Accesses.ld (s := unheld) (f := f1) (w := w0) (g := g0) always 4 mg a (by decide)
    rwa [show accessBytes mg = 4 from rfl, page_accs unheld (.miss (leafOf dataLeaf)) (by decide +kernel)] at this
  · have := Accesses.ld (s := shardState (shardPte k false) [] 16384 false) (f := f1) (w := w0) (g := g0) always 4 mg a (by decide)
    rwa [show accessBytes mg = 4 from rfl, page_accs _ _ (check_wait k hk)] at this
  · have hl := leaf_of_walk (shardState (shardPte k false) [] 16384 false) ⟨0, placedRoot, 0, false, [], [], [], none⟩ _ (shardHbm k false) (shard_job ..) rfl (shard_hbm ..) (shard_walk k (by rcases hk with rfl | rfl <;> decide) false)
    have : (shardState (shardPte k false) [] 16384 false).reLeaf (leafOf (shardPte k false)) = leafOf (shardPte k false) := by
      show ((shardState (shardPte k false) [] 16384 false).leaf? 0 0).getD _ = _
      rw [hl]; rfl
    rw [this]
    rcases hk with rfl | rfl <;> decide

/-- The first line of A and the one of C that holds row 31 of an accumulator at 0 carry errors. -/
def bpoison : Block := { b0 with poison := [(.a, 0), (.c, 62)] }
theorem witness_AccessFaults_poison : let s := at' f1 w0 bpoison g0; let x : LaneAcc := ⟨0, 0, 0, 4, .ok (.buf 2 .a 0) none⟩
    Runs s f1 w0 bpoison g0 ∧ (∃ xs, Accesses s f1 w0 bpoison g0 (.ld always 4 (memAt 0 .a 2 0)) none (.vec 4 1) xs ∧ xs = [] ++ x :: [])
    ∧ Poisons s f1 bpoison false (.buf 2 .a 0) 4 ∧ (∀ l, l < 32 → ((1 : Mask).getLsbD l = true ↔ ∃ y ∈ [x], y.lane = l ∧ ∃ p lf, y.check = .ok p lf ∧ Poisons s f1 bpoison false p y.len))
    ∧ (let s := at' f0 w0 bpoison g0
       Poisons s f0 bpoison false (.buf bpoison.id .c (0 + 128 * 31)) 128 ∧ ∀ j, j < 31 → ¬Poisons s f0 bpoison false (.buf bpoison.id .c (0 + 128 * j)) 128) := by
  have h : Poisons (at' f1 w0 bpoison g0) f1 bpoison false (.buf 2 .a 0) 4 := ⟨by decide, .inr ⟨0, by decide, by decide⟩⟩
  refine ⟨⟨rfl, rfl, rfl⟩, ⟨_, .ld _ _ _ ⟨by simp [HasU]; decide, by intro h; cases h⟩ (by decide), ?_⟩, h, fun l hl => ?_, ⟨by decide, .inr ⟨0, by decide, by decide⟩⟩, ?_⟩
  · show laneAccs (at' f1 w0 bpoison g0) f1 w0 bpoison g0 (memAt 0 .a 2 0) false (Mask.lanes (activeMask f1 always)) 4 .read noKeyRule noKeyRule = _
    decide +kernel
  · constructor
    · intro e
      exact ⟨_, List.mem_singleton.mpr rfl, (only_lane l e).symm, _, _, rfl, h⟩
    · rintro ⟨y, hy, rfl, -⟩
      rw [List.mem_singleton.mp hy]; decide
  · rintro j hj ⟨h, -⟩
    have : ∀ j, j < 31 → (at' f0 w0 bpoison g0).isPoisoned (.buf bpoison.id .c (0 + 128 * j)) 128 = false := by decide +kernel
    rw [this j hj] at h; cases h
/-- The record is broken at VA 0 of `sg`; a destination of the box that is not aligned. -/
theorem witness_AccessFaults_tensor : readTlr (seenBytes sg f1 b0 (.hbm 0) 64) = none ∧ (f1.getU 0).toNat % 16 = 0 ∧ ((f1.setU 3 8).getU 3).toNat % 16 ≠ 0
    ∧ OneAccess sg f1 w0 b0 g0 .g (f1.getU 0) 64 .read noKeyRule (.hbm 0) (some (leafOf dataLeaf)) ∧ HasU b0 [3, 0, 1, 1 + 1] ∧ QueueRoom b0 w0 0 ∧ NothingEarly sg w0 f1.mask
    ∧ Worst (boxAccs ct theTlr 8 0 0 false false .none 0 1 32) .misaligned 0 1 8 := by
  refine ⟨by decide +kernel, by decide, by decide, ⟨by decide +kernel, trivial, by decide +kernel, settled_of _ _ _ rfl⟩, by simp [HasU]; decide, by unfold QueueRoom; decide,
    nothing_early _ _ _ rfl, ?_⟩
  have e : boxAccs ct theTlr 8 0 0 false false .none 0 1 32 = [⟨0, 8, 8, 1, .bad 2 .misaligned 0⟩, ⟨0, 0x1000, 0x1000, 8, .ok (.hbm 0x1000) (some (leafOf dataLeaf))⟩,
      ⟨0, 8, 8, 64, .ok (.buf 2 .a 8) none⟩] := by decide +kernel
  rw [e]
  refine ⟨⟨[], _, _, 2, rfl, rfl, (by intro y h; cases h), ?_⟩, fun l hl => ?_, [], _, _, 2, 0, rfl, rfl, rfl, by intro y h; cases h⟩
  · intro y hy r c q h
    simp only [List.mem_cons, List.not_mem_nil, or_false] at hy
    rcases hy with rfl | rfl <;> cases h
  · constructor
    · intro h
      exact ⟨_, List.mem_cons_self, (only_lane l h).symm, 2, 0, rfl⟩
    · rintro ⟨x, hx, rfl, r, q, h⟩
      simp only [List.mem_cons, List.not_mem_nil, or_false] at hx
      rcases hx with rfl | rfl | rfl
      · decide
      · cases h
      · cases h

def aRedm : Redm := ⟨9, 2, [0], 0, .hbm 0, 0, 1, [0]⟩
/-- A REDM on its way to HBM, one to a page that drains; pages that are sharded and partial. -/
theorem witness_OperatorTables : aRedm ∈ ({ s0.sync with redms := [aRedm] } : Sync).redms ∧ aRedm.place = .hbm 0 ∧ 0 ∈ aRedm.readers ∧ 1 ∉ aRedm.readers
    ∧ sg.mem.hbm.wf = true ∧ sg.sync.hidden = []
    ∧ (∀ k, k = 5 ∨ k = 1 ∨ k = 4 → (shardState (shardPte k true) [] 16384 false).leaf? 0 0 = some (leafOf (shardPte k true)))
    ∧ pteShst (shardPte 5 true) = shDraining ∧ pteShst (shardPte 1 true) = shSharded ∧ pteShst (shardPte 4 true) = shPartial
    ∧ (let s := shardState (shardPte 5 true) [] 16384 false
       ∃ x ∈ ({ s with sync := { s.sync with redms := [{ aRedm with place := .frame 0 0 0 }] } } : State).sync.redms, s.canReach x.place = false) := by
  refine ⟨List.mem_singleton.mpr rfl, rfl, by decide, by decide, by decide +kernel, rfl, ?_, by decide, by decide, by decide, _, List.mem_singleton.mpr rfl, ?_⟩
  · rintro k (rfl | rfl | rfl) <;> exact leaf_shard _ (by decide) _ _ _ _
  · show (match (shardState (shardPte 5 true) [] 16384 false).leaf? 0 0 with | none => true | some lf => _) = false
    rw [leaf_shard 5 (by decide)]; decide
/-- Whichever hosts the configuration admits, each host is one that it admits or one that it does not; an open window. -/
theorem witness_LaunchAndPlacement_hosts : (∀ h, Config.admitted h = true ∨ Config.admitted h = false) ∧ OpenWindow (host q1 [] [] []) :=
  ⟨fun h => by cases Config.admitted h <;> simp, opens _ rfl⟩
/-- The memory of the device is shut; a port with no link. -/
theorem witness_PacketsAtHome_dropped : ¬OpenWindow State.reset ∧ 18 ≤ ({ p0 with port := 18 } : Arrival).port.toNat ∧ ({ p0 with bad := true } : Arrival).bad = true := by
  refine ⟨fun h => ?_, by decide, rfl⟩
  exact absurd h.1 (by decide)
/-- A store of the block to device 1 without an answer, in a state where a group gives that device rank 1, and in one without groups. -/
def lost : Delivery := ⟨3, 2, 3, [0], 0, 0, none, 0, false, 6, 1, [], none⟩
def lostState (gs : List Group) : State := let s := sg; { s with sync := { s.sync with deliveries := [lost] }, work := { s.work with groups := gs } }
theorem witness_Replies_ranks : (∀ gs, (lostState gs).sync.deliveries.filter (fun x => x.tag == 3 && !x.failed) = [lost]) ∧ lost.rank = none
    ∧ (lostState []).ranksOf lost.block 1 = [] ∧ (lostState [{ g2 with flags := 7 }]).ranksOf lost.block 1 = [1]
    ∧ (lostState []).work.warps[0]? = some w0 ∧ Marks (lostState []) lost w0 := by
  refine ⟨fun _ => rfl, rfl, by decide, by decide, rfl, ?_⟩
  exact .inl ⟨w0, List.mem_singleton.mpr rfl, rfl, rfl, 0, List.mem_singleton.mpr rfl, by decide⟩

/-- No block of the gang is restored; a store of a thread of the pan waits in the block's buffers, and none does. -/
theorem witness_BlockMachinery_stores : (∀ x ∈ (withPan pan32 bspare).gangBlocks bspare.grid bspare.gang, x.restoring = false)
    ∧ (∃ e ∈ ({ bspare with bsb := [entry0] } : Block).bsb, ∃ x ∈ e.pieces, ∃ k ∈ x.threads, ∃ y ∈ pan32.threads, y.thread.serial = k)
    ∧ (∀ e ∈ bspare.fsb ++ bspare.bsb ++ bspare.wire, ∀ x ∈ e.pieces, ¬∃ k ∈ x.threads, ∃ y ∈ pan32.threads, y.thread.serial = k) := by
  refine ⟨by decide, ⟨_, List.mem_singleton.mpr rfl, _, List.mem_singleton.mpr rfl, 0, List.mem_singleton.mpr rfl, filedAt 0, by decide, rfl⟩, ?_⟩
  intro e he; cases he
/-- The page's frame was laid out for three members, or as the group stands; it lies on another device; a frame of a job that is in and of one that is swapped out. -/
def laidState (n : Nat) : State := { sg with mem := { sg.mem with laid := [⟨0, 0, { g2 with n }⟩] } }
theorem witness_Gathers_frames : (laidState 3).laidAs (leafOf (shardPte 1 false)) = some { g2 with n := 3 } ∧ 3 ≠ g2.n
    ∧ (laidState 2).stray (leafOf (shardPte 1 false)) g2 = false ∧ sg.stray (leafOf (shardPte 1 false)) g2 = false
    ∧ (∃ d, d < 3 ∧ 0 < d ∧ ∀ a, (leafOf (farPte d)).shard 0 ≠ .hbm a)
    ∧ (let s : State := { sg with mem := { sg.mem with frames := [⟨0, 0, 2 ^ 30, [], [], true⟩] } }; ∃ x, s.frame? (leafOf dataLeaf).job (leafOf dataLeaf).page = some x)
    ∧ (∀ x, (shardState (shardPte 6 false) [] 16384 x).isSwapped 0 = x) := by
  have hd : ∃ d, (d = 1 ∨ d = 2) ∧ BitVec.ofNat 11 d ≠ selfDev := by
    by_cases h : BitVec.ofNat 11 1 = selfDev
    · exact ⟨2, .inr rfl, h ▸ by decide⟩
    · exact ⟨1, .inl rfl, h⟩
  obtain ⟨d, hd, hs⟩ := hd
  refine ⟨rfl, by decide, by decide +kernel, by decide +kernel, ⟨d, by omega, by omega, fun a => ?_⟩, ⟨_, rfl⟩, fun x => rfl⟩
  have q : (leafOf (farPte d)).shard 0 = placeOfPa (2 ^ 51 + 2 ^ 40 * (BitVec.ofNat 11 d).toNat + 0) := by
    unfold Leaf.shard
    rcases hd with rfl | rfl <;> exact congrArg placeOfPa (by decide)
  rw [q, far_place _ hs 0 (by decide)]
  intro h; cases h
theorem leaf_time (s : State) (n : Nat) (j : BitVec 16) (va : DWord) : ({ s with time := n } : State).leaf? j va = s.leaf? j va := rfl
theorem leaf_failed : (shardState (shardPte 7 false) [] 16384 false).leaf? 0 0 = some (leafOf (shardPte 7 false)) :=
  leaf_of_walk _ _ _ _ (shard_job ..) rfl (shard_hbm ..) (by decide)
/-- A FAIL of another generation at a page that rests, and one of its own; a FAIL that a peer whose page is held sends back to a FAILED page; a member
that owes a fill its granules, heard 2 ms ago and 1 ns less. -/
theorem witness_Drains_absorbed :
    Absorbed (u0 (shardState (shardPte 3 false) [] 16384 false)) { msg with gen := 1 } (leafOf (shardPte 3 false))
    ∧ ¬Absorbed (u0 (shardState (shardPte 3 false) [] 16384 false)) msg (leafOf (shardPte 3 false))
    ∧ (let s := shardState (shardPte 7 false) [] 16384 false; let t := arrived s p0 2 0
       Taken s p0 ∧ Arrives s p0 2 0 t ∧ (∃ j, t.keyJob? p0.key = some j ∧ t.leaf? j.num msg.va = some (leafOf (shardPte 7 false))) ∧ pteShst (shardPte 7 false) = shFailed)
    ∧ (∀ now, now = 2000000 ∨ now = 1999999 → let s : State := { shardState (shardPte 6 false) [tr .fill false []] 16384 false with time := now }
       s.leaf? 0 0 = some (leafOf (shardPte 6 false)) ∧ s.leafGroup (leafOf (shardPte 6 false)) = some g2 ∧ s.pageHeld (leafOf (shardPte 6 false)) = false
       ∧ s.fill? 0 0 = some (tr .fill false []) ∧ (getKey (1#6).toNat (tr .fill false []).got).getD 0 < ownedBy (leafOf (shardPte 6 false)).granules g2.n (1#6).toNat
       ∧ (1#6).toNat < g2.n ∧ (1#6).toNat ≠ g2.rank ∧ getKey (1#6).toNat (tr .fill false []).heard = some 0 ∧ s.transition? 0 0 = none) := by
  refine ⟨⟨by decide, by decide, rfl, rfl⟩, fun h => absurd h.1 (by decide), ⟨taken0 _, ⟨fitting _ 0 2 rfl (by decide), rfl⟩, ⟨_, rfl, ?_⟩, by decide⟩, ?_⟩
  · exact (leaf_arrived _ _ _).trans leaf_failed
  · rintro now (rfl | rfl) <;>
      exact ⟨(leaf_time _ _ _ _).trans (leaf_shard 6 (by decide) _ _ _ _), rfl, rfl, rfl, by decide, by decide, by decide, rfl, rfl⟩

/-- A collective that has failed with a landing on another device unanswered; one that goes on; a byte away from its DST. -/
def closed : Coll := { theColl true with closing := some (3, 2) }
def landing : Request := ⟨3, 1, 0, 64, .collWrite 5 0, 0⟩
theorem witness_CollectiveSteps_closing : closed.closing = some (3, 2) ∧ (∀ st, (theColl st).closing = none)
    ∧ (∃ t, Arrives (openColl closed) (pkt 4) 0 4 t ∧ t.coll? 5 0 = some closed)
    ∧ (let s : State := { sg with fab := { sg.fab with requests := [landing] } }; ∃ r ∈ s.fab.requests, r.purpose = .collWrite (theColl true).sgid (theColl true).pair)
    ∧ (openColl closed).landingOut closed = false
    ∧ (sg.mem.hbm.wf = true ∧ ∀ c ∈ ((theColl true).par.landOrder 2 0).drop (theColl true).landed,
        ∀ x ∈ (theColl true).parts ((theColl true).par.dstOff 2 c) ((theColl true).par.chunkLen 2 c), x.1.overlap x.2.2 (.hbm 0) 1 = false)
    ∧ (let s : State := { openColl closed with fab := { (openColl closed).fab with requests := [landing] } }
       s.coll? 5 (0#32).toNat = some closed ∧ s.group? closed.sgid = some g2
       ∧ s.fab.requests.any (fun r => (r.purpose == .collRead closed.sgid closed.pair || r.purpose == .collWrite closed.sgid closed.pair) && decide (r.sent + 100000 ≤ s.time)) = true) := by
  refine ⟨rfl, fun st => by cases st <;> rfl, ⟨_, ⟨fitting _ 4 0 rfl (by decide), rfl⟩, rfl⟩, ⟨_, List.mem_singleton.mpr rfl, rfl⟩, rfl, ⟨by decide +kernel, by decide +kernel⟩, rfl, rfl, by decide⟩
/-- Grids that an abort flags: one with a block in execution; and one whose blocks have all ended. -/
theorem witness_SlicesAndTime_abort : (Goes (sliceState (aSlice 100000 0 false false)) (gridOf 1 1) ∧ (gridOf 1 1).job = g2.job)
    ∧ ¬Goes (sliceState (aSlice 100000 0 false false)) { gridOf 1 1 with nextUnit := 1 } := by
  refine ⟨⟨.inr (.inl (by decide)), rfl⟩, ?_⟩
  rintro (h | h | h | ⟨b, hb, -⟩)
  · cases h
  · exact absurd h (by decide)
  · exact h rfl
  · cases hb

/-- A fragment that waits: at trap entry, at a barrier it has arrived at, for a page, and for the answer to the write of its REL. -/
def parkedAs (why : Park) (f : Frag) : Frag := { f with run := .parked why 0 }
def relState : State :=
  let s := at' (parkedAs .remoteReply { f1 with relSent := true }) w0 b0 g0
  { s with fab := { s.fab with requests := [⟨3, 1, 0, 1, .load 4, 0⟩] } }
theorem witness_SavesAndEnds_stops : fe.run = .atEntry ⟨.software, 1, 0, 0⟩
    ∧ (let f := parkedAs .barrier { f0 with arrived := some (.bar 0) }; f.relSent = false ∧ (at' f w0 b0 g0).keepsOn f = true)
    ∧ (let f := parkedAs .page f0; f.relSent = false ∧ (at' f w0 b0 g0).keepsOn f = false ∧ (at' f w0 b0 g0).frag? f.id = some f ∧ (at' f w0 b0 g0).fab.engineWait = [])
    ∧ (let f := parkedAs .remoteReply { f1 with relSent := true }
       f.relSent = true ∧ f.replies = [] ∧ relState.frag? f.id = some f ∧ relState.warp? f.warp = some w0 ∧ w0.dctl.getLsbD 0 = false
       ∧ relState.fab.requests.find? (fun x => x.purpose == .load f.id) = some ⟨3, 1, 0, 1, .load 4, 0⟩) :=
  ⟨rfl, ⟨rfl, rfl⟩, ⟨rfl, rfl, rfl, rfl⟩, rfl, rfl, rfl, rfl, by decide, by decide⟩
/-- A job whose save region is [0x1000, 0x9000), one with too little room, and one with none. -/
def areaState (len : DWord) : State :=
  let s := sg; { s with work := { s.work with jobs := [⟨0, placedRoot, 0, false, [], [], [], some (0x1000, len)⟩] } }
theorem witness_SavesAndEnds_saves :
    (∀ x ∈ [b0], s0.block? x.id = some x ∧ (∀ q ∈ x.queues.toList, q = []) ∧ (∀ f ∈ s0.blockFrags x.id, f.run = .ready ∨ f.run = .stopped) ∧ ∀ w ∈ s0.blockWarps x.id, s0.behind w.id = [])
    ∧ (s0.work.blocks.map (·.id)).Nodup ∧ (∀ x ∈ [b0], s0.block? x.id = some x ∧ x.fsb = [] ∧ x.wire = [] ∧ x.bsb = [] ∧ (∀ q ∈ x.queues.toList, q = [])
      ∧ ∀ y ∈ s0.sync.redms, y.block ≠ x.id)
    ∧ ((at' f0 w0 bbsb g0).block? bbsb.id = some bbsb ∧ bbsb.fsb = [] ∧ bbsb.wire = [] ∧ bbsb.bsb ≠ [] ∧ ∀ e ∈ bbsb.bsb, e.held = false)
    ∧ (b0.run = .placed ∧ b0.restoring = false ∧ (∀ x ∈ s0.work.blocks, x.id = b0.id → x = b0) ∧ (s0.work.frags.map (·.id)).Nodup ∧ (s0.work.warps.map (·.id)).Nodup
      ∧ s0.mem.frames = [] ∧ s0.nextArea g0.job = none ∧ (∀ z ∈ s0.work.blocks, z.id ≠ b0.id → z.run = .saved ∨ ∀ h, s0.grid? z.grid = some h → h.job ≠ g0.job))
    ∧ (∀ len, (areaState len).nextArea 0 = some (0x1000, 0x1000 + len.toNat))
    ∧ (List.replicate 64 (0 : Byte)).length = 64 ∧ sg.leaf? 0 0x1000 = some (leafOf dataLeaf) ∧ (leafOf dataLeaf).place 0x1000 = .hbm 0x1000
    ∧ 1 ≤ [f0].length ∧ b0.kernel.vreg ≤ 64 ∧ b0.kernel.sreg ≤ 64 ∧ b0.kernel.treg ≤ 4 ∧ b0.kernel.areg ≤ 4 ∧ b0.quota.ql ≤ 2048
    ∧ b0.quota.qa ≤ 256 ∧ b0.quota.qw ≤ 64 ∧ b0.quota.qc ≤ 256 ∧ b0.quota.qpan ≤ 32 ∧ (s0.blockPans b0.id).length ≤ 32 := by
  refine ⟨?_, by decide, ?_, ⟨rfl, rfl, rfl, by decide, by decide⟩, ⟨rfl, rfl, (fun x hx _ => List.mem_singleton.mp hx), by decide, by decide, rfl, rfl,
    fun z hz h => absurd (congrArg Block.id (List.mem_singleton.mp hz)) h⟩, fun len => rfl, List.length_replicate, by decide, by decide, by decide, by decide, by decide, by decide, by decide,
    by decide, by decide, by decide, by decide, by decide, by decide⟩
  · intro x hx
    obtain rfl := List.mem_singleton.mp hx
    exact ⟨rfl, by decide, by decide, fun _ _ => rfl⟩
  · intro x hx
    obtain rfl := List.mem_singleton.mp hx
    exact ⟨rfl, rfl, rfl, rfl, by decide, by intro y hy; cases hy⟩
/-- The image of a block without warps does not fit into a region of no byte, and fits into one of 4 KiB. -/
def bsmall : Block := { b0 with quota := { b0.quota with qa := 0, qw := 0, qc := 0, qpan := 0 } }
def noWarps (len : DWord) : State := { areaState len with work := { (areaState len).work with warps := [], frags := [] } }
theorem witness_SavesAndEnds_area : (∀ len, (noWarps len).nextArea 0 = some (0x1000, 0x1000 + len.toNat))
    ∧ 0x1000 + (0#64).toNat < 0x1000 + ((noWarps 0).imageOf bsmall 0 0x1000).length
    ∧ 0x1000 + ((noWarps 0x1000).imageOf bsmall 0 0x1000).length ≤ 0x1000 + (0x1000#64).toNat :=
  ⟨fun _ => rfl, by decide +kernel, by decide +kernel⟩
/-- A block to be restored: from no image, from an image of 64 bytes at 0x1000, and one that still waits for a fill. -/
def brest (area : DWord) : Block := { b0 with restoring := true, area, areaLen := 64 }
theorem witness_SavesAndEnds_restores :
    (let s := paged dataLeaf (at' f1 w0 (brest 0) g0)
     s.block? (brest 0).id = some (brest 0) ∧ s.grid? (brest 0).grid = some g0 ∧ s.filling g0.job = false ∧ s.image? (brest 0) g0.job = none
     ∧ (∀ x ∈ s.work.blocks, x.id = (brest 0).id → x = brest 0) ∧ (s.work.warps.map (·.id)).Nodup)
    ∧ (shardState (shardPte 6 false) [tr .fill false []] 16384 false).filling 0 = true
    ∧ (let s := paged dataLeaf (at' f1 w0 (brest 0x1000) g0)
       s.filling g0.job = false ∧ (∃ img, s.image? (brest 0x1000) g0.job = some img) ∧ s.blockWarps (brest 0x1000).id = [w0] ∧ s.warpFrags w0.id = [f1] ∧ f1.relSent = false ∧ f1.replies = []) := by
  refine ⟨⟨rfl, rfl, rfl, rfl, (fun x hx _ => List.mem_singleton.mp hx), by decide⟩, rfl, rfl, Option.isSome_iff_exists.mp (by decide +kernel), rfl, rfl, rfl, rfl⟩

/-- An instruction that reads registers and one that reads none, a guard that reads a predicate, a product, and a shadow that differs; failed bits of a rank, new
and known; another lane of a partition remapped, or about to be, and the same lane. -/
theorem witness_ErrorsAndRepair_cases :
    (let g := { g0 with launch := { g0.launch with shadow := true } }
     ∀ c, let s : State := { at' f0 w0 b0 g with ctl := { (at' f0 w0 b0 g).ctl with consuming := c } }; s.current? = some (f0, w0, b0, g) ∧ g.launch.shadow = true ∧ s.ctl.chainFault = false)
    ∧ ([] : List Use) = [] ∧ always.g = 7 ∧ onP1.g ≠ 7 ∧ [Use.v 1 1] ≠ [] ∧ (∀ u ∈ [Use.v 1 1], u.ok b0.kernel = true)
    ∧ s0.sync.histories = [] ∧ s0.gangBlocks b0.grid b0.gang = [b0]
    ∧ ((4096#32).toNat % 2 ^ 12, (4096#32).toNat / 2 ^ 12 % 2 ^ 7) ∉ (worn 4).erasures ∧ 4 ≤ ((worn 4).erasures.filter (fun x => x.1 == (4096#32).toNat % 2 ^ 12)).length
    ∧ ((0#32).toNat % 2 ^ 12, (0#32).toNat / 2 ^ 12 % 2 ^ 7) ∈ (worn 4).erasures
    ∧ (∃ l, l ≠ (1#6).toNat ∧ ((191, (3#2).toNat, l) ∈ [(191, 3, 0)] ∨ Mend.lane 191 (3#2).toNat l ∈ State.reset.repair.mends))
    ∧ (∃ l, l ≠ (1#6).toNat ∧ ((191, (3#2).toNat, l) ∈ State.reset.repair.remaps ∨ Mend.lane 191 (3#2).toNat l ∈ [Mend.lane 191 3 0]))
    ∧ ((191, (3#2).toNat, (0#6).toNat) ∈ [(191, 3, 0)] ∧ ∀ l, l ≠ (0#6).toNat → (191, (3#2).toNat, l) ∉ [(191, 3, 0)] ∧ Mend.lane 191 (3#2).toNat l ∉ State.reset.repair.mends)
    ∧ (∀ g ∈ s0.work.grids, g.launch.gang ≤ 1 ∨ s0.gangPossible g = true ∨ g.run = .held) := by
  refine ⟨fun c => ⟨rfl, rfl, rfl⟩, rfl, rfl, by decide, by decide, by decide, rfl, by decide, by decide, by decide, by decide, ⟨0, by decide, .inl (by decide)⟩,
    ⟨0, by decide, .inr (by decide)⟩, ⟨by decide, fun l hl => ⟨?_, by intro h; cases h⟩⟩, ?_⟩
  · intro h
    simp only [List.mem_singleton, Prod.mk.injEq] at h
    exact hl h.2.2
  · intro g hg
    obtain rfl := List.mem_singleton.mp hg
    exact .inl (by decide)
/-- For a host that the configuration admits, a byte range that the aperture serves, poisoned or not; reads of the window with and without an answer. -/
def granted (s : State) (host : Nat) : State := { s with fw := { s.fw with grants := [⟨host, 0, 1⟩] } }
theorem witness_BaseDieAndWindow_hosts :
    (∀ host, Config.admitted host = true → Serves (granted poisonState host) host 0 64 ∧ Serves (granted sg host) host 0 64)
    ∧ (∀ host, (granted poisonState host).isPoisoned (.hbm 0) 64 = true ∧ (granted sg host).isPoisoned (.hbm 0) 64 = false)
    ∧ ¬OpenWindow State.reset ∧ OpenWindow upState
    ∧ (State.reset.fw.dstat.rom = true ∧ ((4 = 0 ∨ 4 = 4) ∧ 0 + 8 ≤ 8) ∧ ¬((1 = 0 ∨ 1 = 4) ∧ 0 + 8 ≤ 8))
    ∧ (upState.fw.dstat.rom = false ∧ 0 + 8 ≤ 2 ^ 39 ∧ 0 + 8 ≤ 0x10000000 ∧ ¬2 ^ 37 < 0 + 8) := by
  have h : ∀ s host, s.fw.dstat = up → s.heldAt (.hbm 0) 64 = false → 64 ≤ s.capacity → Config.admitted host = true → Serves (granted s host) host 0 64 := by
    intro s host hu hh hc ha
    refine ⟨ha, opens _ hu, hc, fun i hi => ⟨_, List.mem_singleton.mpr rfl, rfl, Nat.zero_le _, ?_⟩, hh⟩
    have : i < 1 := hi
    show 0 / 65536 + i < 0 + 1
    omega
  refine ⟨fun host ha => ⟨h _ _ rfl (by decide) (by decide +kernel) ha, h _ _ rfl (by decide) (by decide +kernel) ha⟩, fun host => ⟨rfl, rfl⟩, ?_, opens _ rfl,
    ⟨rfl, by decide, by decide⟩, rfl, by decide, by decide, by decide⟩
  intro h; exact absurd h.1 (by decide)
/-- A queue of a job that is closed; a queue whose grids are held, or released, with a place for the completion record. -/
theorem witness_FirmwareRequests_queues : (bare.job? 1 = none ∧ ∀ q, bare.queue? ((0#16).setWidth 12) = some q → q.job ≠ 1)
    ∧ (let q : Queue := { q0 with job := 1, tail := 1 }; let s : State := { bare with work := { bare.work with queues := [q] } }
       s.queue? 0 = some q ∧ s.job? 1 = none ∧ (q.size = 16 ∧ q.job = 1) ∧ q.isReset = false)
    ∧ (∀ r, r = .held ∨ r = .released → let y := { g0 with run := r }; let s := host q0 [y] [] []
       s.queue? 0 = some q0 ∧ q0.num = 0 ∧ (s.work.grids.map (·.key)).Nodup ∧ s.work.grids = [y] ∧ y.gid.queue = 0 ∧ s.mem.hbm.wf = true
       ∧ s.cvaPlace? y.job y.launch.cva = some (.hbm 0)) := by
  refine ⟨⟨by decide, ?_⟩, ⟨rfl, by decide, ⟨rfl, rfl⟩, by decide⟩, ?_⟩
  · intro q hq
    obtain rfl : ({ q0 with size := 32 } : Queue) = q := Option.some.inj ((show bare.queue? ((0#16).setWidth 12) = some { q0 with size := 32 } from rfl).symm.trans hq)
    decide
  · rintro r (rfl | rfl) <;> exact ⟨rfl, rfl, by decide, rfl, rfl, by decide +kernel, by decide +kernel⟩
/-- MAP before and after main memory takes accesses; a private and a sharded leaf of HBM. -/
theorem witness_FirmwareRequests_pages : ¬OpenWindow State.reset ∧ OpenWindow bare ∧ bare.group? (pteSgid (shardPte 1 false)) = some g2 ∧ pteV (shardPte 1 false) = true
    ∧ pteShst (shardPte 1 false) ≠ shPrivate ∧ pteShst dataLeaf = shPrivate ∧ placeOfPa (65536 * (ptePfn dataLeaf).toNat) = .hbm 0
    ∧ placeOfPa (65536 * (ptePfn (shardPte 1 false)).toNat) = .hbm 0 := by
  refine ⟨fun h => absurd h.1 (by decide), opens _ rfl, by decide, by decide, by decide, by decide, by decide, by decide⟩
/-- Code with an uncorrectable error; a grid with SHADOW; what the shadow has and has not matched. -/
theorem witness_StepRuns_shadow :
    (let s := placed 32 0; let s : State := { s with mem := { s.mem with poisoned := [1] } }; ∃ a s1, (begunStep s []).fetch g0.job b0.kernel f0.pc = (.poison a, s1))
    ∧ (let g := { g0 with launch := { g0.launch with shadow := true } }; g.launch.shadow = true ∧ (at' f0 w0 b0 g).grid? b0.grid = some g)
    ∧ (stepState 0 false).ctl.retired = false ∧ (stepState 0 true).ctl.retired = true ∧ s0.trapped f0 = false ∧ (at' fe w0 b0 g0).trapped f0 = true
    ∧ (let x : Unmatched := ⟨w0, [f0], false⟩; let s : State := { s0 with work := { s0.work with unmatched := [x] } }
       s.behind w0.id ≠ [] ∧ s0.behind w0.id = [] ∧ s.work.unmatched = [] ++ x :: [] ∧ x.warp.id = w0.id)
    ∧ leavesRegs (.exit always) = true ∧ leavesRegs (.nop false) = false ∧ (∀ x, s0.ctl.consuming = some x → x.frag ≠ f0.id) := by
  refine ⟨⟨_, _, rfl⟩, ⟨rfl, rfl⟩, rfl, rfl, by decide, by decide, ⟨by decide, rfl, rfl, rfl⟩, by decide, by decide, ?_⟩
  intro x h; cases h
/-- A stopped fragment of a block that is still to be restored from an image whose trap names the packet at 64. -/
def bimaged : Block := { b0 with restoring := true, area := 0x1000, areaLen := 0x1000, quota := { b0.quota with qa := 0, qw := 0, qc := 0, ql := 0, qpan := 0 } }
def imagedState : State :=
  let s := paged (dataLeaf ||| BitVec.ofNat 128 2) (at' { f1 with run := .stopped } w0 bimaged g0)
  askWith 0x10 { s with mem := { s.mem with hbm := s.mem.hbm.putN 0x1088 [64] } }
theorem witness_FirmwareRequests_debug : Asks imagedState 0x10 ∧ imagedState.warp? w0.id = some w0 ∧ imagedState.block? w0.block = some bimaged ∧ bimaged.id = w0.block
    ∧ imagedState.grid? bimaged.grid = some g0 ∧ bimaged.imaged = true ∧ b0.imaged = false ∧ (∃ img, imagedState.image? bimaged g0.job = some img)
    ∧ (let u := imagedState.readImage bimaged g0.job
       ∃ w2 f b2 next, u.warp? w0.id = some w2 ∧ (u.warpFrags w0.id).find? (fun x => x.run == .stopped) = some f ∧ u.block? w0.block = some b2
         ∧ u.boundary g0.job b2.kernel w2.frame.tpc = .ok next) := by
  refine ⟨asks _ 0x10 (by decide), rfl, rfl, rfl, rfl, rfl, rfl, Option.isSome_iff_exists.mp (by decide +kernel), ?_⟩
  have h : (let u := imagedState.readImage bimaged g0.job
      match u.warp? w0.id, (u.warpFrags w0.id).find? (fun x => x.run == .stopped), u.block? w0.block with
      | some w2, some _, some b2 => (match u.boundary g0.job b2.kernel w2.frame.tpc with | .ok _ => true | .error _ => false)
      | _, _, _ => false) = true := by decide +kernel
  revert h
  generalize imagedState.readImage bimaged g0.job = u
  cases h1 : u.warp? w0.id with
  | none => intro h; simp [h1] at h
  | some w2 =>
    cases h2 : (u.warpFrags w0.id).find? (fun x => x.run == .stopped) with
    | none => intro h; simp [h1, h2] at h
    | some f =>
      cases h3 : u.block? w0.block with
      | none => intro h; simp [h1, h2, h3] at h
      | some b2 =>
        cases h4 : u.boundary g0.job b2.kernel w2.frame.tpc with
        | error e => intro h; simp [h1, h2, h3, h4] at h
        | ok next => intro _; exact ⟨w2, f, b2, next, h1, h2, h3, h4⟩

/-! ## Ill-formed terms: one for each check of `Instr.wf` -/

/-- R81: a guard that never passes; a predicate destination 7. -/
theorem test_wf_head : (Instr.iadd ⟨false, 7, true⟩ 1 2 3).wf = false ∧ (Instr.plog always 7 0 0 0).wf = false ∧ (Instr.scmp false 7 0 0 false .eq).wf = false := by decide
/-- R125, R135 to R138. -/
theorem test_wf_compute : (Instr.bfx always 1 2 0 0 false).wf = false ∧ (Instr.bfi always 1 2 3 0 33).wf = false ∧ (Instr.cvt always 1 2 10 1 0 false).wf = false
    ∧ (Instr.cvt always 1 2 1 2 5 false).wf = false ∧ (Instr.cvtp always 1 2 3 1 0 false false).wf = false ∧ (Instr.cvtp always 1 2 3 2 0 false true).wf = false
    ∧ (Instr.cvtu always 1 2 2 2).wf = false := by decide
/-- R150, R157, R159, R162 to R164. -/
theorem test_wf_control : (Instr.calli always 1 2 false).wf = false ∧ (Instr.jmpi always 1 2 false).wf = false ∧ (Instr.reform always 17 0).wf = false
    ∧ (Instr.yield always 0 9).wf = false ∧ (Instr.shfl always 1 2 0 0 5 .zero false false 1 true .down).wf = false
    ∧ (Instr.shfl always 1 2 0 1 0 .zero false false 1 true .down).wf = false ∧ (Instr.shfl always 1 2 1 0 0 .zero false false 1 true .down).wf = false
    ∧ (Instr.shfl always 1 2 0 0 0 .zero false false 32 true .down).wf = false ∧ (Instr.shfl always 1 2 0 0 1 .keep false false 1 true .tid).wf = false
    ∧ (Instr.vote always 1 1 1 .ballot false false).wf = false ∧ (Instr.vote always 7 1 0 .any false false).wf = false
    ∧ (Instr.redw always 1 1 1 .addI32 false false).wf = false ∧ (Instr.scanw always 1 1 0 1 .addI32 false false false).wf = false := by decide
/-- R82, R171, R219, R220, R225, R226, R228 to R232: the space, the width, the qualifier, .SG, the colour, an index without IX, an indexed SLD, PREF
without one, the groups of registers, the operation and E. -/
theorem test_wf_memory : (Instr.stf always 4 (memAt 2 .g 2 0)).wf = false ∧ (Instr.ld always 4 (memAt 2 .a 5 0)).wf = false
    ∧ (Instr.ld always 4 { memAt 2 .a 2 0 with q := 1 }).wf = false ∧ (Instr.ld always 4 { memAt 2 .a 2 0 with sg := true }).wf = false
    ∧ (Instr.ld always 4 { memAt 2 .a 2 0 with col := 1 }).wf = false ∧ (Instr.ld always 4 { memAt 2 .a 2 0 with b := 1 }).wf = false
    ∧ (Instr.sld false 4 { memAt 2 .a 2 0 with ix := true }).wf = false ∧ (Instr.pref always (memAt 2 .g 0 0)).wf = false
    ∧ (Instr.ld always 5 (memAt 2 .a 3 0)).wf = false ∧ (Instr.atom always 4 (memAt 2 .g 2 0xD00)).wf = false ∧ (Instr.red always 4 (memAt 2 .g 2 0x800)).wf = false
    ∧ (Instr.redm always 4 (memAt 2 .g 2 0x900)).wf = false ∧ (Instr.atom always 4 { memAt 2 .g 3 0 with e := 1 }).wf = false
    ∧ (Instr.ld always 4 { memAt 2 .a 2 0 with e := 1 }).wf = false := by decide
/-- R234, R236, R241 to R243, R245, R270, R271. -/
theorem test_wf_engines : (Instr.cpy false 4 6 7 1 .a .g 2 .none).wf = false ∧ (Instr.cpy false 4 6 7 9 .l .g 2 .bar).wf = false
    ∧ (Instr.cpyt false 4 6 11 9 false false 1 .bar 0 0).wf = false ∧ (Instr.qfence false 1 0 .none 0).wf = false ∧ (Instr.ldt always 1 2 .c 4 0).wf = false
    ∧ (Instr.mma always 1 0 2 0 false .tile 2 1).wf = false ∧ (Instr.mma always 1 0 2 0 false .tile 4 2).wf = false ∧ (Instr.mma always 1 0 4 0 false .tile 2 2).wf = false
    ∧ (Instr.mma always 1 0 2 0 true .tile 2 2).wf = false ∧ (Instr.mma always 1 0 2 1 false .tile 2 2).wf = false ∧ (Instr.accrd always 1 1 32 false).wf = false
    ∧ (Instr.fence always true 7 0).wf = false ∧ (Instr.rel always 1 2 1 false 0).wf = false := by decide

/-! ## Values (by hand from the entries of the manual) -/

/-- What an instruction leaves in a register of lane 0, with V1 = `x` and V2 = `y` in every lane. -/
def vOf (i : Instr) (d : BitVec 6) (x y : Word) : Option Word :=
  match exec i (at' (fv x y) w0 b0 g0) with
  | .next t => (t.frag? 4).map (fun f => f.getV d 0)
  | _ => none
/-- R118, R119: wrap, the signed high half, the arithmetic and the logical shift by 32 and more, the empty word. -/
theorem test_integer : vOf (.iadd always 3 1 2) 3 0xFFFFFFFF 2 = some 1 ∧ vOf (.isub always 3 1 2) 3 1 2 = some 0xFFFFFFFF
    ∧ vOf (.imulh always 3 1 2 .ii) 3 0xFFFFFFFF 0xFFFFFFFF = some 0 ∧ vOf (.imin always 3 1 2 true) 3 0xFFFFFFFF 1 = some 0xFFFFFFFF
    ∧ vOf (.imin always 3 1 2 false) 3 0xFFFFFFFF 1 = some 1 ∧ vOf (.isar always 3 1 2) 3 0x80000000 31 = some 0xFFFFFFFF
    ∧ vOf (.clz always 3 1) 3 0 0 = some 32 ∧ vOf (.bfx always 3 1 4 8 true) 3 0x00000F80 0 = some 0xFFFFFFF8 := by decide +kernel
/-- R128 to R131: a tie to even, one rounding of a fused product, the sign of a zero sum toward minus infinity, the smaller zero, NaN results. -/
theorem test_float : vOf (.fadd always 3 1 2 0) 3 0x3F800000 0x33800000 = some 0x3F800000 ∧ vOf (.fadd always 3 1 2 3) 3 0x3F800000 0x33800000 = some 0x3F800001
    ∧ vOf (.fsub always 3 1 2 2) 3 0x3F800000 0x3F800000 = some 0x80000000 ∧ vOf (.fmin always 3 1 2) 3 0 0x80000000 = some 0x80000000
    ∧ vOf (.fmul always 3 1 2 0) 3 0x7F800000 0 = some 0x7FC00000 := by decide +kernel
/-- R139: the reciprocal of a zero. -/
theorem test_sfu : vOf (.rcp always 3 1) 3 0x80000000 0 = some 0xFF800000 ∧ vOf (.sqrt always 3 1) 3 0x40800000 0 = some 0x40000000 := by decide +kernel
/-- R162, R163: lane 0 takes lane 1's value, and a ballot of no predicate. -/
theorem test_lanes : vOf (.shfl always 3 1 0 0 0 .keep false false 1 true .down) 3 7 0 = some 7 := by decide +kernel
/-- R150: a word offset is counted from the packet. -/
theorem test_bra : (match exec (.bra always 3) (at' f0 w0 { b0 with kernel := { b0.kernel with npkt := 4 } } g0) with | .next t => (t.frag? 4).map (·.pc) | _ => none) = some (64 + 12 * 3) := by decide +kernel
/-- R323, R329: TRAP with a handler: the cause and the code, and the program counter of the TRAP, stand in the trap registers. -/
theorem test_trap : (match exec (.trap always 0x2A) (at' f0 (wt 64 0) b0 g0) with
    | .next t => (t.warp? 3).map (fun w => (w.frame.tpc, w.frame.tcause.toNat % 256, w.frame.tinfo)) | _ => none) = some (64, 0x19, 0x2A) := by decide +kernel
/-- R174: a store is seen by the fragment's own load. -/
theorem test_store_load : (match exec (.st always 1 (memAt 0 .a 2 16)) (at' (fv 0x11223344 0) w0 b0 g0) with
    | .next t => (match t.frag? 4, t.block? 2 with
        | some f, some b => some (seenBytes t f b (.buf 2 .a 16) 4)
        | _, _ => none)
    | _ => none) = some [0x44, 0x33, 0x22, 0x11] := by decide +kernel
/-- 06 R111: after reset with a NOP placed, the first step issues it. -/
theorem test_step_nop : (match step (State.reset.withFetchWord 32 0) with | .next t => (t.work.frags.map (·.pc)) == [68] | _ => false) = true := by decide

end Sys2Proof.Tests
end

section
/-! SUPPORT. The floating-point comparison (07 R131): masks and flags of lanes, the end of a
floating-point instruction, the order of values, FCMP. -/

namespace Sys2Proof.Machine

open Sys2Proof Sys2Proof.Claim

/-! ## Masks and flags, lane by lane -/

/-- The loop of `maskOf`, stopped after `n` lanes. -/
theorem getLsbD_foldl_setBits (p : Nat → Bool) (l n : Nat) (hn : n ≤ 32) :
    ((List.range n).foldl (fun (m : Mask) i => if p i then m ||| (1#32 <<< i) else m) 0).getLsbD l = (decide (l < n) && p l) := by
  induction n with
  | zero => simp
  | succ n ih =>
    rw [List.range_succ, List.foldl_append, List.foldl_cons, List.foldl_nil]
    have hbit : (1#32 <<< n).getLsbD l = decide (l = n) := by
      rw [← BitVec.twoPow_eq, BitVec.getLsbD_twoPow]
      simp [show n < 32 by omega, eq_comm]
    have hstep : ∀ m : Mask, (if p n then m ||| (1#32 <<< n) else m).getLsbD l = (m.getLsbD l || (decide (l = n) && p n)) := by
      intro m
      cases p n <;> simp [hbit]
    rw [hstep, ih (by omega)]
    by_cases hln : l = n
    · simp [hln]
    · simp [hln, show l < n + 1 ↔ l < n by omega]

/-- The mask of a predicate on lanes holds exactly the lanes below 32 that satisfy it. -/
@[simp] theorem getLsbD_maskOf (p : Nat → Bool) (l : Nat) : (maskOf p).getLsbD l = (decide (l < 32) && p l) :=
  getLsbD_foldl_setBits p l 32 le_rfl

theorem orFlags_eq_joined (act : Mask) (fl : Nat → Flags) : orFlags act fl = joined act fl := by
  unfold orFlags joined Mask.lanes
  rw [List.foldl_filter]

theorem enabled_eq (w : Warp) (l : Nat) (fl : Flags) (e : Nat) : enabled w l fl e = (fl.getLsbD e && (w.xen l).getLsbD e) := by
  unfold enabled Warp.xen
  cases w.threads.toList.getD l none <;> simp

theorem getLsbD_enabledLanes (w : Warp) (act : Mask) (fl : Nat → Flags) (e l : Nat) :
    (enabledLanes w act fl e).getLsbD l = true ↔ act.getLsbD l ∧ enabled w l (fl l) e = true := by
  have hlt : act.getLsbD l = true → l < 32 := BitVec.lt_of_getLsbD
  simp only [enabledLanes, getLsbD_maskOf, enabled_eq, Bool.and_eq_true, decide_eq_true_eq]
  tauto

theorem enabledLanes_eq_zero {w : Warp} {act : Mask} {fl : Nat → Flags} {e : Nat}
    (h : ∀ l, act.getLsbD l → enabled w l (fl l) e = false) : enabledLanes w act fl e = 0 := by
  refine BitVec.eq_of_getLsbD_eq fun l _ => ?_
  have hoff : ¬(enabledLanes w act fl e).getLsbD l = true := by
    rw [getLsbD_enabledLanes]
    rintro ⟨hact, hen⟩
    simp [h l hact] at hen
  simpa using hoff

theorem enabledLanes_ne_zero {w : Warp} {act : Mask} {fl : Nat → Flags} {e l : Nat}
    (hact : act.getLsbD l) (hen : enabled w l (fl l) e = true) : enabledLanes w act fl e ≠ 0 := by
  intro h0
  have := (getLsbD_enabledLanes w act fl e l).mpr ⟨hact, hen⟩
  simp [h0] at this

/-! ## How a floating-point instruction ends (02 R28, 18 R327) -/

theorem fpTrap_quiet {c : Ctx} {fl : Nat → Flags} (h : Quiet c.w c.f c.act fl) : c.fpTrap fl = none := by
  rcases h with hh | hq
  · simp [Ctx.fpTrap, hh]
  · have h0 : ∀ e, e ≤ 4 → enabledLanes c.w c.act fl e = 0 := fun e he => enabledLanes_eq_zero fun l hl => hq l e he hl
    simp [Ctx.fpTrap, fpOrder, h0]

/-- NV has the first place in the priority order: where an active lane raises it enabled, it is the cause. -/
theorem fpTrap_invalid {c : Ctx} {fl : Nat → Flags} (hh : c.f.handler = false) (hne : enabledLanes c.w c.act fl 4 ≠ 0) :
    c.fpTrap fl = some (.fpInvalid, enabledLanes c.w c.act fl 4) := by
  simp only [BitVec.ofNat_eq_ofNat] at hne
  simp [Ctx.fpTrap, hh, fpOrder, hne]

theorem substitute_eq_supplied (c : Ctx) (f : Frag) : substitute c f = supplied c.w c.f c.dst f := by
  unfold substitute supplied
  cases c.f.subst <;> cases c.dst <;> rfl

/-- To retire is to answer the state the claims call `retired`, at the word after the instruction. -/
theorem retire_eq_retired (c : Ctx) (f : Frag) : c.retire f = .next (retired c.s c.w c.f c.dst f (onward c.f c.words)) := by
  unfold Ctx.retire Ctx.retireIn finish retired onward
  rw [substitute_eq_supplied]

theorem fpRetire_quiet {c : Ctx} {fl : Nat → Flags} (f : Frag) (h : Quiet c.w c.f c.act fl) :
    c.fpRetire fl f = .next (retired c.s c.w c.f c.dst { f with fflags := c.f.fflags ||| joined c.act fl } (onward c.f c.words)) := by
  simp only [Ctx.fpRetire, fpTrap_quiet h, retire_eq_retired, orFlags_eq_joined]

theorem fpRetire_invalid {c : Ctx} {fl : Nat → Flags} (f : Frag) (hh : c.f.handler = false) (hne : enabledLanes c.w c.act fl 4 ≠ 0) :
    c.fpRetire fl f = .next (c.s.takeTrap c.f c.w c.b ⟨.fpInvalid, enabledLanes c.w c.act fl 4, 0,
      c.descriptor ||| ((joined c.act fl &&& 0x1F).setWidth 64 <<< 16)⟩) := by
  simp only [Ctx.fpRetire, fpTrap_invalid hh hne, Ctx.trapWith, orFlags_eq_joined, BitVec.ofNat_eq_ofNat]

/-- The descriptor of a predicate destination: class 3, the register above it (18 R325). -/
theorem descriptor_pred (d : BitVec 3) : (Dst.pred d).descriptor.setWidth 64 = BitVec.ofNat 64 (3 + 16 * d.toNat) := by
  revert d; decide

/-! ## The order of values (07 R131) -/

/-- The signed numerator over a smaller power of two stands for the same number. -/
theorem Fv.numOver_mul_two_zpow {base e : ℤ} (h : base ≤ e) (s : Bool) (n : Nat) :
    (Fv.numOver base (.fin s n e) : ℚ) * 2 ^ base = (if s then -1 else 1) * (n : ℚ) * 2 ^ e := by
  have hpow : (2 : ℚ) ^ (e - base).toNat * 2 ^ base = 2 ^ e := by
    rw [← zpow_natCast, Int.toNat_of_nonneg (by omega), ← zpow_add₀ two_ne_zero, sub_add_cancel]
  simp only [Fv.numOver]
  rw [← hpow]
  push_cast
  ring

theorem Fv.lt_fin_iff (s : Bool) (n : Nat) (e : ℤ) (t : Bool) (m : Nat) (d : ℤ) :
    (Fv.fin s n e).lt (.fin t m d) = true ↔ (if s then -1 else 1) * (n : ℚ) * 2 ^ e < (if t then -1 else 1) * (m : ℚ) * 2 ^ d := by
  rw [← Fv.numOver_mul_two_zpow (min_le_left e d) s n, ← Fv.numOver_mul_two_zpow (min_le_right e d) t m,
    mul_lt_mul_iff_left₀ (zpow_pos two_pos _), Int.cast_lt]
  exact decide_eq_true_iff

theorem Fv.nan_lt (nv : Bool) (y : Fv) : (Fv.nan nv).lt y = false := by cases y <;> rfl
theorem Fv.lt_nan (x : Fv) (nv : Bool) : x.lt (.nan nv) = false := by cases x <;> rfl

theorem Fv.lt_asymm {x y : Fv} (h : x.lt y = true) : y.lt x = false := by
  match x, y with
  | .nan nv, y => exact Fv.lt_nan y nv
  | x, .nan nv => exact Fv.nan_lt nv x
  | .inf s, .inf t => revert h; cases s <;> cases t <;> decide
  | .inf s, .fin _ _ _ => simpa [Fv.lt] using h
  | .fin _ _ _, .inf t => simpa [Fv.lt] using h
  | .fin s n e, .fin t m d =>
    rw [Bool.eq_false_iff, ne_eq, Fv.lt_fin_iff]
    exact not_lt_of_gt ((Fv.lt_fin_iff ..).mp h)

theorem Fv.not_lt_of_isNan {x y : Fv} (h : (x.isNan || y.isNan) = true) : x.lt y = false := by
  match x, y with
  | .nan nv, y => exact Fv.nan_lt nv y
  | x, .nan nv => exact Fv.lt_nan x nv
  | .inf _, .inf _ | .inf _, .fin _ _ _ | .fin _ _ _, .inf _ | .fin _ _ _, .fin _ _ _ => cases h

theorem Fv.eqv_eq (x y : Fv) : x.eqv y = (!(x.isNan || y.isNan) && (!x.lt y && !y.lt x)) := by
  simp [Fv.eqv, Bool.and_assoc]

/-- The order of the reals is total: less or equal is ordered and not greater. -/
theorem Fv.lt_or_eqv (x y : Fv) : (x.lt y || x.eqv y) = (!(x.isNan || y.isNan) && !y.lt x) := by
  rw [Fv.eqv_eq]
  cases hun : x.isNan || y.isNan with
  | true => simp [Fv.not_lt_of_isNan hun]
  | false =>
    cases hxy : x.lt y with
    | true => simp [Fv.lt_asymm hxy]
    | false => simp

theorem Fv.eqv_comm (x y : Fv) : x.eqv y = y.eqv x := by
  rw [Fv.eqv_eq, Fv.eqv_eq, Bool.or_comm, Bool.and_comm (!x.lt y)]

/-- Only an ordered pair is less. -/
theorem Fv.lt_eq_ordered_and_lt (x y : Fv) : x.lt y = (!(x.isNan || y.isNan) && x.lt y) := by
  cases hun : x.isNan || y.isNan with
  | true => simp [Fv.not_lt_of_isNan hun]
  | false => simp

/-! ## FCMP -/

/-- The two words of FCMP, its zero fields written out. -/
theorem encode_fcmp (h : Head) (d : BitVec 3) (a b : BitVec 6) (c : BitVec 3) :
    (Instr.fcmp h d a b c).encode
      = [BitVec.ofBool h.chain ++ 0x28#7 ++ h.g ++ BitVec.ofBool h.neg ++ 0#3 ++ d ++ a ++ b ++ 0#2, 0#6 ++ 0#23 ++ c] := by
  have hdst : BitVec.ofBool h.chain ++ 0x28#7 ++ h.g ++ BitVec.ofBool h.neg ++ (0#3 ++ d)
      = BitVec.ofBool h.chain ++ 0x28#7 ++ h.g ++ BitVec.ofBool h.neg ++ 0#3 ++ d := BitVec.append_assoc'
  have hext : 0#6 ++ (0#23 ++ c) = 0#6 ++ 0#23 ++ c := BitVec.append_assoc'
  rw [← hdst, ← hext]
  rfl

/-- A base word whose OP is 0x28 goes to the VALU (R84). -/
theorem pipeOf_fcmp {w : Word} (h : bits w 24 7 = 0x28#7) : pipeOf w = .valu := by
  simp [pipeOf, h]

theorem fpCompare_table (x y : Fv) :
    let un := x.isNan || y.isNan
    let q := if x.isSnan || y.isSnan then Flags.nv else 0
    let n := if un then Flags.nv else 0
    fpCompare 0 x y = (!un && (!x.lt y && !y.lt x), q)
    ∧ fpCompare 1 x y = (un || x.lt y || y.lt x, q)
    ∧ fpCompare 2 x y = (!un && x.lt y, n)
    ∧ fpCompare 3 x y = (!un && !y.lt x, n)
    ∧ fpCompare 4 x y = (!un && y.lt x, n)
    ∧ fpCompare 5 x y = (!un && !x.lt y, n)
    ∧ fpCompare 6 x y = (un, q)
    ∧ fpCompare 7 x y = (!un, q) := by
  intro un q n
  have heqv : x.eqv y = (!un && (!x.lt y && !y.lt x)) := Fv.eqv_eq x y
  have hle : (x.lt y || x.eqv y) = (!un && !y.lt x) := Fv.lt_or_eqv x y
  have hge : (y.lt x || x.eqv y) = (!un && !x.lt y) := by rw [Fv.eqv_comm, Fv.lt_or_eqv, Bool.or_comm]
  have hlt : x.lt y = (!un && x.lt y) := Fv.lt_eq_ordered_and_lt x y
  have hgt : y.lt x = (!un && y.lt x) := by
    rw [show un = (y.isNan || x.isNan) from Bool.or_comm ..]
    exact Fv.lt_eq_ordered_and_lt y x
  refine ⟨congrArg (·, q) heqv, congrArg (·, q) ?_, congrArg (·, n) hlt, congrArg (·, n) hle, congrArg (·, n) hgt,
    congrArg (·, n) hge, rfl, rfl⟩
  rw [heqv]
  simp [Bool.or_assoc]

/-- FCMP in an executing fragment compares lane by lane, and ends as a floating-point instruction with a predicate. -/
theorem exec_fcmp_run {s : State} {f : Frag} {w : Warp} {b : Block} {g : Grid} (hr : Runs s f w b g) (h : Head) (d : BitVec 3)
    {x y : BitVec 6} (c : BitVec 3) (hv : HasV b [x, y]) :
    let out := fun l => fpCompare c (fp32 (f.getV x l)) (fp32 (f.getV y l))
    exec (.fcmp h d x y c) s = Ctx.fpRetire ⟨s, f, w, b, g, activeMask f h, .pred d, 2⟩ (fun l => (out l).2)
      (f.setP d (activeMask f h) (maskOf (fun l => (out l).1))) := by
  have huses : ∀ u ∈ [Use.v x 1, .v y 1], u.ok b.kernel = true := by
    simpa [Use.ok] using And.intro (vecOk_one (hv x (by simp))) (vecOk_one (hv y (by simp)))
  rw [exec_fcmp, execFcmp, issue_run hr.cur hr.noChainFault hr.noError rfl huses]
  rfl

/-- Settles O7: the words and the table by computation, the order by scaling both numerators to one power of two, and the two
ends by the laws of `Ctx.fpRetire`. -/
theorem floatComparison : Obligations.FloatComparison := by
  unfold Obligations.FloatComparison
  refine ⟨fun h d a b c => ⟨encode_fcmp h d a b c, pipeOf_fcmp (by simp)⟩, Fv.lt_fin_iff, fun s n e => ⟨rfl, rfl, rfl, rfl, rfl, rfl⟩,
    fpCompare_table, ?_⟩
  intro s f w b g hr h d x y c hv act out
  rw [exec_fcmp_run hr h d c hv]
  refine ⟨fun hq => fpRetire_quiet _ hq, fun hh ⟨l, _, hact, hen⟩ => ?_⟩
  refine ⟨enabledLanes w act (fun l => (out l).2) 4, fun l _ => getLsbD_enabledLanes .., ?_⟩
  rw [fpRetire_invalid _ hh (enabledLanes_ne_zero hact hen), Ctx.descriptor, descriptor_pred]

end Sys2Proof.Machine
end

section
/-! SUPPORT. The uniform branch (08 R151): the lanes of ACTIVE, the targets of a transfer, transfers of all lanes to one
target, BRU. -/

namespace Sys2Proof.Machine

open Sys2Proof Sys2Proof.Claim

/-! ## ACTIVE, lane by lane (05 R81; 18 R330) -/

theorem getLsbD_activeMask (f : Frag) (h : Head) {l : Nat} (hl : l < 32) :
    (activeMask f h).getLsbD l = (f.mask.getLsbD l && ((f.getP h.g).getLsbD l ^^ h.neg) && !(f.subst.getD 0).getLsbD l) := by
  unfold activeMask guardMask
  cases h.neg <;> simp [hl]

/-- Predicate 7 holds for every lane, so its guard leaves the fragment mask or, negated, nothing. -/
theorem activeMask_predicate_seven {f : Frag} {h : Head} (hs : f.subst = none) (hg : h.g = 7) :
    activeMask f h = if h.neg then 0 else f.mask := by
  have htrue : f.getP 7 = BitVec.allOnes 32 := rfl
  have hnosubst : ~~~(f.subst.getD 0) = BitVec.allOnes 32 := by rw [hs]; rfl
  rw [activeMask, hnosubst, BitVec.and_allOnes, guardMask, hg, htrue]
  cases h.neg
  · exact BitVec.and_allOnes
  · exact BitVec.and_zero

theorem Mask.lanes_ne_nil {m : Mask} (hm : m ≠ 0) : Mask.lanes m ≠ [] := by
  contrapose! hm
  refine BitVec.eq_of_getLsbD_eq fun l hl => ?_
  have hout : l ∉ Mask.lanes m := by simp [hm]
  simpa [Mask.lanes, hl] using hout

/-- A mask is rebuilt from the list of its lanes. -/
theorem maskOf_any_lanes (m : Mask) : maskOf (fun l => (Mask.lanes m).any (fun x => x == l)) = m := by
  refine BitVec.eq_of_getLsbD_eq fun l hl => ?_
  rw [getLsbD_maskOf, Bool.eq_iff_iff]
  simp [Mask.lanes, hl]

/-! ## Targets of control transfers (05 R73, R74) -/

theorem Kernel.inside_iff (k : Kernel) (t : DWord) :
    k.inside t = true ↔ k.va.toNat + 64 ≤ t.toNat ∧ t.toNat < k.va.toNat + 64 + 12 * k.npkt := by
  rw [Kernel.inside, Kernel.base, Bool.and_eq_true, decide_eq_true_iff, decide_eq_true_iff]

/-- The packets are the addresses inside the code at a multiple of 12 bytes from its start. -/
theorem isPacket_iff (k : Kernel) (t : DWord) : IsPacket k t ↔ k.inside t = true ∧ (t.toNat - k.base) % 12 = 0 := by
  rw [Kernel.inside_iff]
  unfold Kernel.base
  constructor
  · rintro ⟨n, hn, ht⟩
    omega
  · rintro ⟨⟨hlo, hhi⟩, hmod⟩
    exact ⟨(t.toNat - (k.va.toNat + 64)) / 12, by omega, by omega⟩

theorem targetTrap_packet {k : Kernel} {t : DWord} (h : IsPacket k t) : k.targetTrap t = none := by
  obtain ⟨hin, hmod⟩ := (isPacket_iff k t).mp h
  simp [Kernel.targetTrap, hin, hmod]

theorem targetTrap_outside {k : Kernel} {t : DWord} (h : ¬k.inside t = true) : k.targetTrap t = some .illegalOp := by
  simp [Kernel.targetTrap, h]

theorem targetTrap_between {k : Kernel} {t : DWord} (hin : k.inside t = true) (h : ¬IsPacket k t) : k.targetTrap t = some .misaligned := by
  have hmod : (t.toNat - k.base) % 12 ≠ 0 := fun h0 => h ((isPacket_iff k t).mpr ⟨hin, h0⟩)
  simp [Kernel.targetTrap, hin, hmod]

theorem label_eq_ofs (c : Ctx) (o : BitVec 20) : c.label o = ofs c.f c.b.kernel o := by
  have hext : 12 * o.signExtend 64 = BitVec.ofInt 64 (12 * o.toInt) := by
    rw [BitVec.signExtend, BitVec.ofInt_mul]
    rfl
  rw [Ctx.label, ofs, hext]

/-! ## Transfers of all lanes to one target (08 R149) -/

/-- Retiring a control transfer at `pc` answers the state the claims call `retired`. -/
theorem finish_eq_retired (c : Ctx) (f : Frag) (pc : DWord) :
    (c.s.setFrag (finish c f pc)).markRetired = retired c.s c.w c.f c.dst f pc := by
  unfold finish retired
  rw [substitute_eq_supplied]

theorem lanesTo_allTo (c : Ctx) (t : DWord) : lanesTo (c.allTo t) t = c.act := by
  rw [lanesTo, Ctx.allTo]
  simpa [List.any_map, Function.comp_def] using maskOf_any_lanes c.act

/-- The lanes that a transfer of ACTIVE takes along are those of ACTIVE. -/
theorem maskOf_any_allTo (c : Ctx) (t : DWord) : maskOf (fun l => (c.allTo t).any (fun x => x.1 == l)) = c.act := by
  rw [Ctx.allTo]
  simpa [List.any_map, Function.comp_def] using maskOf_any_lanes c.act

/-- One target is listed once, whatever the number of lanes. -/
theorem targetsOf_allTo {c : Ctx} (hne : c.act ≠ 0) (t : DWord) : targetsOf (c.allTo t) = [t] := by
  obtain ⟨l, ls, hls⟩ := List.exists_cons_of_ne_nil (Mask.lanes_ne_nil hne)
  have honce : distinct ((c.allTo t).map (·.2)) = [t] := by
    rw [distinct, Ctx.allTo, hls, List.map_map, List.foldl_map, List.foldl_cons]
    exact List.foldl_fixed' (by simp) ls
  rw [targetsOf, honce]
  rfl

/-- Where every lane goes to one bad target, the trap names that target and all the lanes. -/
theorem checkTargets_allTo_bad {c : Ctx} (hne : c.act ≠ 0) {t : DWord} {k : Cause} (ht : c.b.kernel.targetTrap t = some k) (go : Out) :
    c.checkTargets (c.allTo t) go = c.trapWith k c.act t c.descriptor := by
  obtain ⟨l, ls, hls⟩ := List.exists_cons_of_ne_nil (Mask.lanes_ne_nil hne)
  have hbad : (c.allTo t).filterMap (fun x => (c.b.kernel.targetTrap x.2).map (fun k => (x, k)))
      = (Mask.lanes c.act).map (fun l => ((l, t), k)) := by
    simp [Ctx.allTo, List.filterMap_map, ht]
  have hlanes : maskOf (fun l => ((Mask.lanes c.act).map (fun l => ((l, t), k))).any (fun x => x.1.1 == l && x.2 == k)) = c.act := by
    simpa [List.any_map, Function.comp_def] using maskOf_any_lanes c.act
  unfold Ctx.checkTargets
  simp only [hbad]
  rw [hls] at hlanes ⊢
  rw [List.map_cons, List.foldl_cons, List.foldl_map, List.foldl_fixed' (by simp) ls]
  exact congrArg (c.trapWith k · t c.descriptor) hlanes

theorem checkTargets_allTo_packet {c : Ctx} {t : DWord} (ht : c.b.kernel.targetTrap t = none) (go : Out) :
    c.checkTargets (c.allTo t) go = go := by
  have hbad : (c.allTo t).filterMap (fun x => (c.b.kernel.targetTrap x.2).map (fun k => (x, k))) = [] := by
    simp [Ctx.allTo, ht]
  unfold Ctx.checkTargets
  simp only [hbad, List.foldl_nil]

theorem jump_allTo_bad {c : Ctx} (hne : c.act ≠ 0) {t : DWord} {k : Cause} (ht : c.b.kernel.targetTrap t = some k) :
    c.jump (c.allTo t) = .next (c.s.takeTrap c.f c.w c.b ⟨k, c.act, t, c.descriptor⟩) :=
  checkTargets_allTo_bad hne ht _

/-- A transfer of the whole fragment to one packet leaves no lane behind, so nothing splits and handler mode allows it. -/
theorem jump_whole_fragment {c : Ctx} (hall : c.act = c.f.mask) (hne : c.act ≠ 0) {t : DWord} (ht : c.b.kernel.targetTrap t = none) :
    c.jump (c.allTo t) = .next (retired c.s c.w c.f c.dst c.f t) := by
  have hrest : c.f.mask &&& ~~~(maskOf (fun l => (c.allTo t).any (fun x => x.1 == l))) = 0#32 := by
    rw [maskOf_any_allTo, hall]
    exact BitVec.and_not_self _
  have honeWay : ∀ go, c.oneWay (c.allTo t) go = go := by
    intro go
    unfold Ctx.oneWay
    rw [hrest, targetsOf_allTo hne]
    simp
  have htransfer : c.transfer c.s (c.allTo t) = .next ((c.s.setFrag (finish c c.f t)).markRetired) := by
    unfold Ctx.transfer
    simp only [hrest, targetsOf_allTo hne, lanesTo_allTo, hall]
    rfl
  rw [Ctx.jump, checkTargets_allTo_packet ht, honeWay, htransfer, finish_eq_retired]

/-! ## BRU -/

theorem encode_bru (h : Head) (o : BitVec 20) :
    (Instr.bru h o).encode = [(BitVec.ofBool h.chain ++ 0x51#7 ++ h.g ++ BitVec.ofBool h.neg ++ o : Word)] := by
  have hfields : BitVec.ofBool h.chain ++ 0x51#7 ++ h.g ++ BitVec.ofBool h.neg ++ bits o 14 6 ++ bits o 8 6 ++ bits o 2 6 ++ bits o 0 2
      = (BitVec.ofBool h.chain ++ 0x51#7 ++ h.g ++ BitVec.ofBool h.neg ++ (bits o 14 6 ++ bits o 8 6 ++ bits o 2 6 ++ bits o 0 2) : Word) := by
    simp only [BitVec.append_assoc', BitVec.cast_eq]
  rw [Laws.ofs20] at hfields
  rw [← hfields]
  rfl

/-- BRU in an executing fragment looks at ACTIVE before anything else. -/
theorem exec_bru_run {s : State} {f : Frag} {w : Warp} {b : Block} {g : Grid} (hr : Runs s f w b g) (h : Head) (o : BitVec 20) :
    let c : Ctx := ⟨s, f, w, b, g, activeMask f h, .none, 1⟩
    exec (.bru h o) s = if c.act = 0 then c.retire c.f else if c.act ≠ c.f.mask then c.trap .nonuniform c.act else c.jump (c.allTo (ofs f b.kernel o)) := by
  intro c
  rw [exec_bru, execBru, issue_run hr.cur hr.noChainFault hr.noError rfl (by simp)]
  simp only [beq_iff_eq, bne_iff_ne]
  rw [label_eq_ofs]
  rfl

/-- Settles O14: the cases of R151 are the branches of BRU, and a transfer of the whole fragment goes to one target. -/
theorem uniformBranch : Obligations.UniformBranch := by
  unfold Obligations.UniformBranch
  refine ⟨encode_bru, fun f h l hl => ⟨fun hs => ?_, fun m hs => ?_⟩, fun f h => activeMask_predicate_seven, ?_⟩
  · simp [getLsbD_activeMask f h hl, hs]
  · simp [getLsbD_activeMask f h hl, hs, and_assoc]
  intro s f w b g hr h o act
  have hrun := exec_bru_run hr h o
  refine ⟨fun h0 => ?_, fun hall hne hp => ?_, fun hall hne hp => ?_, fun hne hpart => ?_⟩
  · rw [hrun, if_pos h0, retire_eq_retired]
  · rw [hrun, if_neg hne, if_neg (not_not.mpr hall), jump_whole_fragment hall hne (targetTrap_packet hp)]
  · rw [hrun, if_neg hne, if_neg (not_not.mpr hall)]
    intro t inside
    have hinside : b.kernel.inside t = true ↔ inside := Kernel.inside_iff _ _
    exact ⟨fun hout => jump_allTo_bad hne (targetTrap_outside (mt hinside.mp hout)),
      fun hin => jump_allTo_bad hne (targetTrap_between (hinside.mpr hin) hp)⟩
  · rw [hrun, if_neg hne, if_pos hpart]
    rfl

end Sys2Proof.Machine
end
